-- ==== Sys2Proof/Word.lean ====
section
/-! DEFINITION. The words and index types of the D820 (spec 0.6.5): what the manual treats as bits is a bit vector,
an index into a table is a `Fin`, a count is a `Nat`. -/

namespace Sys2Proof

/-- One byte of a frame. -/
abbrev Byte := BitVec 8

/-- A station number (0.6.5); 0 and 65535 are not stations. -/
abbrev Station := BitVec 16

/-- A lot tag or a shipment tag (0.6.5): 64 opaque bits. -/
abbrev Tag := BitVec 64

/-- A 16-bit touchdown sequence number (3.2). -/
abbrev Seq := BitVec 16

/-- A set of sites 0–15: bit s stands for site s (R184). -/
abbrev SiteMask := BitVec 16

/-- A value of the floor clock: 48 bits of milliseconds (R177). -/
abbrev FloorTime := BitVec 48

/-- A lot slot, 0–255. -/
abbrev LotSlot := Fin 256

/-- A cell index, 0–63. -/
abbrev CellIx := Fin 64

/-- A run index, 0–191. -/
abbrev RunIx := Fin 192

/-- A route index, 0–47. -/
abbrev RouteIx := Fin 48

/-- A limit set index, 0–63. -/
abbrev LimitIx := Fin 64

/-- A shipment slot, 0–63. -/
abbrev ShipSlot := Fin 64

/-- A run position within a lot's current step, 0–3. -/
abbrev RunPlace := Fin 4

/-- The two ports of the part (0.2). -/
inductive Port where
  | f   -- floor side
  | c   -- cell side
  deriving DecidableEq, Repr

/-- The role of a station in its cell (R73). -/
inductive Role where
  | tester
  | handler
  deriving DecidableEq, Repr

end Sys2Proof
end

