-- ==== Sys2Proof/Syntax.lean ====
section
/-! DEFINITION. The commands of the D820: one constructor for each row of spec/opcode_table.json. A report carries the
whole of the frame that brought it (its envelope and the fields of its body), a request carries its source, its tag and
its arguments at the widths of Table 11-3, and an internal event carries the record it concerns. -/

namespace Sys2Proof

/-- What a report frame carries beside its body: the Ethernet addresses, the stations and the tag field of the common
header (Table 11-1), and the bytes beyond the named body (R185). With the body these make the frame whole, since the
type, version, class, kind, length and both checks follow from them (R183). -/
structure Envelope where
  ethDst : BitVec 48
  ethSrc : BitVec 48
  dst    : Station
  src    : Station
  tag    : BitVec 16
  pad    : List Byte
  deriving DecidableEq, Repr

/-- What MGT reads of a request's header: the source station, the request tag, and the body length as the frame
carries it (R173, R174). -/
structure ReqHead where
  src     : Station
  tag     : BitVec 16
  bodyLen : BitVec 16
  deriving DecidableEq, Repr

/-- One site entry of a TOUCHDOWN: the site in the high four bits of its byte, the hard bin in the low four
(Table 11-2). -/
structure SiteEntry where
  site : BitVec 4
  bin  : BitVec 4
  deriving DecidableEq, Repr

/-- The arguments of SET_PROFILE (Table 11-3). -/
structure ProfileArgs where
  partStation     : Station
  floorHost       : Station
  cellsInUse      : Byte
  heartbeat       : Byte
  load            : BitVec 16
  golden          : BitVec 16
  closing         : Byte
  counts          : BitVec 16
  goldenAfterDown : Byte
  aging           : Byte
  lookahead       : Byte
  escalation      : Byte
  forwardResults  : Byte
  deriving DecidableEq, Repr

/-- One step record of LOAD_ROUTE, as its 44 bytes carry it (after Table 11-3). -/
structure StepArgs where
  classMask       : Byte
  kit             : Byte
  setpoint        : BitVec 16
  programId       : BitVec 16
  revision        : Byte
  checksum        : BitVec 32
  limitSet        : Byte
  siteCount       : Byte
  minSites        : Byte
  maxRuns         : Byte
  changeoverLimit : BitVec 16
  goldenInterval  : BitVec 16
  maxRetest       : Byte
  map             : Vector Byte 16
  trayClasses     : Vector Byte 8
  deriving DecidableEq, Repr

/-- The values of LOAD_LIMITS (Table 11-3); entry h − 1 of `fmax` is Fmax[h]. -/
structure LimitArgs where
  ymin      : BitVec 16
  nmin      : BitVec 16
  fmax      : Vector (BitVec 16) 15
  ywin      : BitVec 16
  w         : Byte
  nsite     : BitVec 16
  dmax      : BitVec 16
  cmax      : Byte
  yfinal    : BitVec 16
  trayTol   : Byte
  inputTol  : Byte
  polYield  : Byte
  polBin    : Byte
  polWindow : Byte
  polSite   : Byte
  polConsec : Byte
  deriving DecidableEq, Repr

/-- The commands of the part, in the order of spec/opcode_table.json. -/
inductive Instr where
  /-- POWER_ON_RESET (R181): RESETn is asserted and released. -/
  | powerOnReset
  /-- FRAME_ARRIVAL (R166): a complete frame arrives on a port, its bytes from the destination address to the end of
  the frame check sequence. -/
  | frameArrival (port : Port) (frame : List Byte)
  /-- STATE (R75): a station reports the equipment state of code `code`. -/
  | state (e : Envelope) (code : Byte)
  /-- SETUP_DONE (R100). -/
  | setupDone (e : Envelope) (kit : Byte) (temp : BitVec 16)
  /-- LOAD_DONE (R101). -/
  | loadDone (e : Envelope) (id : BitVec 16) (rev : Byte) (checksum : BitVec 32)
  /-- LOAD_FAIL (R102). -/
  | loadFail (e : Envelope) (id : BitVec 16) (rev : Byte)
  /-- GOLDEN_DONE (R104). -/
  | goldenDone (e : Envelope) (mask : SiteMask)
  /-- TOUCHDOWN (R46). -/
  | touchdown (e : Envelope) (seq : Seq) (entries : List SiteEntry)
  /-- PASS_END (R141). -/
  | passEnd (e : Envelope) (pass : Byte) (fed : BitVec 24) (last : Seq)
  /-- RUN_COUNTS (R148). -/
  | runCounts (e : Envelope) (fed : BitVec 24) (trays : Vector (BitVec 24) 8)
  /-- SET_PROFILE (R175). -/
  | setProfile (h : ReqHead) (a : ProfileArgs)
  /-- OPERATE (R176). -/
  | operate (h : ReqHead)
  /-- SET_CLOCK (R177). -/
  | setClock (h : ReqHead) (clock : FloorTime)
  /-- LOAD_ROUTE (R37): `count` is the step count the request carries, `steps` the step records that follow it. -/
  | loadRoute (h : ReqHead) (route : Byte) (product : BitVec 32) (count : Byte) (steps : List StepArgs)
  /-- LOAD_LIMITS (R42). -/
  | loadLimits (h : ReqHead) (set : Byte) (a : LimitArgs)
  /-- LOAD_CELL (R74). -/
  | loadCell (h : ReqHead) (cell : Byte) (tester : Station) (handler : Station) (cls : Byte)
  /-- LOT_ADD (R22). -/
  | lotAdd (h : ReqHead) (tag : Tag) (route : Byte) (quantity : BitVec 24) (cls : Byte) (split : Byte) (preempt : Byte)
  /-- LOT_PRIORITY (R23). -/
  | lotPriority (h : ReqHead) (tag : Tag) (cls : Byte)
  /-- LOT_HOLD (R24). -/
  | lotHold (h : ReqHead) (tag : Tag) (policy : Byte)
  /-- LOT_RELEASE (R25): position 0xFF stands for none. -/
  | lotRelease (h : ReqHead) (tag : Tag) (kind : Byte) (position : Byte)
  /-- LOT_SCRAP (R26). -/
  | lotScrap (h : ReqHead) (tag : Tag)
  /-- LOT_RETIRE (R27). -/
  | lotRetire (h : ReqHead) (tag : Tag)
  /-- LOT_QUERY (R28). -/
  | lotQuery (h : ReqHead) (tag : Tag)
  /-- RUN_ABORT (R151). -/
  | runAbort (h : ReqHead) (tag : Tag) (position : Byte)
  /-- CELL_CLEAR (R87). -/
  | cellClear (h : ReqHead) (cell : Byte)
  /-- CELL_RESET (R88). -/
  | cellReset (h : ReqHead) (cell : Byte)
  /-- CELL_DRAIN (R89). -/
  | cellDrain (h : ReqHead) (cell : Byte) (setting : Byte)
  /-- CELL_COUNTERS_CLEAR (R92). -/
  | cellCountersClear (h : ReqHead) (cell : Byte)
  /-- CELL_QUERY (R90). -/
  | cellQuery (h : ReqHead) (cell : Byte)
  /-- SHIP_OPEN (R156). -/
  | shipOpen (h : ReqHead) (tag : Tag) (product : BitVec 32) (grade : Byte) (maximum : BitVec 24)
  /-- SHIP_ADD (R157). -/
  | shipAdd (h : ReqHead) (tag : Tag) (lot : Tag)
  /-- SHIP_REMOVE (R158). -/
  | shipRemove (h : ReqHead) (tag : Tag) (lot : Tag)
  /-- SHIP_SEAL (R159). -/
  | shipSeal (h : ReqHead) (tag : Tag)
  /-- SHIP_RELEASE (R160). -/
  | shipRelease (h : ReqHead) (tag : Tag)
  /-- SHIP_CANCEL (R162). -/
  | shipCancel (h : ReqHead) (tag : Tag)
  /-- SHIP_RETIRE (R163). -/
  | shipRetire (h : ReqHead) (tag : Tag)
  /-- SHIP_QUERY (R164). -/
  | shipQuery (h : ReqHead) (tag : Tag)
  /-- QUEUE_QUERY (R178). -/
  | queueQuery (h : ReqHead)
  /-- STATUS (R178). -/
  | status (h : ReqHead)
  /-- FLOOR_RESET (R182). -/
  | floorReset (h : ReqHead)
  /-- UNKNOWN_REQUEST (R174): a request addressed to the part whose kind code is not one of Table 11-3. -/
  | unknownRequest (h : ReqHead) (kind : BitVec 16)
  /-- HEARTBEAT_EXPIRY (R77) for one station of a cell. -/
  | heartbeatExpiry (cell : CellIx) (role : Role)
  /-- STAGE_DEADLINE_EXPIRY (R108). -/
  | stageDeadlineExpiry (cell : CellIx)
  /-- CLOSING_DEADLINE_EXPIRY (R143). -/
  | closingDeadlineExpiry (cell : CellIx)
  /-- COUNTS_DEADLINE_EXPIRY (R150). -/
  | countsDeadlineExpiry (cell : CellIx)
  /-- AGING (R117). -/
  | aging (lot : LotSlot)
  /-- TRANSMIT_COMPLETE (R172): the port's transmitter finishes its frame. -/
  | transmitComplete (port : Port)
  deriving DecidableEq, Repr

end Sys2Proof
end

