-- ==== Sys2Proof/Decode.lean ====
section
/-! DEFINITION. The wire forms of Chapter 11: the byte order, the CRC, the common header, the bodies of reports and
requests, and what LNK makes of an arriving frame (R166 to R168, R183 to R185). Also `decodeTableWord`, which the host
asks for and which finds no bits in this part's table. -/

namespace Sys2Proof

/-! ## Bytes and the CRC -/

/-- The low `n` bytes of `v`, most significant first (R183). -/
def beBytes : Nat → Nat → List Byte
  | 0, _ => []
  | n + 1, v => BitVec.ofNat 8 (v / 256 ^ n) :: beBytes n v

/-- The number that `l` spells, most significant byte first (R183). -/
def ofBytes (l : List Byte) : Nat := l.foldl (fun a b => a * 256 + b.toNat) 0

/-- The bytes of `b` from offset `off`, `len` of them. -/
def slice (b : List Byte) (off len : Nat) : List Byte := (b.drop off).take len

/-- The number that the `len` bytes of `b` from offset `off` spell. -/
def numAt (b : List Byte) (off len : Nat) : Nat := ofBytes (slice b off len)

/-- One bit of the reflected CRC-32 with generator 0x04C11DB7 (R183). -/
def crcBit (c : BitVec 32) : BitVec 32 :=
  if c.getLsbD 0 then (c >>> 1) ^^^ 0xEDB88320#32 else c >>> 1

/-- One byte of the CRC. -/
def crcByte (c : BitVec 32) (b : Byte) : BitVec 32 :=
  crcBit (crcBit (crcBit (crcBit (crcBit (crcBit (crcBit (crcBit (c ^^^ b.zeroExtend 32))))))))

/-- The CRC-32 of R183: initial value 0xFFFFFFFF, reflected input and output, final complement. -/
def crc32 (l : List Byte) : BitVec 32 := ~~~ (l.foldl crcByte 0xFFFFFFFF#32)

/-! ## Kind codes (Tables 11-2 and 11-3) -/

/-- The kind code of a report or a request; none for an event that no floor message brings. -/
def Instr.kindCode : Instr → Option (BitVec 16)
  | .powerOnReset => none
  | .frameArrival _ _ => none
  | .state _ _ => some 0x0101
  | .setupDone _ _ _ => some 0x0102
  | .loadDone _ _ _ _ => some 0x0103
  | .loadFail _ _ _ => some 0x0104
  | .goldenDone _ _ => some 0x0105
  | .touchdown _ _ _ => some 0x0106
  | .passEnd _ _ _ _ => some 0x0107
  | .runCounts _ _ _ => some 0x0108
  | .setProfile _ _ => some 0x0301
  | .operate _ => some 0x0302
  | .setClock _ _ => some 0x0303
  | .loadRoute _ _ _ _ _ => some 0x0304
  | .loadLimits _ _ _ => some 0x0305
  | .loadCell _ _ _ _ _ => some 0x0306
  | .lotAdd _ _ _ _ _ _ _ => some 0x0310
  | .lotPriority _ _ _ => some 0x0311
  | .lotHold _ _ _ => some 0x0312
  | .lotRelease _ _ _ _ => some 0x0313
  | .lotScrap _ _ => some 0x0314
  | .lotRetire _ _ => some 0x0315
  | .lotQuery _ _ => some 0x0316
  | .runAbort _ _ _ => some 0x0317
  | .cellClear _ _ => some 0x0320
  | .cellReset _ _ => some 0x0321
  | .cellDrain _ _ _ => some 0x0322
  | .cellCountersClear _ _ => some 0x0323
  | .cellQuery _ _ => some 0x0324
  | .shipOpen _ _ _ _ _ => some 0x0330
  | .shipAdd _ _ _ => some 0x0331
  | .shipRemove _ _ _ => some 0x0332
  | .shipSeal _ _ => some 0x0333
  | .shipRelease _ _ => some 0x0334
  | .shipCancel _ _ => some 0x0335
  | .shipRetire _ _ => some 0x0336
  | .shipQuery _ _ => some 0x0337
  | .queueQuery _ => some 0x0340
  | .status _ => some 0x0341
  | .floorReset _ => some 0x0342
  | .unknownRequest _ k => some k
  | .heartbeatExpiry _ _ => none
  | .stageDeadlineExpiry _ => none
  | .closingDeadlineExpiry _ => none
  | .countsDeadlineExpiry _ => none
  | .aging _ => none
  | .transmitComplete _ => none

/-- The request kind codes of Table 11-3. -/
def requestKinds : List Nat :=
  [0x0301, 0x0302, 0x0303, 0x0304, 0x0305, 0x0306, 0x0310, 0x0311, 0x0312, 0x0313, 0x0314, 0x0315, 0x0316, 0x0317,
   0x0320, 0x0321, 0x0322, 0x0323, 0x0324, 0x0330, 0x0331, 0x0332, 0x0333, 0x0334, 0x0335, 0x0336, 0x0337,
   0x0340, 0x0341, 0x0342]

/-- The body length of each request kind (Table 11-3); LOAD_ROUTE's is 6 + 44c for the step count `c`. -/
def requestLength (kind c : Nat) : Nat :=
  match kind with
  | 0x0301 => 18
  | 0x0303 => 6
  | 0x0304 => 6 + 44 * c
  | 0x0305 => 52
  | 0x0306 => 6
  | 0x0310 => 15
  | 0x0311 => 9
  | 0x0312 => 9
  | 0x0313 => 10
  | 0x0314 => 8
  | 0x0315 => 8
  | 0x0316 => 8
  | 0x0317 => 9
  | 0x0320 => 1
  | 0x0321 => 1
  | 0x0322 => 2
  | 0x0323 => 1
  | 0x0324 => 1
  | 0x0330 => 16
  | 0x0331 => 16
  | 0x0332 => 16
  | 0x0333 => 8
  | 0x0334 => 8
  | 0x0335 => 8
  | 0x0336 => 8
  | 0x0337 => 8
  | _ => 0

/-! ## Bodies -/

/-- The byte of a site entry (Table 11-2). -/
def SiteEntry.byte (e : SiteEntry) : Byte := e.site ++ e.bin

/-- The site entry of a byte. -/
def siteEntryOf (b : Byte) : SiteEntry := ⟨b.extractLsb' 4 4, b.extractLsb' 0 4⟩

/-- The 44 bytes of a step record, in the order the text after Table 11-3 gives. -/
def StepArgs.bytes (a : StepArgs) : List Byte :=
  [a.classMask, a.kit] ++ beBytes 2 a.setpoint.toNat ++ beBytes 2 a.programId.toNat ++ [a.revision]
    ++ beBytes 4 a.checksum.toNat ++ [a.limitSet, a.siteCount, a.minSites, a.maxRuns]
    ++ beBytes 2 a.changeoverLimit.toNat ++ beBytes 2 a.goldenInterval.toNat ++ [a.maxRetest]
    ++ a.map.toList ++ a.trayClasses.toList

/-- The byte of `b` at offset `off` (0 beyond its end). -/
def byteAt (b : List Byte) (off : Nat) : Byte := b.getD off 0

/-- The `w`-bit field of `len` bytes at offset `off`. -/
def fieldAt (w : Nat) (b : List Byte) (off len : Nat) : BitVec w := BitVec.ofNat w (numAt b off len)

/-- The step record that 44 bytes spell. -/
def stepArgsOf (b : List Byte) : StepArgs where
  classMask := byteAt b 0
  kit := byteAt b 1
  setpoint := fieldAt 16 b 2 2
  programId := fieldAt 16 b 4 2
  revision := byteAt b 6
  checksum := fieldAt 32 b 7 4
  limitSet := byteAt b 11
  siteCount := byteAt b 12
  minSites := byteAt b 13
  maxRuns := byteAt b 14
  changeoverLimit := fieldAt 16 b 15 2
  goldenInterval := fieldAt 16 b 17 2
  maxRetest := byteAt b 19
  map := Vector.ofFn fun i => byteAt b (20 + i.val)
  trayClasses := Vector.ofFn fun i => byteAt b (36 + i.val)

/-- The `n` step records that follow one another in `b`. -/
def stepListOf : Nat → List Byte → List StepArgs
  | 0, _ => []
  | n + 1, b => stepArgsOf (b.take 44) :: stepListOf n (b.drop 44)

/-- The argument bytes of SET_PROFILE (Table 11-3). -/
def ProfileArgs.bytes (a : ProfileArgs) : List Byte :=
  beBytes 2 a.partStation.toNat ++ beBytes 2 a.floorHost.toNat ++ [a.cellsInUse, a.heartbeat]
    ++ beBytes 2 a.load.toNat ++ beBytes 2 a.golden.toNat ++ [a.closing] ++ beBytes 2 a.counts.toNat
    ++ [a.goldenAfterDown, a.aging, a.lookahead, a.escalation, a.forwardResults]

/-- The SET_PROFILE arguments that 18 bytes spell. -/
def profileArgsOf (b : List Byte) : ProfileArgs where
  partStation := fieldAt 16 b 0 2
  floorHost := fieldAt 16 b 2 2
  cellsInUse := byteAt b 4
  heartbeat := byteAt b 5
  load := fieldAt 16 b 6 2
  golden := fieldAt 16 b 8 2
  closing := byteAt b 10
  counts := fieldAt 16 b 11 2
  goldenAfterDown := byteAt b 13
  aging := byteAt b 14
  lookahead := byteAt b 15
  escalation := byteAt b 16
  forwardResults := byteAt b 17

/-- The 51 bytes of LOAD_LIMITS after the set index (Table 11-3). -/
def LimitArgs.bytes (a : LimitArgs) : List Byte :=
  beBytes 2 a.ymin.toNat ++ beBytes 2 a.nmin.toNat ++ a.fmax.toList.flatMap (fun x => beBytes 2 x.toNat)
    ++ beBytes 2 a.ywin.toNat ++ [a.w] ++ beBytes 2 a.nsite.toNat ++ beBytes 2 a.dmax.toNat ++ [a.cmax]
    ++ beBytes 2 a.yfinal.toNat ++ [a.trayTol, a.inputTol]
    ++ [a.polYield, a.polBin, a.polWindow, a.polSite, a.polConsec]

/-- The LOAD_LIMITS values that those 51 bytes spell. -/
def limitArgsOf (b : List Byte) : LimitArgs where
  ymin := fieldAt 16 b 0 2
  nmin := fieldAt 16 b 2 2
  fmax := Vector.ofFn fun i => fieldAt 16 b (4 + 2 * i.val) 2
  ywin := fieldAt 16 b 34 2
  w := byteAt b 36
  nsite := fieldAt 16 b 37 2
  dmax := fieldAt 16 b 39 2
  cmax := byteAt b 41
  yfinal := fieldAt 16 b 42 2
  trayTol := byteAt b 44
  inputTol := byteAt b 45
  polYield := byteAt b 46
  polBin := byteAt b 47
  polWindow := byteAt b 48
  polSite := byteAt b 49
  polConsec := byteAt b 50

/-- The envelope and the body of a report (Table 11-2). -/
def Instr.reportParts : Instr → Option (Envelope × List Byte)
  | .state e code => some (e, [code])
  | .setupDone e kit temp => some (e, [kit] ++ beBytes 2 temp.toNat)
  | .loadDone e id rev sum => some (e, beBytes 2 id.toNat ++ [rev] ++ beBytes 4 sum.toNat)
  | .loadFail e id rev => some (e, beBytes 2 id.toNat ++ [rev])
  | .goldenDone e mask => some (e, beBytes 2 mask.toNat)
  | .touchdown e q es => some (e, beBytes 2 q.toNat ++ [BitVec.ofNat 8 es.length] ++ es.map SiteEntry.byte)
  | .passEnd e pass fed last => some (e, [pass] ++ beBytes 3 fed.toNat ++ beBytes 2 last.toNat)
  | .runCounts e fed trays => some (e, beBytes 3 fed.toNat ++ trays.toList.flatMap (fun x => beBytes 3 x.toNat))
  | _ => none

/-- The header and the argument bytes of a request (Table 11-3); the arguments of an unknown request are not read, and
stand here as zero bytes of the length its header names. -/
def Instr.requestParts : Instr → Option (ReqHead × List Byte)
  | .setProfile h a => some (h, a.bytes)
  | .operate h => some (h, [])
  | .setClock h t => some (h, beBytes 6 t.toNat)
  | .loadRoute h r p c steps => some (h, [r] ++ beBytes 4 p.toNat ++ [c] ++ steps.flatMap StepArgs.bytes)
  | .loadLimits h set a => some (h, [set] ++ a.bytes)
  | .loadCell h c t hd cls => some (h, [c] ++ beBytes 2 t.toNat ++ beBytes 2 hd.toNat ++ [cls])
  | .lotAdd h t r q cls split pre =>
      some (h, beBytes 8 t.toNat ++ [r] ++ beBytes 3 q.toNat ++ [cls, split, pre])
  | .lotPriority h t cls => some (h, beBytes 8 t.toNat ++ [cls])
  | .lotHold h t pol => some (h, beBytes 8 t.toNat ++ [pol])
  | .lotRelease h t k p => some (h, beBytes 8 t.toNat ++ [k, p])
  | .lotScrap h t => some (h, beBytes 8 t.toNat)
  | .lotRetire h t => some (h, beBytes 8 t.toNat)
  | .lotQuery h t => some (h, beBytes 8 t.toNat)
  | .runAbort h t p => some (h, beBytes 8 t.toNat ++ [p])
  | .cellClear h c => some (h, [c])
  | .cellReset h c => some (h, [c])
  | .cellDrain h c v => some (h, [c, v])
  | .cellCountersClear h c => some (h, [c])
  | .cellQuery h c => some (h, [c])
  | .shipOpen h t p g m => some (h, beBytes 8 t.toNat ++ beBytes 4 p.toNat ++ [g] ++ beBytes 3 m.toNat)
  | .shipAdd h t l => some (h, beBytes 8 t.toNat ++ beBytes 8 l.toNat)
  | .shipRemove h t l => some (h, beBytes 8 t.toNat ++ beBytes 8 l.toNat)
  | .shipSeal h t => some (h, beBytes 8 t.toNat)
  | .shipRelease h t => some (h, beBytes 8 t.toNat)
  | .shipCancel h t => some (h, beBytes 8 t.toNat)
  | .shipRetire h t => some (h, beBytes 8 t.toNat)
  | .shipQuery h t => some (h, beBytes 8 t.toNat)
  | .queueQuery h => some (h, [])
  | .status h => some (h, [])
  | .floorReset h => some (h, [])
  | .unknownRequest h _ => some (h, List.replicate h.bodyLen.toNat 0)
  | _ => none

/-! ## Frames -/

/-- The 16 bytes of the common header (Table 11-1). -/
def headerBytes (cls : Byte) (kind dst src len tag : BitVec 16) (check : BitVec 32) : List Byte :=
  [0x01, cls] ++ beBytes 2 kind.toNat ++ beBytes 2 dst.toNat ++ beBytes 2 src.toNat ++ beBytes 2 len.toNat
    ++ beBytes 2 tag.toNat ++ beBytes 4 check.toNat

/-- Header and body of a floor message, its message check computed over both with the check field zero (R183). -/
def messageBytes (cls : Byte) (kind dst src tag : BitVec 16) (body : List Byte) : List Byte :=
  let len := BitVec.ofNat 16 body.length
  headerBytes cls kind dst src len tag (crc32 (headerBytes cls kind dst src len tag 0 ++ body)) ++ body

/-- The floor-message EtherType (R183). -/
def floorEtherType : BitVec 16 := 0x88B5

/-- An Ethernet frame of the floor-message type: addresses, type, message, padding and frame check sequence (R166). The
sequence is sent most significant byte first, the one byte order R183 gives (DEDUCED, notes/assumptions/4.md). -/
def ethernetFrame (ethDst ethSrc : BitVec 48) (message pad : List Byte) : List Byte :=
  let b := beBytes 6 ethDst.toNat ++ beBytes 6 ethSrc.toNat ++ beBytes 2 floorEtherType.toNat ++ message ++ pad
  b ++ beBytes 4 (crc32 b).toNat

/-- Zero bytes that bring a frame with this message to the 64 bytes of R166 (R186). -/
def minPad (message : List Byte) : List Byte := List.replicate (46 - message.length) 0

/-- The frame that brings a report, byte for byte. -/
def Instr.reportFrame (i : Instr) : Option (List Byte) :=
  match i.reportParts, i.kindCode with
  | some (e, body), some k =>
      some (ethernetFrame e.ethDst e.ethSrc (messageBytes 0x01 k e.dst e.src e.tag body) e.pad)
  | _, _ => none

/-- A frame that brings a request to the part at station `part`: broadcast, from the Ethernet address 0, padded with
zero bytes to the minimum length. -/
def Instr.requestFrame (part : Station) (i : Instr) : Option (List Byte) :=
  match i.requestParts, i.kindCode with
  | some (h, body), some k =>
      let m := messageBytes 0x03 k part h.src h.tag body
      some (ethernetFrame 0xFFFFFFFFFFFF 0 m (minPad m))
  | _, _ => none

/-- The shortest and the longest frame (R166). -/
def frameLengthOk (n : Nat) : Bool := 64 ≤ n && n ≤ 9018

/-- The Ethernet frame check of R166. -/
def frameCheckOk (b : List Byte) : Bool :=
  frameLengthOk b.length && crc32 (b.take (b.length - 4)) == fieldAt 32 b (b.length - 4) 4

/-- The bytes between the type field and the frame check sequence: header, body and padding. -/
def payload (b : List Byte) : List Byte := (b.drop 14).take (b.length - 18)

/-- The body length that a header names. -/
def namedLength (m : List Byte) : Nat := numAt m 8 2

/-- The message check of R185: long enough for the header and the named body, and the CRC agrees. -/
def messageCheckOk (m : List Byte) : Bool :=
  16 ≤ m.length && 16 + namedLength m ≤ m.length &&
    crc32 (m.take 12 ++ [0, 0, 0, 0] ++ slice m 16 (namedLength m)) == fieldAt 32 m 12 4

/-- What a report's body of a known kind says; none when it is malformed (R185 item 3). -/
def parseReport (e : Envelope) (kind : Nat) (b : List Byte) : Option Instr :=
  match kind with
  | 0x0101 => if b.length = 1 then some (.state e (byteAt b 0)) else none
  | 0x0102 => if b.length = 3 then some (.setupDone e (byteAt b 0) (fieldAt 16 b 1 2)) else none
  | 0x0103 =>
      if b.length = 7 then some (.loadDone e (fieldAt 16 b 0 2) (byteAt b 2) (fieldAt 32 b 3 4)) else none
  | 0x0104 => if b.length = 3 then some (.loadFail e (fieldAt 16 b 0 2) (byteAt b 2)) else none
  | 0x0105 => if b.length = 2 then some (.goldenDone e (fieldAt 16 b 0 2)) else none
  | 0x0106 =>
      let n := (byteAt b 2).toNat
      if b.length = 3 + n ∧ 1 ≤ n ∧ n ≤ 16 then
        some (.touchdown e (fieldAt 16 b 0 2) ((b.drop 3).map siteEntryOf)) else none
  | 0x0107 =>
      if b.length = 6 ∧ numAt b 1 3 ≤ 999999 then
        some (.passEnd e (byteAt b 0) (fieldAt 24 b 1 3) (fieldAt 16 b 4 2)) else none
  | 0x0108 =>
      if b.length = 27 ∧ numAt b 0 3 ≤ 999999 ∧ (List.range 8).all (fun t => numAt b (3 + 3 * t) 3 ≤ 999999) then
        some (.runCounts e (fieldAt 24 b 0 3) (Vector.ofFn fun t => fieldAt 24 b (3 + 3 * t.val) 3)) else none
  | _ => none

/-- The request of a known kind whose body has the length of that kind (Table 11-3). -/
def requestOf (h : ReqHead) (kind : Nat) (b : List Byte) : Option Instr :=
  match kind with
  | 0x0301 => some (.setProfile h (profileArgsOf b))
  | 0x0302 => some (.operate h)
  | 0x0303 => some (.setClock h (fieldAt 48 b 0 6))
  | 0x0304 =>
      some (.loadRoute h (byteAt b 0) (fieldAt 32 b 1 4) (byteAt b 5) (stepListOf (byteAt b 5).toNat (b.drop 6)))
  | 0x0305 => some (.loadLimits h (byteAt b 0) (limitArgsOf (b.drop 1)))
  | 0x0306 => some (.loadCell h (byteAt b 0) (fieldAt 16 b 1 2) (fieldAt 16 b 3 2) (byteAt b 5))
  | 0x0310 =>
      some (.lotAdd h (fieldAt 64 b 0 8) (byteAt b 8) (fieldAt 24 b 9 3) (byteAt b 12) (byteAt b 13) (byteAt b 14))
  | 0x0311 => some (.lotPriority h (fieldAt 64 b 0 8) (byteAt b 8))
  | 0x0312 => some (.lotHold h (fieldAt 64 b 0 8) (byteAt b 8))
  | 0x0313 => some (.lotRelease h (fieldAt 64 b 0 8) (byteAt b 8) (byteAt b 9))
  | 0x0314 => some (.lotScrap h (fieldAt 64 b 0 8))
  | 0x0315 => some (.lotRetire h (fieldAt 64 b 0 8))
  | 0x0316 => some (.lotQuery h (fieldAt 64 b 0 8))
  | 0x0317 => some (.runAbort h (fieldAt 64 b 0 8) (byteAt b 8))
  | 0x0320 => some (.cellClear h (byteAt b 0))
  | 0x0321 => some (.cellReset h (byteAt b 0))
  | 0x0322 => some (.cellDrain h (byteAt b 0) (byteAt b 1))
  | 0x0323 => some (.cellCountersClear h (byteAt b 0))
  | 0x0324 => some (.cellQuery h (byteAt b 0))
  | 0x0330 => some (.shipOpen h (fieldAt 64 b 0 8) (fieldAt 32 b 8 4) (byteAt b 12) (fieldAt 24 b 13 3))
  | 0x0331 => some (.shipAdd h (fieldAt 64 b 0 8) (fieldAt 64 b 8 8))
  | 0x0332 => some (.shipRemove h (fieldAt 64 b 0 8) (fieldAt 64 b 8 8))
  | 0x0333 => some (.shipSeal h (fieldAt 64 b 0 8))
  | 0x0334 => some (.shipRelease h (fieldAt 64 b 0 8))
  | 0x0335 => some (.shipCancel h (fieldAt 64 b 0 8))
  | 0x0336 => some (.shipRetire h (fieldAt 64 b 0 8))
  | 0x0337 => some (.shipQuery h (fieldAt 64 b 0 8))
  | 0x0340 => some (.queueQuery h)
  | 0x0341 => some (.status h)
  | 0x0342 => some (.floorReset h)
  | _ => none

/-- What LNK makes of an arriving frame. -/
inductive Arrival where
  | discard                                        -- neither handed on nor forwarded
  | forward                                        -- queued for the other port, unread
  | report (i : Instr)                             -- a well-formed report on Port C
  | request (i : Instr)                            -- a request to the part on Port F, known kind and length, or unknown
  | badLength (h : ReqHead) (kind : BitVec 16)     -- a request of known kind whose length disagrees
  deriving DecidableEq, Repr

/-- A floor message of version 1, of this class and of one of these kinds (R185 item 2). -/
def isOfClass (cls : Nat) (m : List Byte) : Bool := numAt m 0 1 == 1 && numAt m 1 1 == cls

/-- A floor message on Port C that passes the message check, by destination and kind (R167, R185). A destination of 0 or
65535, which is no station, counts as another station (DEDUCED, notes/assumptions/34.md). -/
def classifyCellSide (part : Station) (b m : List Byte) : Arrival :=
  let kind := numAt m 2 2
  if isOfClass 1 m && (0x0101 ≤ kind && kind ≤ 0x0108) then
    let e : Envelope :=
      { ethDst := fieldAt 48 b 0 6, ethSrc := fieldAt 48 b 6 6, dst := fieldAt 16 m 4 2, src := fieldAt 16 m 6 2,
        tag := fieldAt 16 m 10 2, pad := m.drop (16 + namedLength m) }
    match parseReport e kind (slice m 16 (namedLength m)) with
    | some i => .report i
    | none => .discard
  else if fieldAt 16 m 4 2 = part then .discard
  else .forward

/-- A floor message on Port F that passes the message check, by destination (R168, R185). A destination of 0 or 65535,
which is no station, counts as another station (DEDUCED, notes/assumptions/34.md). -/
def classifyFloorSide (part : Station) (m : List Byte) : Arrival :=
  if fieldAt 16 m 4 2 = part then
    if isOfClass 3 m then
      let kind := numAt m 2 2
      let body := slice m 16 (namedLength m)
      let h : ReqHead := { src := fieldAt 16 m 6 2, tag := fieldAt 16 m 10 2, bodyLen := fieldAt 16 m 8 2 }
      if kind ∈ requestKinds then
        if body.length = requestLength kind (byteAt body 5).toNat then
          match requestOf h kind body with
          | some i => .request i
          | none => .badLength h (BitVec.ofNat 16 kind)
        else .badLength h (BitVec.ofNat 16 kind)
      else .request (.unknownRequest h (BitVec.ofNat 16 kind))
    else .discard
  else .forward

/-- What LNK makes of a complete frame that arrives on a port (R166 to R168, R185). -/
def classify (port : Port) (part : Station) (b : List Byte) : Arrival :=
  if !frameCheckOk b then .discard
  else if fieldAt 16 b 12 2 ≠ floorEtherType then .forward
  else if !messageCheckOk (payload b) then .discard
  else match port with
    | .c => classifyCellSide part b (payload b)
    | .f => classifyFloorSide part (payload b)

/-- The command a word of the opcode table spells: spec/opcode_table.json gives no row any bits, so no word spells
one. -/
def decodeTableWord (_nbits _w : Nat) : Option Instr := none

end Sys2Proof
end

