-- ==== Sys2Proof/Config.lean ====
section
/-! DEFINITION. The capacities the manual fixes, and the values it leaves open (opaque: no proof can see them). -/

namespace Sys2Proof.Config

/-- The Ethernet source address of each port: "the port's fixed address" (R186), whose value the manual does not
give. A free value; notes/assumptions/2.md. -/
opaque portAddress : Port → BitVec 48

/-- The 24-bit outstanding count that a retest pass begins with when the sum of the RETEST trays does not fit in 24
bits: R144 sets it to the sum, Table 7-1 gives the field 24 bits, and no rule gives the value then. A free value of the
sum; notes/assumptions/3.md. -/
opaque retestSumBeyond24 : Nat → BitVec 24

/-- The top of every 24-bit saturating counter (0.6.3). -/
def max24 : Nat := 16777215

/-- The top of a 40-bit accumulator (R91). -/
def max40 : Nat := 1099511627775

/-- The value at which the sequence counter renumbers the queue, and which is never given (R115). -/
def maxSequence : Nat := 4294967295

/-- Capacity of each forward queue, in frames (Chapter 9, R170). -/
def forwardCapacity : Nat := 64

/-- Capacity of the order list, in frames (R171). -/
def orderCapacity : Nat := 256

/-- Notices the outbound list can hold (R179). -/
def noticeCapacity : Nat := 128

/-- Responses the outbound list can hold (R173). -/
def responseCapacity : Nat := 64

/-- Members a shipment can hold (Table 8-1, R157). -/
def memberCapacity : Nat := 8

/-- The largest quantity of a lot, a shipment or a handler report (0.6.5, R185). -/
def maxQuantity : Nat := 999999

/-- Milliseconds the 64-bit deadline timer can count (R177). -/
def timerEnd : Nat := 18446744073709551616

end Sys2Proof.Config
end

