-- ==== Sys2Proof/Machine/State.lean ====
section
/-! DEFINITION. Everything the manual says the D820 keeps, as plain data, and its values after a power-on reset (R181).
Times on the deadline timer are `Nat`s of milliseconds; saturating counters are `Nat`s whose operations saturate. -/

namespace Sys2Proof.Machine

/-! ## Lots and holds (Chapter 1) -/

/-- Lot states, in the order of Table 1-2. -/
inductive LotState where
  | vacant | waiting | running | held | finished | released | scrapped
  deriving DecidableEq, Repr

/-- Hold policies (R184: STOP 0, FINISH 1, MARK 2). -/
inductive Policy where
  | stop | finish | mark
  deriving DecidableEq, Repr

/-- Hold kinds, in the order of Table 1-5. -/
inductive HoldKind where
  | yield | bin | final | recon | engineer | window | site | consec | golden | data | lost
  deriving DecidableEq, Repr

/-- A hold record (Table 1-4); `pos` is absent for lot scope. -/
structure Hold where
  kind      : HoldKind
  pos       : Option RunPlace
  policy    : Policy
  step      : Nat
  floorTime : FloorTime
  value     : Option Nat
  deriving DecidableEq, Repr

/-- One position of a lot's run list (R3). -/
inductive RunPos where
  | absent
  | run (r : RunIx)
  | closed
  deriving DecidableEq, Repr

/-- The mark of one grade's portion (R155). -/
inductive PortionMark where
  | free
  | inShipment (n : ShipSlot)
  | released
  deriving DecidableEq, Repr

/-- The step counters and the step close figures of a lot (Table 1-1); `bins` entry h − 1 is B_lot[h], `gradeSums`
entry g − 1 the sum of grade g. -/
structure StepFigures where
  tested    : Nat
  good      : Nat
  bins      : Vector Nat 15
  goodFinal : Nat
  fedSum    : Nat
  gradeSums : Vector Nat 4
  deriving DecidableEq, Repr

/-- The figures at the start of a step (R20 step 5, R2). -/
def StepFigures.zero : StepFigures where
  tested := 0
  good := 0
  bins := Vector.replicate 15 0
  goodFinal := 0
  fedSum := 0
  gradeSums := Vector.replicate 4 0

/-- A lot record (Table 1-1). -/
structure Lot where
  tag           : Tag
  route         : RouteIx
  state         : LotState
  step          : Nat
  split         : Nat
  runsPerStep   : Nat
  cls           : Nat
  classSince    : Nat
  preempt       : Bool
  queueSeq      : Nat
  started       : Nat
  q             : Nat
  toAssign      : Nat
  runs          : Vector RunPos 4
  closedRuns    : Nat
  stepStarted   : Bool
  figures       : StepFigures
  yieldWaived   : Bool
  binWaived     : Bool
  stepClosed    : Bool
  routeComplete : Bool
  gradeQty      : Vector Nat 4
  marks         : Vector PortionMark 4
  holds         : List Hold
  deriving DecidableEq, Repr

/-- A VACANT lot record (R2). -/
def Lot.vacant : Lot where
  tag := 0
  route := 0
  state := .vacant
  step := 0
  split := 0
  runsPerStep := 0
  cls := 0
  classSince := 0
  preempt := false
  queueSeq := 0
  started := 0
  q := 0
  toAssign := 0
  runs := Vector.replicate 4 .absent
  closedRuns := 0
  stepStarted := false
  figures := .zero
  yieldWaived := false
  binWaived := false
  stepClosed := false
  routeComplete := false
  gradeQty := Vector.replicate 4 0
  marks := Vector.replicate 4 .free
  holds := []

/-! ## Routes and limit sets (Chapter 2) -/

/-- A tray class (R33); grade g is `grade` entry g − 1. -/
inductive TrayClass where
  | reject
  | retest
  | good (grade : Fin 4)
  deriving DecidableEq, Repr

/-- A step record (Table 2-2). Entry 0 of `map` is stored as loaded and never read (R32). -/
structure Step where
  classMask       : BitVec 8
  kit             : Nat
  setpoint        : Int
  programId       : BitVec 16
  revision        : BitVec 8
  checksum        : BitVec 32
  limitSet        : LimitIx
  siteCount       : Nat
  minSites        : Nat
  maxRuns         : Nat
  changeoverLimit : Nat
  goldenInterval  : Nat
  maxRetest       : Nat
  map             : Vector Byte 16
  trays           : Vector TrayClass 8
  deriving DecidableEq, Repr

/-- What a step index reads as that its route does not hold: no run of the part reads it, since a route that a live lot
uses cannot be reloaded (R36). notes/assumptions/5.md. -/
def Step.none : Step where
  classMask := 0
  kit := 0
  setpoint := 0
  programId := 0
  revision := 0
  checksum := 0
  limitSet := 0
  siteCount := 0
  minSites := 0
  maxRuns := 0
  changeoverLimit := 0
  goldenInterval := 0
  maxRetest := 0
  map := Vector.replicate 16 0
  trays := Vector.replicate 8 .reject

/-- A route record (Table 2-1); its step count is the length of `steps`. -/
structure Route where
  product : BitVec 32
  steps   : List Step
  refs    : Nat
  deriving DecidableEq, Repr

/-- An empty route (R29). -/
def Route.empty : Route where
  product := 0
  steps := []
  refs := 0

/-- A limit set (Table 2-3); `fmax` entry h − 1 is Fmax[h]. -/
structure LimitSet where
  loaded    : Bool
  ymin      : Nat
  nmin      : Nat
  fmax      : Vector Nat 15
  ywin      : Nat
  w         : Nat
  nsite     : Nat
  dmax      : Nat
  cmax      : Nat
  yfinal    : Nat
  trayTol   : Nat
  inputTol  : Nat
  polYield  : Policy
  polBin    : Policy
  polWindow : Policy
  polSite   : Policy
  polConsec : Policy
  deriving DecidableEq, Repr

/-- An unloaded limit set (R38). -/
def LimitSet.unloaded : LimitSet where
  loaded := false
  ymin := 0
  nmin := 1
  fmax := Vector.replicate 15 10000
  ywin := 0
  w := 4
  nsite := 1
  dmax := 10000
  cmax := 0
  yfinal := 0
  trayTol := 0
  inputTol := 0
  polYield := .stop
  polBin := .stop
  polWindow := .stop
  polSite := .stop
  polConsec := .stop

/-! ## Runs (Chapter 7) -/

/-- Run states, in the order of Table 7-2. -/
inductive RunState where
  | free | assigned | testing | closing | stopped | suspended | ending
  deriving DecidableEq, Repr

/-- The states a parked run returns to (Table 7-1). -/
inductive ActiveState where
  | testing | closing
  deriving DecidableEq, Repr

/-- The per-site figures of a run: tested_s, fail_s, run_s (Table 3-1). -/
structure SiteFigures where
  tested : Nat
  fail   : Nat
  streak : Nat
  deriving DecidableEq, Repr

/-- Zeroed site figures. -/
def SiteFigures.zero : SiteFigures := ⟨0, 0, 0⟩

/-- One entry of a window ring (R63). -/
structure RingEntry where
  tested : Nat
  good   : Nat
  deriving DecidableEq, Repr

/-- A run record (Table 7-1); the ring is oldest first. -/
structure Run where
  lot           : LotSlot
  pos           : RunPlace
  cell          : CellIx
  state         : RunState
  stoppedFrom   : Option ActiveState
  suspendedFrom : Option ActiveState
  pass          : Nat
  tested        : Nat
  good          : Nat
  recovered     : Nat
  sites         : Vector SiteFigures 16
  ring          : List RingEntry
  ledger        : Vector Nat 8
  outstanding   : Nat
  shortfall     : Nat
  surplus       : Nat
  handlerFed    : Option Nat
  target        : Option Seq
  targetReached : Bool
  sinceGolden   : Nat
  startTime     : Option FloorTime
  deriving DecidableEq, Repr

/-- A FREE run record (R135). -/
def Run.free : Run where
  lot := 0
  pos := 0
  cell := 0
  state := .free
  stoppedFrom := .none
  suspendedFrom := .none
  pass := 0
  tested := 0
  good := 0
  recovered := 0
  sites := Vector.replicate 16 .zero
  ring := []
  ledger := Vector.replicate 8 0
  outstanding := 0
  shortfall := 0
  surplus := 0
  handlerFed := .none
  target := .none
  targetReached := false
  sinceGolden := 0
  startTime := .none

/-! ## Cells and preparation (Chapters 4 and 5) -/

/-- Cell states, in the order of Table 4-2. -/
inductive CellState where
  | offline | idle | changeover | loading | golden | running | pausing | stopped | down | lost | quarantined
  deriving DecidableEq, Repr

/-- Causes of DOWN and QUARANTINED, in the order of R184. -/
inductive Cause where
  | jam | alarm | setup | load | timeout | escalation | foreign | sites
  deriving DecidableEq, Repr

/-- Reported station states, in the order of R184. -/
inductive StationReport where
  | ready | busy | alarm | running | paused | jam | setup
  deriving DecidableEq, Repr

/-- Deadline kinds, in the order of R184. -/
inductive DeadlineKind where
  | changeover | load | golden | closing | counts
  deriving DecidableEq, Repr

/-- A cell's one active deadline: its kind and its expiry on the deadline timer (R107). -/
structure Deadline where
  kind   : DeadlineKind
  expiry : Nat
  deriving DecidableEq, Repr

/-- A deadline of RUN's held back by a stage deadline: its kind and its remaining milliseconds (R107). -/
structure SetAside where
  kind      : DeadlineKind
  remaining : Nat
  deriving DecidableEq, Repr

/-- A test program: id, revision and checksum (R101). -/
structure Program where
  id       : BitVec 16
  revision : BitVec 8
  checksum : BitVec 32
  deriving DecidableEq, Repr

/-- Golden outcomes, in the order of R184. -/
inductive GoldenOutcome where
  | none | pass | fail | aborted
  deriving DecidableEq, Repr

/-- A golden result (Table 4-1). -/
structure GoldenResult where
  mask      : SiteMask
  outcome   : GoldenOutcome
  floorTime : FloorTime
  deriving DecidableEq, Repr

/-- Purposes of a preparation (R95). -/
inductive Purpose where
  | new | return | periodic
  deriving DecidableEq, Repr

/-- Origins of a preparation (R95, R97). -/
inductive Origin where
  | assignment | pop | stopped | fromDown | fromLostOrOffline | clear | periodic
  deriving DecidableEq, Repr

/-- Stages of a preparation (R95). -/
inductive Stage where
  | changeover | loading | golden
  deriving DecidableEq, Repr

/-- A preparation context (R95). `goldenTaken` says that a golden check has been taken in this preparation and no
changeover or load since: the manual names no such field, but R98 choice 3 reads it. The ordered values are absent until
this preparation has sent a SETUP order, the golden figures until it has sent a GOLDEN order. -/
structure Prep where
  purpose       : Purpose
  origin        : Origin
  target        : Option RunIx
  stage         : Stage
  goldenPlanned : Bool
  goldenTaken   : Bool
  orderedKit    : Option Nat
  orderedTemp   : Option Int
  goldenSites   : Option Nat
  goldenMin     : Option Nat
  setAside      : Option SetAside
  deriving DecidableEq, Repr

/-- The five time accumulators of a cell, in milliseconds (R91). -/
structure Accumulators where
  productive : Nat
  setup      : Nat
  stopped    : Nat
  down       : Nat
  idle       : Nat
  deriving DecidableEq, Repr

/-- Zeroed accumulators. -/
def Accumulators.zero : Accumulators := ⟨0, 0, 0, 0, 0⟩

/-- A cell record (Table 4-1), with the preparation context and the last load order that PRP keeps for the cell (R95).
The head of `stack` is the top of the suspension stack. -/
structure Cell where
  configured   : Bool
  tester       : Option Station
  handler      : Option Station
  cls          : Fin 8
  state        : CellState
  cause        : Option Cause
  since        : Nat
  repTester    : Option StationReport
  repHandler   : Option StationReport
  heardTester  : Option Nat
  heardHandler : Option Nat
  clearTime    : Option Nat
  downCount    : Nat
  draining     : Bool
  current      : Option RunIx
  reserved     : Option RunIx
  stack        : List RunIx
  changed      : Bool
  kit          : Option Nat
  temp         : Option Int
  program      : Option Program
  golden       : GoldenResult
  goldenValid  : Bool
  enabled      : SiteMask
  deadline     : Option Deadline
  expected     : Option Seq
  acc          : Accumulators
  prep         : Option Prep
  lastLoad     : Option Program
  deriving DecidableEq, Repr

/-- A cell at its power-on values (R72, R95). -/
def Cell.powerOn : Cell where
  configured := false
  tester := .none
  handler := .none
  cls := 0
  state := .offline
  cause := .none
  since := 0
  repTester := .none
  repHandler := .none
  heardTester := .none
  heardHandler := .none
  clearTime := .none
  downCount := 0
  draining := false
  current := .none
  reserved := .none
  stack := []
  changed := false
  kit := .none
  temp := .none
  program := .none
  golden := ⟨0, .none, 0⟩
  goldenValid := false
  enabled := 0
  deadline := .none
  expected := .none
  acc := .zero
  prep := .none
  lastLoad := .none

/-- An entry of the station index (R73). -/
structure StationEntry where
  station : Station
  cell    : CellIx
  role    : Role
  deriving DecidableEq, Repr

/-! ## Shipments (Chapter 8) -/

/-- Shipment states, in the order of Table 8-2. -/
inductive ShipState where
  | vacant | opened | sealed | released
  deriving DecidableEq, Repr

/-- A member of a shipment (Table 8-1). -/
structure Member where
  tag      : Tag
  slot     : LotSlot
  quantity : Nat
  deriving DecidableEq, Repr

/-- A shipment record (Table 8-1). -/
structure Shipment where
  tag      : Tag
  product  : BitVec 32
  grade    : Nat
  maximum  : Nat
  quantity : Nat
  state    : ShipState
  members  : List Member
  deriving DecidableEq, Repr

/-- A VACANT shipment record (R154). -/
def Shipment.vacant : Shipment where
  tag := 0
  product := 0
  grade := 0
  maximum := 0
  quantity := 0
  state := .vacant
  members := []

/-! ## Orders, notices, responses and the ports (Chapters 9 to 11) -/

/-- Orders and their bodies (Table 11-2). -/
inductive Order where
  | setup (kit : Nat) (temp : Int)
  | load (id : BitVec 16) (revision : BitVec 8)
  | golden (siteCount : Nat)
  | start (tag : Tag) (pos : RunPlace) (mask : SiteMask) (map : Vector Byte 16)
  | retest (pass : Nat) (units : Nat) (trays : BitVec 8)
  | pause
  | resume (tag : Tag) (pos : RunPlace) (pass : Nat) (mask : SiteMask)
  | stop
  | unload (tag : Tag) (pos : RunPlace)
  deriving DecidableEq, Repr

/-- An order as made: destination, source and body (R171). -/
structure OrderFrame where
  dst   : Station
  src   : Station
  order : Order
  deriving DecidableEq, Repr

/-- Notices and their fields (Table 10-5). -/
inductive Notice where
  | dispatched (tag : Tag) (step : Nat) (pos : RunPlace) (cell : CellIx) (cost : Nat)
  | holdRaised (tag : Tag) (kind : HoldKind) (pos : Option RunPlace) (policy : Policy) (value : Option Nat)
  | holdReleased (tag : Tag) (kind : HoldKind) (pos : Option RunPlace)
  | stepDone (tag : Tag) (step : Nat) (tested : Nat) (goodFinal : Nat)
  | lotFinished (tag : Tag) (grades : Vector Nat 4)
  | cellChanged (cell : CellIx) (state : CellState) (cause : Option Cause)
  | goldenDone (cell : CellIx) (mask : SiteMask) (enabled : SiteMask) (outcome : GoldenOutcome)
  | shipmentReleased (tag : Tag) (grade : Nat) (quantity : Nat) (members : Nat)
  deriving DecidableEq, Repr

/-- A notice as posted: stations, the floor time stamped at posting, and its fields (R179). The gap marker is given at
sending (R180). -/
structure NoticeFrame where
  dst       : Station
  src       : Station
  floorTime : FloorTime
  notice    : Notice
  deriving DecidableEq, Repr

/-- Status codes, in the order of Table 10-3. -/
inductive Status where
  | ok | denied | badArg | range | notFound | noSlot | duplicate | inUse | wrongState | conflict | locked | memberHeld
  deriving DecidableEq, Repr

/-- A response as made: stations, kind, tag, status and the data that follows it (R173, R186). -/
structure Response where
  dst    : Station
  src    : Station
  kind   : BitVec 16
  tag    : BitVec 16
  status : Status
  data   : List Byte
  deriving DecidableEq, Repr

/-- An entry of MGT's outbound list (Table 10-1). -/
inductive Outbound where
  | notice (n : NoticeFrame)
  | response (r : Response)
  deriving DecidableEq, Repr

/-- The frame a transmitter is sending (Chapter 9). -/
inductive TxFrame where
  | order (o : OrderFrame)
  | notice (n : NoticeFrame) (gap : Bool)
  | response (r : Response)
  | forwarded (frame : List Byte)
  deriving DecidableEq, Repr

/-! ## The floor profile and the phase (Chapter 10) -/

/-- The phases (R176). -/
inductive Phase where
  | config | operate
  deriving DecidableEq, Repr

/-- The floor profile (Table 10-4): limits in seconds, the aging period in minutes. -/
structure Profile where
  partStation     : Station
  floorHost       : Station
  cellsInUse      : Nat
  heartbeat       : Nat
  load            : Nat
  golden          : Nat
  closing         : Nat
  counts          : Nat
  goldenAfterDown : Bool
  aging           : Nat
  lookahead       : Nat
  escalation      : Nat
  forwardResults  : Bool
  deriving DecidableEq, Repr

/-- The defaults of Table 10-4. -/
def Profile.default : Profile where
  partStation := 65534
  floorHost := 1
  cellsInUse := 64
  heartbeat := 10
  load := 120
  golden := 60
  closing := 5
  counts := 60
  goldenAfterDown := true
  aging := 30
  lookahead := 4
  escalation := 3
  forwardResults := true

/-! ## The whole part -/

/-- The state of the D820, and the queue of the commands that wait (the host's form of a block). -/
structure State where
  pending      : List Instr
  phase        : Phase
  profile      : Profile
  floorClock   : FloorTime
  timer        : Nat
  outbound     : List Outbound
  noticeCount  : Nat
  gapFlag      : Bool
  fwdCF        : List (List Byte)
  fwdFC        : List (List Byte)
  orders       : List OrderFrame
  txF          : Option TxFrame
  txC          : Option TxFrame
  routes       : Vector Route 48
  limits       : Vector LimitSet 64
  lots         : Vector Lot 256
  runs         : Vector Run 192
  queue        : List LotSlot
  seqCounter   : Nat
  cells        : Vector Cell 64
  stations     : List StationEntry
  ships        : Vector Shipment 64
  deriving DecidableEq, Repr

/-- The part right after a power-on reset (R181), no command waiting. -/
def State.reset : State where
  pending := []
  phase := .config
  profile := .default
  floorClock := 0
  timer := 0
  outbound := []
  noticeCount := 0
  gapFlag := false
  fwdCF := []
  fwdFC := []
  orders := []
  txF := .none
  txC := .none
  routes := Vector.replicate 48 .empty
  limits := Vector.replicate 64 .unloaded
  lots := Vector.replicate 256 .vacant
  runs := Vector.replicate 192 .free
  queue := []
  seqCounter := 0
  cells := Vector.replicate 64 .powerOn
  stations := []
  ships := Vector.replicate 64 .vacant

/-- Why the part stops. -/
inductive Fault where
  /-- Raised by the clock's tick alone, when the 64-bit deadline timer would pass its last value: R177 says that it
  does not wrap within the life of the part, and gives nothing beyond. Safe: the model stops where the manual is
  silent. -/
  | deadlineTimerSpent
  deriving DecidableEq, Repr

/-- Why a command has no meaning. -/
inductive Refusal where
  /-- Raised by no command: every row of the table has its meaning. Safe. -/
  | notModelled (mnemonic : String)
  deriving DecidableEq, Repr

/-- What a command or a step answers. -/
abbrev Out := Host.Outcome State Fault Refusal

end Sys2Proof.Machine
end

