-- ==== Sys2Proof/Machine/Operands.lean ====
section
/-! DEFINITION. The operand forms: codes of enumerations (R184), ranges and clamps of what a request or a report carries
(R30, R37, R39, R40, R175), and site masks. -/

namespace Sys2Proof.Machine

/-! ## Codes (R184) -/

/-- Code of a lot state (Table 1-2). -/
def LotState.code : LotState → Nat
  | .vacant => 0 | .waiting => 1 | .running => 2 | .held => 3 | .finished => 4 | .released => 5 | .scrapped => 6

/-- Code of a run state (Table 7-2). -/
def RunState.code : RunState → Nat
  | .free => 0 | .assigned => 1 | .testing => 2 | .closing => 3 | .stopped => 4 | .suspended => 5 | .ending => 6

/-- Code of a stopped-from or suspended-from state: that of the run state it names. -/
def ActiveState.code : ActiveState → Nat
  | .testing => 2 | .closing => 3

/-- Code of a cell state (Table 4-2). -/
def CellState.code : CellState → Nat
  | .offline => 0 | .idle => 1 | .changeover => 2 | .loading => 3 | .golden => 4 | .running => 5 | .pausing => 6
  | .stopped => 7 | .down => 8 | .lost => 9 | .quarantined => 10

/-- Code of a cause. -/
def Cause.code : Cause → Nat
  | .jam => 0 | .alarm => 1 | .setup => 2 | .load => 3 | .timeout => 4 | .escalation => 5 | .foreign => 6 | .sites => 7

/-- Code of a station report. -/
def StationReport.code : StationReport → Nat
  | .ready => 0 | .busy => 1 | .alarm => 2 | .running => 3 | .paused => 4 | .jam => 5 | .setup => 6

/-- Code of a deadline kind. -/
def DeadlineKind.code : DeadlineKind → Nat
  | .changeover => 0 | .load => 1 | .golden => 2 | .closing => 3 | .counts => 4

/-- Code of a phase. -/
def Phase.code : Phase → Nat
  | .config => 0 | .operate => 1

/-- Code of a golden outcome. -/
def GoldenOutcome.code : GoldenOutcome → Nat
  | .none => 0 | .pass => 1 | .fail => 2 | .aborted => 3

/-- Code of a shipment state (Table 8-2). -/
def ShipState.code : ShipState → Nat
  | .vacant => 0 | .opened => 1 | .sealed => 2 | .released => 3

/-- Code of a hold kind (Table 1-5). -/
def HoldKind.code : HoldKind → Nat
  | .yield => 0 | .bin => 1 | .final => 2 | .recon => 3 | .engineer => 4 | .window => 5 | .site => 6 | .consec => 7
  | .golden => 8 | .data => 9 | .lost => 10

/-- Code of a policy. -/
def Policy.code : Policy → Nat
  | .stop => 0 | .finish => 1 | .mark => 2

/-- Code of a status (after Table 11-3, in the order of Table 10-3). -/
def Status.code : Status → Nat
  | .ok => 0 | .denied => 1 | .badArg => 2 | .range => 3 | .notFound => 4 | .noSlot => 5 | .duplicate => 6
  | .inUse => 7 | .wrongState => 8 | .conflict => 9 | .locked => 10 | .memberHeld => 11

/-! ## Reading codes -/

/-- The policy a byte names; none for a code that is none of the three. -/
def policyOf (b : Byte) : Option Policy :=
  match b.toNat with
  | 0 => some .stop
  | 1 => some .finish
  | 2 => some .mark
  | _ => none

/-- The hold kind a byte names (Table 1-5). -/
def holdKindOf (b : Byte) : Option HoldKind :=
  match b.toNat with
  | 0 => some .yield
  | 1 => some .bin
  | 2 => some .final
  | 3 => some .recon
  | 4 => some .engineer
  | 5 => some .window
  | 6 => some .site
  | 7 => some .consec
  | 8 => some .golden
  | 9 => some .data
  | 10 => some .lost
  | _ => none

/-- The five lot-scope kinds (Table 1-5). -/
def HoldKind.isLot : HoldKind → Bool
  | .yield | .bin | .final | .recon | .engineer => true
  | .window | .site | .consec | .golden | .data | .lost => false

/-- The equipment state a STATE report names, when it is one of the states of the station's role (R75). -/
def stationReportOf (role : Role) (b : Byte) : Option StationReport :=
  match role, b.toNat with
  | _, 0 => some .ready
  | .tester, 1 => some .busy
  | .tester, 2 => some .alarm
  | .handler, 3 => some .running
  | .handler, 4 => some .paused
  | .handler, 5 => some .jam
  | .handler, 6 => some .setup
  | _, _ => none

/-- An on/off setting: 0 off, 1 on, none for any other value (after Table 11-3). -/
def onOff (b : Byte) : Option Bool :=
  match b.toNat with
  | 0 => some false
  | 1 => some true
  | _ => none

/-- A run position 0–3; none above. -/
def runPlaceOf (b : Byte) : Option RunPlace :=
  if h : b.toNat < 4 then some ⟨b.toNat, h⟩ else none

/-- A LOT_RELEASE position judged against its kind's scope (R25 order 2): a lot-scope kind takes 0xFF and nothing else, a
run-scope kind a position of 0–3. `none` is the refusal RANGE. -/
def releasePlaceOf (k : HoldKind) (b : Byte) : Option (Option RunPlace) :=
  if k.isLot then (if b = 0xFF then some none else none)
  else (runPlaceOf b).map some

/-- A station number that names a station: not 0 and not 65535 (0.6.5). -/
def stationOk (s : Station) : Bool := s != 0 && s != 65535

/-! ## Site masks -/

/-- The number of sites in a mask. -/
def siteNumber (m : SiteMask) : Nat := (List.range 16).countP fun i => m.getLsbD i

/-- The sites below `n`. -/
def sitesBelow (n : Nat) : SiteMask := BitVec.ofNat 16 (2 ^ n - 1)

/-! ## Temperatures (R30, R100) -/

/-- A temperature brought to −55 to +175. -/
def clampTemp (t : Int) : Int := if t < -55 then -55 else if 175 < t then 175 else t

/-! ## Routes as loaded (R30, R37) -/

/-- A tray class byte: the class in its high four bits, the grade in its low four (after Table 11-3). The grade of a
REJECT or RETEST tray is not judged. -/
def trayClassOf (b : Byte) : Option TrayClass :=
  match b.toNat / 16 with
  | 0 => some .reject
  | 1 => some .retest
  | 2 => match b.toNat % 16 with
    | 1 => some (.good 0)
    | 2 => some (.good 1)
    | 3 => some (.good 2)
    | 4 => some (.good 3)
    | _ => none
  | _ => none

/-- The tray class a byte is stored as. -/
def trayClassStored (b : Byte) : TrayClass := (trayClassOf b).getD .reject

/-- A step record within its ranges (R37 order 2). -/
def stepInRange (a : StepArgs) : Bool :=
  a.classMask != 0 && a.kit != 0 && a.limitSet.toNat ≤ 63
    && (1 ≤ a.siteCount.toNat && a.siteCount.toNat ≤ 16)
    && (1 ≤ a.minSites.toNat && a.minSites.toNat ≤ a.siteCount.toNat)
    && (1 ≤ a.maxRuns.toNat && a.maxRuns.toNat ≤ 4)
    && (1 ≤ a.changeoverLimit.toNat && a.changeoverLimit.toNat ≤ 7200)
    && a.maxRetest.toNat ≤ 3
    && (a.map.toList.drop 1).all (fun t => t.toNat ≤ 7)
    && a.trayClasses.toList.all (fun c => (trayClassOf c).isSome)

/-- The setpoint a step record carries lies outside −55 to +175 and is clamped (R30). -/
def stepClamped (a : StepArgs) : Bool := clampTemp a.setpoint.toInt != a.setpoint.toInt

/-- The limit set a step record names; the index is judged by `inRange` first. -/
def stepLimitIx (a : StepArgs) : LimitIx := ⟨a.limitSet.toNat % 64, Nat.mod_lt _ (by decide)⟩

/-- The step as RLS stores it, its setpoint clamped (R30, R37). -/
def stepStored (a : StepArgs) : Step where
  classMask := a.classMask
  kit := a.kit.toNat
  setpoint := clampTemp a.setpoint.toInt
  programId := a.programId
  revision := a.revision
  checksum := a.checksum
  limitSet := stepLimitIx a
  siteCount := a.siteCount.toNat
  minSites := a.minSites.toNat
  maxRuns := a.maxRuns.toNat
  changeoverLimit := a.changeoverLimit.toNat
  goldenInterval := a.goldenInterval.toNat
  maxRetest := a.maxRetest.toNat
  map := a.map
  trays := Vector.ofFn fun t => trayClassStored (a.trayClasses.get t)

/-! ## Limit sets as loaded (R39, R40) -/

/-- A bp field: above 10000 becomes 10000 (R39). -/
def clampBp (v : BitVec 16) : Nat := if 10000 < v.toNat then 10000 else v.toNat

/-- Nmin and Nsite: 0 becomes 1 (R40). -/
def clampCount (v : BitVec 16) : Nat := if v.toNat = 0 then 1 else v.toNat

/-- W: below 4 becomes 4, above 32 becomes 32 (R40). -/
def clampWindow (v : Byte) : Nat := if v.toNat < 4 then 4 else if 32 < v.toNat then 32 else v.toNat

/-- A policy code: one that is none of the three becomes STOP (R40). -/
def clampPolicy (v : Byte) : Policy := (policyOf v).getD .stop

/-- The limit set as RLS stores it, marked loaded (R38 to R40, R42). -/
def limitsStored (a : LimitArgs) : LimitSet where
  loaded := true
  ymin := clampBp a.ymin
  nmin := clampCount a.nmin
  fmax := Vector.ofFn fun h => clampBp (a.fmax.get h)
  ywin := clampBp a.ywin
  w := clampWindow a.w
  nsite := clampCount a.nsite
  dmax := clampBp a.dmax
  cmax := a.cmax.toNat
  yfinal := clampBp a.yfinal
  trayTol := a.trayTol.toNat
  inputTol := a.inputTol.toNat
  polYield := clampPolicy a.polYield
  polBin := clampPolicy a.polBin
  polWindow := clampPolicy a.polWindow
  polSite := clampPolicy a.polSite
  polConsec := clampPolicy a.polConsec

/-- How many fields of the load were clamped, 0–27 (R40, R42). -/
def limitsClampCount (a : LimitArgs) : Nat :=
  ([a.ymin, a.ywin, a.dmax, a.yfinal] ++ a.fmax.toList).countP (fun v => 10000 < v.toNat)
    + [a.nmin, a.nsite].countP (fun v => v.toNat = 0)
    + [a.w].countP (fun v => v.toNat < 4 || 32 < v.toNat)
    + [a.polYield, a.polBin, a.polWindow, a.polSite, a.polConsec].countP (fun v => (policyOf v).isNone)

/-! ## The floor profile as set (R175) -/

/-- Every value within its range of Table 10-4. -/
def profileInRange (a : ProfileArgs) : Bool :=
  stationOk a.partStation && stationOk a.floorHost
    && (1 ≤ a.cellsInUse.toNat && a.cellsInUse.toNat ≤ 64)
    && (1 ≤ a.heartbeat.toNat && a.heartbeat.toNat ≤ 60)
    && (1 ≤ a.load.toNat && a.load.toNat ≤ 600)
    && (1 ≤ a.golden.toNat && a.golden.toNat ≤ 600)
    && (1 ≤ a.closing.toNat && a.closing.toNat ≤ 30)
    && (1 ≤ a.counts.toNat && a.counts.toNat ≤ 600)
    && (onOff a.goldenAfterDown).isSome
    && a.aging.toNat ≤ 240
    && (1 ≤ a.lookahead.toNat && a.lookahead.toNat ≤ 16)
    && a.escalation.toNat ≤ 15
    && (onOff a.forwardResults).isSome

/-- The profile that the request's values make. -/
def profileStored (a : ProfileArgs) : Profile where
  partStation := a.partStation
  floorHost := a.floorHost
  cellsInUse := a.cellsInUse.toNat
  heartbeat := a.heartbeat.toNat
  load := a.load.toNat
  golden := a.golden.toNat
  closing := a.closing.toNat
  counts := a.counts.toNat
  goldenAfterDown := (onOff a.goldenAfterDown).getD false
  aging := a.aging.toNat
  lookahead := a.lookahead.toNat
  escalation := a.escalation.toNat
  forwardResults := (onOff a.forwardResults).getD false

end Sys2Proof.Machine
end

