-- ==== Sys2Proof/Machine/Ops.lean ====
section
/-! DEFINITION. The named operations on State that every block uses: reading and writing records, saturating sums, the
ports and their lists (Chapter 9), notices (R179, R180), cell states and accumulators (R91), the cell's one deadline
(R107), and reading the step and the limit set of a lot (R35). -/

namespace Sys2Proof.Machine

/-! ## Records -/

/-- Entry `i` of `v` replaced. -/
def vset {α : Type} {n : Nat} (v : Vector α n) (i : Fin n) (x : α) : Vector α n := v.set i.val x i.isLt

/-- Entry `i` of `v` changed by `f`. -/
def vmod {α : Type} {n : Nat} (v : Vector α n) (i : Fin n) (f : α → α) : Vector α n := vset v i (f v[i])

def State.lot (s : State) (i : LotSlot) : Lot := s.lots[i]
def State.run (s : State) (i : RunIx) : Run := s.runs[i]
def State.cell (s : State) (i : CellIx) : Cell := s.cells[i]
def State.route (s : State) (i : RouteIx) : Route := s.routes[i]
def State.limit (s : State) (i : LimitIx) : LimitSet := s.limits[i]
def State.ship (s : State) (i : ShipSlot) : Shipment := s.ships[i]

def State.setLot (s : State) (i : LotSlot) (x : Lot) : State := { s with lots := vset s.lots i x }
def State.setRun (s : State) (i : RunIx) (x : Run) : State := { s with runs := vset s.runs i x }
def State.setCell (s : State) (i : CellIx) (x : Cell) : State := { s with cells := vset s.cells i x }
def State.setRoute (s : State) (i : RouteIx) (x : Route) : State := { s with routes := vset s.routes i x }
def State.setLimit (s : State) (i : LimitIx) (x : LimitSet) : State := { s with limits := vset s.limits i x }
def State.setShip (s : State) (i : ShipSlot) (x : Shipment) : State := { s with ships := vset s.ships i x }

def State.modLot (s : State) (i : LotSlot) (f : Lot → Lot) : State := s.setLot i (f (s.lot i))
def State.modRun (s : State) (i : RunIx) (f : Run → Run) : State := s.setRun i (f (s.run i))
def State.modCell (s : State) (i : CellIx) (f : Cell → Cell) : State := s.setCell i (f (s.cell i))
def State.modRoute (s : State) (i : RouteIx) (f : Route → Route) : State := s.setRoute i (f (s.route i))
def State.modShip (s : State) (i : ShipSlot) (f : Shipment → Shipment) : State := s.setShip i (f (s.ship i))

/-! ## Saturating sums (0.6.3) -/

/-- A sum that stops at `top`. -/
def satAdd (top a b : Nat) : Nat := min top (a + b)

/-- A 24-bit saturating sum. -/
def sat24 (a b : Nat) : Nat := satAdd Config.max24 a b

/-! ## The ports (R170 to R172, R180) -/

/-- Port F's transmitter, when idle, chooses its next frame: the oldest response or notice of the outbound list, else
the oldest frame of the forward queue (R172). A notice leaves with the gap marker of R180. -/
def kickF (s : State) : State :=
  match s.txF with
  | some _ => s
  | none =>
    match s.outbound with
    | .notice n :: rest =>
        { s with outbound := rest, noticeCount := s.noticeCount - 1, gapFlag := false,
                 txF := some (.notice n s.gapFlag) }
    | .response r :: rest => { s with outbound := rest, txF := some (.response r) }
    | [] =>
      match s.fwdCF with
      | b :: rest => { s with fwdCF := rest, txF := some (.forwarded b) }
      | [] => s

/-- Port C's transmitter, when idle, chooses its next frame: the head of the order list, else the oldest frame of the
forward queue (R172). -/
def kickC (s : State) : State :=
  match s.txC with
  | some _ => s
  | none =>
    match s.orders with
    | o :: rest => { s with orders := rest, txC := some (.order o) }
    | [] =>
      match s.fwdFC with
      | b :: rest => { s with fwdFC := rest, txC := some (.forwarded b) }
      | [] => s

/-- A frame is queued for forwarding from Port C to Port F, or dropped when the queue is full (R170). -/
def forwardCF (b : List Byte) (s : State) : State :=
  if s.fwdCF.length < Config.forwardCapacity then kickF { s with fwdCF := s.fwdCF ++ [b] } else s

/-- A frame is queued for forwarding from Port F to Port C, or dropped when the queue is full (R170). -/
def forwardFC (b : List Byte) (s : State) : State :=
  if s.fwdFC.length < Config.forwardCapacity then kickC { s with fwdFC := s.fwdFC ++ [b] } else s

/-- An order joins the order list, or is not sent when the list is full (R171). -/
def appendOrder (o : OrderFrame) (s : State) : State :=
  if s.orders.length < Config.orderCapacity then kickC { s with orders := s.orders ++ [o] } else s

/-- The station of a cell in a role. -/
def Cell.station (c : Cell) : Role → Option Station
  | .tester => c.tester
  | .handler => c.handler

/-- An order to one station of a cell, as the cell record holds it when the order is made (R171). -/
def sendOrder (c : CellIx) (role : Role) (o : Order) (s : State) : State :=
  match (s.cell c).station role with
  | some d => appendOrder { dst := d, src := s.profile.partStation, order := o } s
  | none => s

/-- An order to both stations of a cell: first the tester's frame, then the handler's (R171). -/
def sendBoth (c : CellIx) (o : Order) (s : State) : State := sendOrder c .handler o (sendOrder c .tester o s)

/-- A notice is stamped and joins the outbound list, or is refused with the gap flag set (R179). It goes to the floor
host station (DEDUCED, notes/assumptions/6.md). -/
def postNotice (n : Notice) (s : State) : State :=
  if s.noticeCount < Config.noticeCapacity then
    kickF { s with
      outbound := s.outbound ++ [.notice { dst := s.profile.floorHost, src := s.profile.partStation,
                                           floorTime := s.floorClock, notice := n }],
      noticeCount := s.noticeCount + 1 }
  else { s with gapFlag := true }

/-- Whether an entry of the outbound list is a response. -/
def Outbound.isResponse : Outbound → Bool
  | .response _ => true
  | .notice _ => false

/-- The responses waiting in the outbound list (R173). -/
def responsesWaiting (s : State) : Nat := s.outbound.countP Outbound.isResponse

/-- A response joins the outbound list behind what was made before it (R173). -/
def appendResponse (r : Response) (s : State) : State :=
  kickF { s with outbound := s.outbound ++ [.response r] }

/-! ## Cell states and accumulators (R91) -/

/-- The accumulators with `ms` added to the one of the state left (Table 4-2). -/
def Accumulators.add (a : Accumulators) (st : CellState) (ms : Nat) : Accumulators :=
  match st with
  | .offline => a
  | .idle => { a with idle := satAdd Config.max40 a.idle ms }
  | .changeover | .loading | .golden | .pausing => { a with setup := satAdd Config.max40 a.setup ms }
  | .running => { a with productive := satAdd Config.max40 a.productive ms }
  | .stopped => { a with stopped := satAdd Config.max40 a.stopped ms }
  | .down | .lost | .quarantined => { a with down := satAdd Config.max40 a.down ms }

/-- The accumulators read with the open period up to `now` (R91). -/
def Cell.accNow (c : Cell) (now : Nat) : Accumulators := c.acc.add c.state (now - c.since)

/-- The cell put in a state with a cause; a change of state closes the open period (R91). -/
def Cell.entered (c : Cell) (now : Nat) (st : CellState) (cause : Option Cause) : Cell :=
  if c.state = st then { c with cause := cause }
  else { c with acc := c.accNow now, since := now, state := st, cause := cause }

/-- A cell enters a state. -/
def enterCell (c : CellIx) (st : CellState) (cause : Option Cause) (s : State) : State :=
  s.modCell c fun k => k.entered s.timer st cause

/-! ## The cell's one deadline (R107, R153) -/

/-- The kinds that PRP arms for a stage. -/
def DeadlineKind.isStage : DeadlineKind → Bool
  | .changeover | .load | .golden => true
  | .closing | .counts => false

/-- A preparation's context changed. -/
def Cell.modPrep (c : Cell) (f : Prep → Prep) : Cell := { c with prep := c.prep.map f }

/-- PRP arms a stage deadline; an active deadline of RUN's is moved to the context with its remaining time (R107). -/
def Cell.armStage (c : Cell) (now : Nat) (k : DeadlineKind) (ms : Nat) : Cell :=
  let c' := match c.deadline with
    | some d => if d.kind.isStage then c else c.modPrep fun p => { p with setAside := some ⟨d.kind, d.expiry - now⟩ }
    | none => c
  { c' with deadline := some ⟨k, now + ms⟩ }

/-- RUN arms CLOSING or COUNTS; while a stage deadline is active the new deadline is set aside with its full limit
(R107). -/
def Cell.armRun (c : Cell) (now : Nat) (k : DeadlineKind) (ms : Nat) : Cell :=
  match c.deadline with
  | some d =>
      if d.kind.isStage then c.modPrep fun p => { p with setAside := some ⟨k, ms⟩ }
      else { c with deadline := some ⟨k, now + ms⟩ }
  | none => { c with deadline := some ⟨k, now + ms⟩ }

/-- PRP cancels its stage deadline. -/
def Cell.cancelStage (c : Cell) : Cell :=
  match c.deadline with
  | some d => if d.kind.isStage then { c with deadline := none } else c
  | none => c

/-- RUN cancels its deadline of a kind, armed or set aside (R153). -/
def Cell.cancelRun (c : Cell) (k : DeadlineKind) : Cell :=
  let c' := if (c.deadline.map (·.kind)) = some k then { c with deadline := none } else c
  c'.modPrep fun p => if (p.setAside.map (·.kind)) = some k then { p with setAside := none } else p

/-- The end of a context, by the preparation's end or by its discard: a set-aside deadline is armed again with its
remaining time (R107). -/
def Cell.dropPrep (c : Cell) (now : Nat) : Cell :=
  match c.prep with
  | some p =>
      { c with
        prep := none
        deadline := match p.setAside with
          | some a => some ⟨a.kind, now + a.remaining⟩
          | none => c.deadline }
  | none => c

/-- Milliseconds in a limit of seconds. -/
def seconds (n : Nat) : Nat := n * 1000

/-! ## Reading what a lot's step says (R35) -/

/-- The current step of a lot (R35). -/
def stepOf (s : State) (l : Lot) : Step := (s.route l.route).steps.getD l.step Step.none

/-- The limit set named by a lot's current step (R43). -/
def limitsOf (s : State) (l : Lot) : LimitSet := s.limit (stepOf s l).limitSet

/-- The lot of a run. -/
def lotOfRun (s : State) (r : RunIx) : Lot := s.lot (s.run r).lot

/-- The step of a run: its lot's current step (R55). -/
def stepOfRun (s : State) (r : RunIx) : Step := stepOf s (lotOfRun s r)

/-! ## Finding records -/

/-- The cell and role of a station in the station index (R73). -/
def findStation (s : State) (st : Station) : Option (CellIx × Role) :=
  (s.stations.find? fun e => e.station == st).map fun e => (e.cell, e.role)

/-- The lot that carries a tag: a record that is not VACANT (R1). -/
def findLot (s : State) (t : Tag) : Option LotSlot :=
  (List.finRange 256).find? fun i => (s.lot i).state != .vacant && (s.lot i).tag == t

/-- The lowest-numbered VACANT lot record (R22). -/
def vacantLot (s : State) : Option LotSlot := (List.finRange 256).find? fun i => (s.lot i).state == .vacant

/-- The lowest-numbered FREE run record (R121). -/
def freeRunIx (s : State) : Option RunIx := (List.finRange 192).find? fun i => (s.run i).state == .free

/-- The shipment that carries a tag: a record that is not VACANT (R154). -/
def findShip (s : State) (t : Tag) : Option ShipSlot :=
  (List.finRange 64).find? fun i => (s.ship i).state != .vacant && (s.ship i).tag == t

/-- The lowest-numbered VACANT shipment record (R156). -/
def vacantShip (s : State) : Option ShipSlot := (List.finRange 64).find? fun i => (s.ship i).state == .vacant

/-- The cell a request names, when its index is below the cells in use (R74, R87 to R92). -/
def cellInUse (s : State) (b : Byte) : Option CellIx :=
  if h : b.toNat < 64 then (if b.toNat < s.profile.cellsInUse then some ⟨b.toNat, h⟩ else none) else none

/-- The four run positions, ascending (R3). -/
def places : List RunPlace := [0, 1, 2, 3]

/-- The lowest absent position of a lot (R3). -/
def absentPlace (l : Lot) : Option RunPlace := places.find? fun p => l.runs[p] == .absent

/-- The first element that no other precedes under `lt`; ties go to the earlier one. -/
def firstLeast {α : Type} (lt : α → α → Bool) : List α → Option α
  | [] => none
  | a :: l =>
    match firstLeast lt l with
    | none => some a
    | some b => if lt b a then some b else some a

end Sys2Proof.Machine
end

