-- ==== Sys2Proof/Machine/Flags.lean ====
section
/-! DEFINITION. The arithmetic of the checks (R61 to R67, R152, R148) and the conditions the blocks test: blocked and
resumable runs (R13), eligible cells (R118), setup cost (R96), aging (R117), the heartbeat (R77). -/

namespace Sys2Proof.Machine

/-! ## Quotients (R61) -/

/-- A count of `d` as basis points: the product formed exactly, the quotient rounded down (0.6.2). -/
def basisPoints (n d : Nat) : Nat := n * 10000 / d

/-- The distance of two counts. -/
def distance (a b : Nat) : Nat := (a - b) + (b - a)

/-! ## Sequence judgement (R50, R71, R141) -/

/-- What the sequence stage finds. -/
inductive SeqJudgement where
  | accepted
  | gap (d : Nat)
  | discarded
  deriving DecidableEq, Repr

/-- The judgement of a touchdown's number against the cell's expectation (R50). -/
def judgeSeq (expected : Option Seq) (q : Seq) : SeqJudgement :=
  match expected with
  | none => .accepted
  | some e =>
    let d := (q - e).toNat
    if d = 0 then .accepted else if d ≤ 32767 then .gap d else .discarded

/-- `q` is the target or stands past it (R71). -/
def atOrPast (q target : Seq) : Bool := (q - target).toNat ≤ 32767

/-- The target of a PASS_END has already been taken (R141 step 4). -/
def targetTaken (expected : Option Seq) (target : Seq) : Bool :=
  match expected with
  | none => false
  | some e => atOrPast (e - 1) target

/-! ## The checks of a touchdown (R62 to R67) -/

/-- Some site's run of failures became equal to Cmax in this touchdown (R62). -/
def consecReached (cmax : Nat) (before after : Vector SiteFigures 16) : Bool :=
  (List.finRange 16).any fun i => before[i].streak + 1 == cmax && after[i].streak == cmax

/-- The window yield of a ring (R64). -/
def windowYield (ring : List RingEntry) : Nat :=
  basisPoints (ring.map (·.good)).sum (ring.map (·.tested)).sum

/-- The ring after an append: entries dropped from the oldest end while it holds more than W (R63). -/
def ringAppend (w : Nat) (ring : List RingEntry) (e : RingEntry) : List RingEntry :=
  (ring ++ [e]).drop ((ring ++ [e]).length - w)

/-- The fail rates of the considered sites (R65). -/
def consideredRates (enabled : SiteMask) (nsite : Nat) (sites : Vector SiteFigures 16) : List Nat :=
  ((List.finRange 16).filter fun i : Fin 16 => enabled.getLsbD i.val && nsite ≤ sites[i].tested).map
    fun i => basisPoints sites[i].fail sites[i].tested

/-- The site spread, when at least two sites are considered (R65). -/
def siteSpread (rates : List Nat) : Option Nat :=
  if 2 ≤ rates.length then some (rates.foldl max 0 - rates.foldl min 10000) else none

/-- The fraction of the lowest-numbered bin that breaches its limit (R66). -/
def binBreach (fmax bins : Vector Nat 15) (tested : Nat) : Option Nat :=
  ((List.finRange 15).find? fun h => fmax[h] < 10000 && fmax[h] < basisPoints bins[h] tested).map
    fun h => basisPoints bins[h] tested

/-! ## Holds (R9 to R14) -/

/-- A policy that holds back: STOP or FINISH. -/
def Policy.restrains : Policy → Bool
  | .stop | .finish => true
  | .mark => false

/-- The list holds a STOP or FINISH hold of lot scope (R6, R14). -/
def Lot.lotBlocked (l : Lot) : Bool := l.holds.any fun h => h.policy.restrains && h.pos.isNone

/-- The list holds a STOP or FINISH hold of any scope (R19). -/
def Lot.anyBlocked (l : Lot) : Bool := l.holds.any fun h => h.policy.restrains

/-- The list holds a STOP or FINISH hold of lot scope or at position `p` (R13, R132). -/
def Lot.blockedAt (l : Lot) (p : RunPlace) : Bool :=
  l.holds.any fun h => h.policy.restrains && (h.pos.isNone || h.pos == some p)

/-- A run is held back by its lot's holds. -/
def runBlocked (s : State) (r : RunIx) : Bool := (lotOfRun s r).blockedAt (s.run r).pos

/-- A STOPPED run is resumable (R13). -/
def resumable (s : State) (r : RunIx) : Bool := (s.run r).state == .stopped && !runBlocked s r

/-- TESTING, CLOSING or ENDING (R14). -/
def RunState.isWorking : RunState → Bool
  | .testing | .closing | .ending => true
  | .free | .assigned | .stopped | .suspended => false

/-- Every state but FREE and ASSIGNED (7.2). -/
def RunState.started : RunState → Bool
  | .free | .assigned => false
  | .testing | .closing | .stopped | .suspended | .ending => true

/-- A run of the lot's current step is TESTING, CLOSING or ENDING (R14). -/
def lotWorking (s : State) (l : Lot) : Bool :=
  places.any fun p => match l.runs[p] with
    | .run r => (s.run r).state.isWorking
    | .absent | .closed => false

/-- The policy a limit set holds for a kind; for the other kinds that of Table 1-5, and `given` for ENGINEER (R8). -/
def policyFor (lim : LimitSet) (given : Policy) : HoldKind → Policy
  | .yield => lim.polYield
  | .bin => lim.polBin
  | .window => lim.polWindow
  | .site => lim.polSite
  | .consec => lim.polConsec
  | .final | .recon | .data => .finish
  | .golden | .lost => .stop
  | .engineer => given

/-! ## Setup and preparation (R96, R97) -/

/-- The kit differs (R96). -/
def kitDiffers (c : Cell) (st : Step) : Bool := c.kit != some st.kit

/-- The temperature differs (R96). -/
def tempDiffers (c : Cell) (st : Step) : Bool := c.temp != some st.setpoint

/-- The program differs: none, or another id or revision (R96). -/
def programDiffers (c : Cell) (st : Step) : Bool :=
  match c.program with
  | none => true
  | some p => p.id != st.programId || p.revision != st.revision

/-- The setup cost of a step on a cell, 0–7 (R96). -/
def setupCost (c : Cell) (st : Step) : Nat :=
  (if kitDiffers c st then 4 else 0) + (if tempDiffers c st then 2 else 0) + (if programDiffers c st then 1 else 0)

/-- The sites a START or a RESUME names: the enabled sites below the step's site count (R109). -/
def usableSites (c : Cell) (st : Step) : SiteMask := c.enabled &&& sitesBelow st.siteCount

/-- Too few sites are enabled for the step (R97). -/
def tooFewSites (c : Cell) (st : Step) : Bool := siteNumber (usableSites c st) < st.minSites

/-- Whether a golden check is planned when a preparation begins (R97). -/
def goldenPlanned (prof : Profile) (c : Cell) (st : Step) : Origin → Bool
  | .assignment | .pop | .stopped => !c.goldenValid || tooFewSites c st
  | .fromDown => prof.goldenAfterDown || tooFewSites c st
  | .fromLostOrOffline | .clear | .periodic => true

/-! ## Dispatch (R31, R114, R118, R125) -/

/-- A cell serves a step: the mask has the flag of the cell's tester class (R31). -/
def compatible (c : Cell) (st : Step) : Bool := st.classMask.getLsbD c.cls.val

/-- A cell is eligible for dispatch (R118). -/
def eligible (c : Cell) : Bool := c.state == .idle && !c.draining && c.stack.isEmpty

/-- The queue order: class, then queue sequence, then slot (R114). -/
def queueBefore (s : State) (a b : LotSlot) : Bool :=
  let x := s.lot a
  let y := s.lot b
  x.cls < y.cls || (x.cls == y.cls && (x.queueSeq < y.queueSeq || (x.queueSeq == y.queueSeq && a < b)))

/-- A lot belongs in the dispatch queue (R6). -/
def belongsInQueue (l : Lot) : Bool :=
  (l.state == .waiting || l.state == .running) && 0 < l.toAssign && !l.lotBlocked

/-- The aging of a queued lot is due (R117). -/
def agingDue (s : State) (l : LotSlot) : Bool :=
  s.profile.aging != 0 && s.queue.contains l && ((s.lot l).cls == 2 || (s.lot l).cls == 3)
    && (s.lot l).classSince + s.profile.aging * 60000 ≤ s.timer

/-- A cell is a preemption candidate for a lot of step `st` (R125). -/
def preemptable (s : State) (st : Step) (c : CellIx) : Bool :=
  let k := s.cell c
  k.state == .running && !k.draining && k.stack.length < 2 && compatible k st &&
    match k.current with
    | some r => (s.run r).state == .testing && ((lotOfRun s r).cls == 2 || (lotOfRun s r).cls == 3)
    | none => false

/-! ## Cells (R77, 4.2) -/

/-- DOWN, LOST, QUARANTINED and OFFLINE are not operational. -/
def CellState.operational : CellState → Bool
  | .idle | .changeover | .loading | .golden | .running | .pausing | .stopped => true
  | .offline | .down | .lost | .quarantined => false

/-- A cell whose stations' silence is watched (R77). -/
def CellState.watched : CellState → Bool
  | .offline | .lost | .quarantined => false
  | .idle | .changeover | .loading | .golden | .running | .pausing | .stopped | .down => true

/-- The last-heard time of a station. -/
def Cell.heard (c : Cell) : Role → Option Nat
  | .tester => c.heardTester
  | .handler => c.heardHandler

/-- The later of two optional times. -/
def laterOf : Option Nat → Option Nat → Option Nat
  | none, b => b
  | a, none => a
  | some a, some b => some (max a b)

/-- A station's silence has reached the heartbeat limit (R77). -/
def heartbeatDue (s : State) (c : CellIx) (role : Role) : Bool :=
  (s.cell c).state.watched &&
    match laterOf ((s.cell c).heard role) (s.cell c).clearTime with
    | some t => t + seconds s.profile.heartbeat ≤ s.timer
    | none => false

/-- The cell's deadline is of such a kind and has expired. -/
def deadlineDue (s : State) (c : CellIx) (p : DeadlineKind → Bool) : Bool :=
  match (s.cell c).deadline with
  | some d => p d.kind && d.expiry ≤ s.timer
  | none => false

/-! ## Trays and reconciliation (R32 to R34, R148) -/

/-- The tray that a hard bin of 1–15 goes to (R32). -/
def Step.trayOf (st : Step) (h : Fin 15) : Fin 8 :=
  ⟨(st.map[h.val + 1]'(by omega)).toNat % 8, Nat.mod_lt _ (by decide)⟩

/-- A tray of class RETEST (R34). -/
def Step.isRetest (st : Step) (t : Fin 8) : Bool := st.trays[t] == .retest

/-- A tray of class GOOD (R33). -/
def Step.isGood (st : Step) (t : Fin 8) : Bool :=
  match st.trays[t] with
  | .good _ => true
  | .reject | .retest => false

/-- A bin of 1–15 whose tray is GOOD (R33). -/
def Step.goodBin (st : Step) (h : Fin 15) : Bool := st.isGood (st.trayOf h)

/-- The ledger sum over the trays that `p` picks. -/
def ledgerSum (ledger : Vector Nat 8) (p : Fin 8 → Bool) : Nat :=
  (((List.finRange 8).filter p).map fun t => ledger[t]).sum

/-- The retest tray mask (R34). -/
def Step.retestMask (st : Step) : BitVec 8 :=
  (List.finRange 8).foldl (fun m t => if st.isRetest t then m ||| BitVec.ofNat 8 (2 ^ t.val) else m) 0

/-- The run fails reconciliation against the handler's counts (R148 step 4). -/
def failsReconciliation (lim : LimitSet) (r : Run) (fed : Nat) (trays : Vector (BitVec 24) 8) : Bool :=
  lim.inputTol < distance fed r.tested
    || (List.finRange 8).any (fun t => lim.trayTol < distance trays[t].toNat r.ledger[t])
    || lim.trayTol < r.shortfall || lim.trayTol < r.surplus

/-- The final yield of a step (R152). -/
def finalYield (f : StepFigures) : Nat := basisPoints (min f.goodFinal f.tested) f.tested

end Sys2Proof.Machine
end

