-- ==== Sys2Proof/Machine/Frames.lean ====
section
/-! DEFINITION. The frames that the part makes (R184, R186): the bodies of orders, notices and responses, the encoding
of query data field by field, and the bytes of whatever a transmitter sends. -/

namespace Sys2Proof.Machine

/-! ## Fields (R184, R186) -/

/-- A code, an index or a small count: 1 byte. -/
def byte1 (n : Nat) : List Byte := beBytes 1 n

/-- A flag: 1 byte. -/
def flagByte (b : Bool) : List Byte := [if b then 1 else 0]

/-- A tag: 8 bytes. -/
def tagBytes (t : Tag) : List Byte := beBytes 8 t.toNat

/-- An optional field of `n` bytes: its presence byte, then the field, zero when absent (R186). -/
def optBytes (n : Nat) (o : Option Nat) : List Byte :=
  match o with
  | some v => 1 :: beBytes n v
  | none => 0 :: List.replicate n 0

/-- A temperature: 2 bytes of two's complement. -/
def tempNat (t : Int) : Nat := (BitVec.ofInt 16 t).toNat

/-- A time on the deadline timer as an age: 4 bytes, stopping at 4,294,967,295. -/
def ageNat (now t : Nat) : Nat := min 4294967295 (now - t)

/-- A list preceded by its count in `w` bytes. -/
def listBytes {α : Type} (w : Nat) (f : α → List Byte) (l : List α) : List Byte := beBytes w l.length ++ l.flatMap f

/-- The bytes of a vector's entries in order. -/
def vecBytes {α : Type} {n : Nat} (f : α → List Byte) (v : Vector α n) : List Byte := v.toList.flatMap f

/-- A hold scope: the position, or 0xFF for the lot (R184). -/
def scopeByte (pos : Option RunPlace) : List Byte :=
  match pos with
  | some p => byte1 p.val
  | none => [0xFF]

/-- A run-list position (R184). -/
def runPosByte : RunPos → List Byte
  | .run r => byte1 r.val
  | .closed => [0xFE]
  | .absent => [0xFF]

/-- A portion mark (R186). -/
def markByte : PortionMark → List Byte
  | .inShipment n => byte1 n.val
  | .free => [0x40]
  | .released => [0x41]

/-! ## Orders (Table 11-2) -/

/-- The kind code of an order. -/
def Order.kind : Order → BitVec 16
  | .setup _ _ => 0x0201
  | .load _ _ => 0x0202
  | .golden _ => 0x0203
  | .start _ _ _ _ => 0x0204
  | .retest _ _ _ => 0x0205
  | .pause => 0x0206
  | .resume _ _ _ _ => 0x0207
  | .stop => 0x0208
  | .unload _ _ => 0x0209

/-- The body of an order. -/
def Order.body : Order → List Byte
  | .setup kit temp => byte1 kit ++ beBytes 2 (tempNat temp)
  | .load id rev => beBytes 2 id.toNat ++ [rev]
  | .golden n => byte1 n
  | .start tag pos mask map => tagBytes tag ++ byte1 pos.val ++ beBytes 2 mask.toNat ++ map.toList
  | .retest pass units trays => byte1 pass ++ beBytes 3 units ++ [trays]
  | .pause => []
  | .resume tag pos pass mask => tagBytes tag ++ byte1 pos.val ++ byte1 pass ++ beBytes 2 mask.toNat
  | .stop => []
  | .unload tag pos => tagBytes tag ++ byte1 pos.val

/-! ## Notices (Table 10-5) -/

/-- The kind code of a notice. -/
def Notice.kind : Notice → BitVec 16
  | .dispatched _ _ _ _ _ => 0x0501
  | .holdRaised _ _ _ _ _ => 0x0502
  | .holdReleased _ _ _ => 0x0503
  | .stepDone _ _ _ _ => 0x0504
  | .lotFinished _ _ => 0x0505
  | .cellChanged _ _ _ => 0x0506
  | .goldenDone _ _ _ _ => 0x0507
  | .shipmentReleased _ _ _ _ => 0x0508

/-- The fields of a notice; an optional field has the presence byte of R186 (DEDUCED, notes/assumptions/10.md). -/
def Notice.fields : Notice → List Byte
  | .dispatched tag step pos cell cost => tagBytes tag ++ byte1 step ++ byte1 pos.val ++ byte1 cell.val ++ byte1 cost
  | .holdRaised tag kind pos policy value =>
      tagBytes tag ++ byte1 kind.code ++ optBytes 1 (pos.map (·.val)) ++ byte1 policy.code ++ optBytes 2 value
  | .holdReleased tag kind pos => tagBytes tag ++ byte1 kind.code ++ optBytes 1 (pos.map (·.val))
  | .stepDone tag step tested final => tagBytes tag ++ byte1 step ++ beBytes 3 tested ++ beBytes 3 final
  | .lotFinished tag grades => tagBytes tag ++ vecBytes (beBytes 3) grades
  | .cellChanged cell state cause => byte1 cell.val ++ byte1 state.code ++ optBytes 1 (cause.map Cause.code)
  | .goldenDone cell mask enabled outcome =>
      byte1 cell.val ++ beBytes 2 mask.toNat ++ beBytes 2 enabled.toNat ++ byte1 outcome.code
  | .shipmentReleased tag grade quantity members =>
      tagBytes tag ++ byte1 grade ++ beBytes 3 quantity ++ byte1 members

/-! ## Whole frames (R171, R183, R186) -/

/-- An own frame: broadcast, from the port's fixed address, padded to the minimum length. -/
def ownFrame (port : Port) (cls : Byte) (kind dst src tag : BitVec 16) (body : List Byte) : List Byte :=
  let m := messageBytes cls kind dst src tag body
  ethernetFrame 0xFFFFFFFFFFFF (Config.portAddress port) m (minPad m)

/-- The bytes that a port sends of a frame. -/
def TxFrame.bytes (port : Port) : TxFrame → List Byte
  | .order o => ownFrame port 0x02 o.order.kind o.dst o.src 0 o.order.body
  | .notice n gap =>
      ownFrame port 0x05 n.notice.kind n.dst n.src 0
        (beBytes 6 n.floorTime.toNat ++ flagByte gap ++ n.notice.fields)
  | .response r => ownFrame port 0x04 r.kind r.dst r.src r.tag (byte1 r.status.code ++ r.data)
  | .forwarded b => b

/-! ## LOT_QUERY (R28, R136) -/

/-- A hold record in the field order of Table 1-4. -/
def Hold.bytes (h : Hold) : List Byte :=
  byte1 h.kind.code ++ scopeByte h.pos ++ byte1 h.policy.code ++ byte1 h.step ++ beBytes 6 h.floorTime.toNat
    ++ optBytes 2 h.value

/-- A window ring entry. -/
def RingEntry.bytes (e : RingEntry) : List Byte := byte1 e.tested ++ byte1 e.good

/-- A run record in the field order of Table 7-1. Stopped-from and suspended-from, present in one state each, are
encoded as optional fields (DEDUCED, notes/assumptions/33.md). -/
def Run.bytes (x : Run) : List Byte :=
  byte1 x.lot.val ++ byte1 x.pos.val ++ byte1 x.cell.val ++ byte1 x.state.code
    ++ optBytes 1 (x.stoppedFrom.map ActiveState.code) ++ optBytes 1 (x.suspendedFrom.map ActiveState.code)
    ++ byte1 x.pass ++ beBytes 3 x.tested ++ beBytes 3 x.good ++ beBytes 3 x.recovered
    ++ vecBytes (fun f => beBytes 3 f.tested) x.sites ++ vecBytes (fun f => beBytes 3 f.fail) x.sites
    ++ vecBytes (fun f => byte1 f.streak) x.sites
    ++ listBytes 1 RingEntry.bytes x.ring ++ vecBytes (beBytes 3) x.ledger
    ++ beBytes 3 x.outstanding ++ beBytes 3 x.shortfall ++ beBytes 3 x.surplus
    ++ optBytes 3 x.handlerFed ++ optBytes 2 (x.target.map BitVec.toNat) ++ flagByte x.targetReached
    ++ beBytes 2 x.sinceGolden ++ optBytes 6 (x.startTime.map BitVec.toNat)

/-- The fields of Table 1-1 but for the hold list, which follows the in-queue flag (R186). -/
def Lot.bytes (now : Nat) (x : Lot) : List Byte :=
  tagBytes x.tag ++ byte1 x.route.val ++ byte1 x.state.code ++ byte1 x.step ++ byte1 x.split
    ++ byte1 x.runsPerStep ++ byte1 x.cls ++ beBytes 4 (ageNat now x.classSince) ++ flagByte x.preempt
    ++ beBytes 4 x.queueSeq ++ beBytes 3 x.started ++ beBytes 3 x.q ++ byte1 x.toAssign
    ++ vecBytes runPosByte x.runs ++ byte1 x.closedRuns ++ flagByte x.stepStarted
    ++ beBytes 3 x.figures.tested ++ beBytes 3 x.figures.good ++ vecBytes (beBytes 3) x.figures.bins
    ++ beBytes 3 x.figures.goodFinal ++ beBytes 3 x.figures.fedSum ++ vecBytes (beBytes 3) x.figures.gradeSums
    ++ flagByte x.yieldWaived ++ flagByte x.binWaived ++ flagByte x.stepClosed ++ flagByte x.routeComplete
    ++ vecBytes (beBytes 3) x.gradeQty ++ vecBytes markByte x.marks

/-- The open runs of a lot, in position order (R136). -/
def openRuns (s : State) (x : Lot) : List Run :=
  places.filterMap fun p => match x.runs[p] with
    | .run r => some (s.run r)
    | .absent | .closed => none

/-- The data of a LOT_QUERY response (R28, R186). -/
def lotData (s : State) (l : LotSlot) : List Byte :=
  let x := s.lot l
  byte1 l.val ++ x.bytes s.timer ++ flagByte (s.queue.contains l) ++ listBytes 1 Hold.bytes x.holds
    ++ listBytes 1 Run.bytes (openRuns s x)

/-! ## CELL_QUERY (R90) -/

/-- A program, its id, revision and checksum behind one presence byte: a program of none is absent (DEDUCED,
notes/assumptions/33.md). -/
def programBytes (o : Option Program) : List Byte :=
  match o with
  | some p => 1 :: (beBytes 2 p.id.toNat ++ [p.revision] ++ beBytes 4 p.checksum.toNat)
  | none => 0 :: List.replicate 7 0

/-- A deadline: its kind and its remaining milliseconds, behind one presence byte; no deadline is an absent value (R186;
that the two stand behind one byte is DEDUCED, notes/assumptions/33.md). -/
def deadlineBytes (now : Nat) (o : Option Deadline) : List Byte :=
  match o with
  | some d => 1 :: (byte1 d.kind.code ++ beBytes 4 (ageNat d.expiry now))
  | none => 0 :: List.replicate 5 0

/-- The fields of Table 4-1, the stack from bottom to top (R186). A field that the table gives as "or none", and the
cause that it gives as absent in other states, are encoded as the optional fields are: a presence byte, then the field,
zero for none (DEDUCED, notes/assumptions/33.md). -/
def Cell.bytes (now : Nat) (k : Cell) : List Byte :=
  let a := k.accNow now
  flagByte k.configured ++ optBytes 2 (k.tester.map BitVec.toNat) ++ optBytes 2 (k.handler.map BitVec.toNat)
    ++ byte1 k.cls.val ++ byte1 k.state.code ++ optBytes 1 (k.cause.map Cause.code) ++ beBytes 4 (ageNat now k.since)
    ++ optBytes 1 (k.repTester.map StationReport.code) ++ optBytes 1 (k.repHandler.map StationReport.code)
    ++ optBytes 4 (k.heardTester.map (ageNat now)) ++ optBytes 4 (k.heardHandler.map (ageNat now))
    ++ optBytes 4 (k.clearTime.map (ageNat now)) ++ byte1 k.downCount ++ flagByte k.draining
    ++ optBytes 1 (k.current.map (·.val)) ++ optBytes 1 (k.reserved.map (·.val))
    ++ listBytes 1 (fun r : RunIx => byte1 r.val) k.stack.reverse ++ flagByte k.changed
    ++ optBytes 1 k.kit ++ optBytes 2 (k.temp.map tempNat) ++ programBytes k.program
    ++ beBytes 2 k.golden.mask.toNat ++ byte1 k.golden.outcome.code ++ beBytes 6 k.golden.floorTime.toNat
    ++ flagByte k.goldenValid ++ beBytes 2 k.enabled.toNat ++ deadlineBytes now k.deadline
    ++ optBytes 2 (k.expected.map BitVec.toNat)
    ++ beBytes 5 a.productive ++ beBytes 5 a.setup ++ beBytes 5 a.stopped ++ beBytes 5 a.down ++ beBytes 5 a.idle

/-! ## SHIP_QUERY (R164) -/

/-- A member of a shipment. -/
def Member.bytes (m : Member) : List Byte := tagBytes m.tag ++ byte1 m.slot.val ++ beBytes 3 m.quantity

/-- The data of a SHIP_QUERY response. -/
def shipData (s : State) (n : ShipSlot) : List Byte :=
  let x := s.ship n
  byte1 n.val ++ tagBytes x.tag ++ beBytes 4 x.product.toNat ++ byte1 x.grade ++ beBytes 3 x.maximum
    ++ beBytes 3 x.quantity ++ byte1 x.state.code ++ listBytes 1 Member.bytes x.members

/-! ## STATUS and QUEUE_QUERY (R178) -/

/-- The floor profile, each parameter at its width in SET_PROFILE. -/
def Profile.bytes (p : Profile) : List Byte :=
  beBytes 2 p.partStation.toNat ++ beBytes 2 p.floorHost.toNat ++ byte1 p.cellsInUse ++ byte1 p.heartbeat
    ++ beBytes 2 p.load ++ beBytes 2 p.golden ++ byte1 p.closing ++ beBytes 2 p.counts
    ++ flagByte p.goldenAfterDown ++ byte1 p.aging ++ byte1 p.lookahead ++ byte1 p.escalation
    ++ flagByte p.forwardResults

/-- The number of lot records in a state. -/
def lotsIn (s : State) (st : LotState) : Nat := s.lots.toList.countP fun x => x.state == st

/-- The number of configured cells in a state. -/
def cellsIn (s : State) (st : CellState) : Nat := s.cells.toList.countP fun k => k.configured && k.state == st

/-- The number of shipment records in a state. -/
def shipsIn (s : State) (st : ShipState) : Nat := s.ships.toList.countP fun x => x.state == st

/-- The lot states that STATUS counts, in its order. -/
def countedLotStates : List LotState := [.waiting, .running, .held, .finished, .released, .scrapped]

/-- The cell states, in the order of Table 4-2. -/
def allCellStates : List CellState :=
  [.offline, .idle, .changeover, .loading, .golden, .running, .pausing, .stopped, .down, .lost, .quarantined]

/-- The data of a STATUS response. -/
def statusData (s : State) : List Byte :=
  byte1 s.phase.code ++ s.profile.bytes ++ beBytes 6 s.floorClock.toNat
    ++ countedLotStates.flatMap (fun st => beBytes 2 (lotsIn s st))
    ++ byte1 (s.runs.toList.countP fun x => x.state != .free) ++ beBytes 2 s.queue.length
    ++ byte1 (s.cells.toList.countP fun k => k.configured) ++ allCellStates.flatMap (fun st => byte1 (cellsIn s st))
    ++ [ShipState.opened, .sealed, .released].flatMap (fun st => byte1 (shipsIn s st))
    ++ byte1 s.noticeCount ++ flagByte s.gapFlag
    ++ byte1 (s.routes.toList.countP fun r => !r.steps.isEmpty) ++ byte1 (s.limits.toList.countP fun x => x.loaded)

/-- An entry of the dispatch queue (R114). -/
def queueEntryBytes (s : State) (l : LotSlot) : List Byte :=
  let x := s.lot l
  tagBytes x.tag ++ byte1 l.val ++ byte1 x.cls ++ beBytes 4 x.queueSeq ++ byte1 x.toAssign

/-- The data of a QUEUE_QUERY response. -/
def queueData (s : State) : List Byte := listBytes 2 (queueEntryBytes s) s.queue

end Sys2Proof.Machine
end

