-- ==== Sys2Proof/Machine/Runs.lean ====
section
/-! DEFINITION. RUN's shared operations: closing a pass (R144), a run that starts or resumes (R137), the closing target
(R142), suspension (R127), and freeing a record (R123, R149). -/

namespace Sys2Proof.Machine

/-- RUN arms one of its deadlines on the cell of a run (R153). -/
def armRunDeadline (c : CellIx) (k : DeadlineKind) (limit : Nat) (s : State) : State :=
  s.modCell c fun x => x.armRun s.timer k (seconds limit)

/-- RUN cancels its deadline of a kind on a cell, armed or set aside (R153). -/
def cancelRunDeadline (c : CellIx) (k : DeadlineKind) (s : State) : State := s.modCell c fun x => x.cancelRun k

/-- The outstanding count a retest pass begins with: the retest sum, or a free value where it does not fit in the 24
bits of Table 7-1 (R144 step 4; notes/assumptions/3.md). -/
def outstandingOf (sum : Nat) : Nat := if sum ≤ Config.max24 then sum else (Config.retestSumBeyond24 sum).toNat

/-- The ledger with the count of every RETEST tray set to 0 (R144 step 4). -/
def clearRetest (st : Step) (ledger : Vector Nat 8) : Vector Nat 8 :=
  (List.finRange 8).foldl (fun v t => if st.isRetest t then vset v t 0 else v) ledger

/-- Steps 1 and 2 of a pass close (R144): target and mark cleared, what is outstanding moved to shortfall. -/
def Run.passClosed (r : Run) : Run :=
  if r.pass = 0 then { r with target := none, targetReached := false }
  else { r with target := none, targetReached := false,
                shortfall := sat24 r.shortfall r.outstanding, outstanding := 0 }

/-- A pass closes: a retest pass begins, or the run end does (R144). -/
def passClose (r : RunIx) (s : State) : State :=
  let run := (s.run r).passClosed
  let st := stepOfRun s r
  let sum := ledgerSum run.ledger st.isRetest
  if run.pass < st.maxRetest ∧ 0 < sum then
    let units := outstandingOf sum
    let s := s.setRun r
      { run with outstanding := units, ledger := clearRetest st run.ledger, pass := run.pass + 1, state := .testing }
    sendOrder run.cell .handler (.retest (run.pass + 1) units st.retestMask) s
  else
    let s := sendOrder run.cell .handler (.unload (lotOfRun s r).tag run.pos) s
    let s := s.setRun r { run with state := .ending }
    armRunDeadline run.cell .counts s.profile.counts s

/-- TDA reports the closing target of a run reached (R142): a CLOSING run closes its pass, a parked run is marked
(R139). -/
def targetReport (r : RunIx) (s : State) : State :=
  match (s.run r).state with
  | .closing => passClose r (cancelRunDeadline (s.run r).cell .closing s)
  | .stopped | .suspended => s.modRun r fun x => { x with targetReached := true }
  | .free | .assigned | .testing | .ending => s

/-- LOT learns that a run has reached TESTING (R4). -/
def lotReachesTesting (l : LotSlot) (s : State) : State :=
  s.modLot l fun x => { x with state := if x.state = .waiting then .running else x.state, stepStarted := true }

/-- A START is sent for an ASSIGNED run: both stations get the order, the cell goes RUNNING, the run TESTING with its
start time, and LOT is told (R109, R137, R4). -/
def startRun (c : CellIx) (r : RunIx) (s : State) : State :=
  let st := stepOfRun s r
  let run := s.run r
  let s := sendBoth c (.start (lotOfRun s r).tag run.pos (usableSites (s.cell c) st) st.map) s
  let s := enterCell c .running none s
  let s := s.modRun r fun x => { x with state := .testing, startTime := some s.floorClock }
  lotReachesTesting run.lot s

/-- The state a run resumes into (R137): its stopped-from or suspended-from state, or its own. -/
def Run.resumesInto (r : Run) : RunState :=
  match r.state with
  | .stopped => match r.stoppedFrom with
    | some .closing => .closing
    | some .testing | none => .testing
  | .suspended => match r.suspendedFrom with
    | some .closing => .closing
    | some .testing | none => .testing
  | .free | .assigned | .testing | .closing | .ending => r.state

/-- A run that resumes into CLOSING (R137): its pass closes at once when the target-reached mark is set, else CLOSING is
armed unless it already is. -/
def resumeClosing (r : RunIx) (s : State) : State :=
  let run := s.run r
  if run.state ≠ .closing then s
  else if run.targetReached then passClose r s
  else if ((s.cell run.cell).deadline.map (·.kind)) = some .closing then s
  else armRunDeadline run.cell .closing s.profile.closing s

/-- A RESUME is sent for a run: both stations get the order, the cell goes RUNNING and the run returns to its state
(R109, R128, R137). -/
def resumeRun (c : CellIx) (r : RunIx) (s : State) : State :=
  let st := stepOfRun s r
  let run := s.run r
  let s := sendBoth c (.resume (lotOfRun s r).tag run.pos run.pass (usableSites (s.cell c) st)) s
  let s := enterCell c .running none s
  let s := s.modRun r fun x => { x with state := x.resumesInto, stoppedFrom := none, suspendedFrom := none }
  resumeClosing r s

/-- The state recorded when a TESTING or CLOSING run is parked. -/
def RunState.parkedFrom : RunState → ActiveState
  | .closing => .closing
  | .free | .assigned | .testing | .stopped | .suspended | .ending => .testing

/-- The cell's references to a run cleared: as current run, reserved run, entry of the stack, or target of the
preparation (R123 step 2, R110, R149 step 3). -/
def Cell.forget (c : Cell) (r : RunIx) : Cell :=
  { c with
    current := if c.current = some r then none else c.current
    reserved := if c.reserved = some r then none else c.reserved
    stack := c.stack.filter (· ≠ r)
    prep := c.prep.map fun p => { p with target := if p.target = some r then none else p.target } }

/-- The record of a run returns to its FREE values and its cell forgets it (R123 steps 1 and 2, R149 step 3). -/
def freeRun (r : RunIx) (s : State) : State :=
  let c := (s.run r).cell
  (s.setRun r .free).modCell c fun k => k.forget r

end Sys2Proof.Machine
end

