-- ==== Sys2Proof/Machine/Prep.lean ====
section
/-! DEFINITION. PRP's shared operations: beginning a preparation and choosing its stages (R97 to R103), ending it for a
target run (R109), and discarding it (R112). -/

namespace Sys2Proof.Machine

/-- PRP begins the CHANGEOVER stage (R99). -/
def beginChangeover (c : CellIx) (st : Step) (s : State) : State :=
  let s := s.modCell c fun k => k.modPrep fun p =>
    { p with stage := .changeover, orderedKit := some st.kit, orderedTemp := some st.setpoint }
  let s := sendOrder c .handler (.setup st.kit st.setpoint) s
  let s := s.modCell c fun k => k.armStage s.timer .changeover (seconds st.changeoverLimit)
  enterCell c .changeover none s

/-- PRP begins the LOADING stage (R101). -/
def beginLoading (c : CellIx) (st : Step) (s : State) : State :=
  let s := s.modCell c fun k =>
    { k.modPrep (fun p => { p with stage := .loading }) with
      lastLoad := some { id := st.programId, revision := st.revision, checksum := st.checksum } }
  let s := sendOrder c .tester (.load st.programId st.revision) s
  let s := s.modCell c fun k => k.armStage s.timer .load (seconds s.profile.load)
  enterCell c .loading none s

/-- PRP begins the GOLDEN stage (R103). -/
def beginGolden (c : CellIx) (st : Step) (s : State) : State :=
  let s := s.modCell c fun k => k.modPrep fun p =>
    { p with stage := .golden, goldenSites := some st.siteCount, goldenMin := some st.minSites }
  let s := sendBoth c (.golden st.siteCount) s
  let s := s.modCell c fun k => k.armStage s.timer .golden (seconds s.profile.golden)
  enterCell c .golden none s

/-- The end of a preparation for a target run (R109): the context is discarded, a set-aside deadline armed again, and
the target acted on as it stands. A STOPPED target that is not resumable leaves its cell STOPPED; the test of R83 at
that entry finds what this test has just found. -/
def endForTarget (c : CellIx) (r : RunIx) (s : State) : State :=
  let s := s.modCell c fun k => k.dropPrep s.timer
  match (s.run r).state with
  | .assigned => startRun c r s
  | .testing | .closing => resumeRun c r s
  | .stopped => if runBlocked s r then enterCell c .stopped none s else resumeRun c r s
  | .suspended =>
      if runBlocked s r then
        enterCell c .stopped none (s.modCell c fun k => { k with current := none, stack := r :: k.stack })
      else resumeRun c r s
  | .ending => enterCell c .running none s
  | .free => s

/-- PRP chooses the next stage for a target run, or ends the preparation (R98; R113 passes over choices 1 and 2). -/
def chooseStage (c : CellIx) (r : RunIx) (s : State) : State :=
  let k := s.cell c
  let st := stepOfRun s r
  match k.prep with
  | none => s
  | some p =>
    if p.purpose ≠ .periodic ∧ (kitDiffers k st || tempDiffers k st) then beginChangeover c st s
    else if p.purpose ≠ .periodic ∧ programDiffers k st then beginLoading c st s
    else if p.goldenPlanned ∧ ¬ p.goldenTaken then beginGolden c st s
    else endForTarget c r s

/-- A new context for a target run (R95, R97). -/
def newPrep (purpose : Purpose) (origin : Origin) (r : RunIx) (planned : Bool) : Prep where
  purpose := purpose
  origin := origin
  target := some r
  stage := .golden
  goldenPlanned := planned
  goldenTaken := false
  orderedKit := none
  orderedTemp := none
  goldenSites := none
  goldenMin := none
  setAside := none

/-- The purpose that goes with an origin (R97). -/
def Origin.purpose : Origin → Purpose
  | .assignment => .new
  | .pop | .stopped | .fromDown | .fromLostOrOffline | .clear => .return
  | .periodic => .periodic

/-- A preparation begins: a block hands PRP a cell and a run (R97). -/
def prepBegin (c : CellIx) (r : RunIx) (origin : Origin) (s : State) : State :=
  let planned := goldenPlanned s.profile (s.cell c) (stepOfRun s r) origin
  let s := s.modCell c fun k => { k with prep := some (newPrep origin.purpose origin r planned) }
  chooseStage c r s

/-- A stage of changeover or load is counted as taken: a golden check is planned, and due again (R98). -/
def Prep.stageTaken (p : Prep) : Prep := { p with goldenPlanned := true, goldenTaken := false }

/-- A preparation is discarded without ending (R112, first part of R80). `failed` is the entry of a golden FAIL, at
which the check in flight has already been recorded. -/
def discardPrep (c : CellIx) (failed : Bool) (s : State) : State :=
  match (s.cell c).prep with
  | none => s
  | some p =>
    let s := s.modCell c fun k => k.cancelStage
    let s :=
      if p.stage = .golden ∧ ¬ failed then
        postNotice (.goldenDone c 0 (s.cell c).enabled .aborted)
          (s.modCell c fun k => { k with golden := ⟨0, .aborted, s.floorClock⟩ })
      else s
    s.modCell c fun k => k.dropPrep s.timer

end Sys2Proof.Machine
end

