-- ==== Sys2Proof/Machine/Queue.lean ====
section
/-! DEFINITION. DSP's shared operations: the dispatch queue and its sequence counter (R114, R115), assignment (R121),
the matches of a lot (R120) and of a cell (R119), preemption (R124 to R126) and the queue test (R6, R116). -/

namespace Sys2Proof.Machine

/-! ## The queue (R114, R115) -/

/-- A slot placed in a queue by the keys of R114. -/
def placeIn (s : State) (l : LotSlot) : List LotSlot → List LotSlot
  | [] => [l]
  | a :: q => if queueBefore s l a then l :: a :: q else a :: placeIn s l q

/-- A lot's entry removed; those behind it close up (R116). -/
def queueRemove (l : LotSlot) (s : State) : State := { s with queue := s.queue.filter (· ≠ l) }

/-- A lot's entry made (R116). -/
def queueInsert (l : LotSlot) (s : State) : State := { s with queue := placeIn s l s.queue }

/-- A lot's entry moved to the place of its present class (R116). -/
def queueMove (l : LotSlot) (s : State) : State := queueInsert l (queueRemove l s)

/-- The lots of a list given the sequences from `n` on (R115). -/
def renumberFrom : Nat → List LotSlot → State → State
  | _, [], s => s
  | n, l :: q, s => renumberFrom (n + 1) q (s.modLot l fun x => { x with queueSeq := n })

/-- The queue renumbered and the counter set to the number of its entries (R115). -/
def renumberQueue (s : State) : State := { renumberFrom 0 s.queue s with seqCounter := s.queue.length }

/-- A lot is given the next queue sequence (R115). -/
def takeSequence (l : LotSlot) (s : State) : State :=
  let s := if s.seqCounter < Config.maxSequence then s else renumberQueue s
  { s.modLot l fun x => { x with queueSeq := s.seqCounter } with seqCounter := s.seqCounter + 1 }

/-! ## Assignment (R121, R134) -/

/-- A new run of a lot bound to a cell, as its current run or, for a preemption, as its reserved run (steps 1 to 5 of
R121). No step of this part can find the tables without a free record or position (R3, R121); there it does nothing. -/
def bindRun (l : LotSlot) (c : CellIx) (r : RunIx) (p : RunPlace) (reserve : Bool) (s : State) : State :=
  let cost := setupCost (s.cell c) (stepOf s (s.lot l))
  let s := s.setRun r { Run.free with lot := l, pos := p, cell := c, state := .assigned }
  let s := s.modLot l fun x => { x with toAssign := x.toAssign - 1, runs := vset x.runs p (.run r) }
  let s := s.modCell c fun k => if reserve then { k with reserved := some r } else { k with current := some r }
  let s := postNotice (.dispatched (s.lot l).tag (s.lot l).step p c cost) s
  if (s.lot l).toAssign = 0 then queueRemove l s else s

/-- One run of a lot assigned to a cell, which is handed to PRP (R121). -/
def assignRun (l : LotSlot) (c : CellIx) (s : State) : State :=
  match freeRunIx s, absentPlace (s.lot l) with
  | some r, some p => prepBegin c r .assignment (bindRun l c r p false s)
  | _, _ => s

/-- A preemption candidate reserved for a hot run (R126). -/
def reserveRun (l : LotSlot) (c : CellIx) (s : State) : State :=
  match freeRunIx s, absentPlace (s.lot l) with
  | some r, some p =>
      enterCell c .pausing none (sendOrder c .handler .pause (bindRun l c r p true s))
  | _, _ => s

/-! ## The match of a lot (R120) -/

/-- The setup cost of a lot's current step on a cell (R96). -/
def costOn (s : State) (l : LotSlot) (c : CellIx) : Nat := setupCost (s.cell c) (stepOf s (s.lot l))

/-- The PRODUCTIVE accumulator read with its open period (R91, R120). -/
def productiveNow (s : State) (c : CellIx) : Nat := ((s.cell c).accNow s.timer).productive

/-- The eligible cell that a lot takes first: least cost, then least PRODUCTIVE time, then lowest index (R120). -/
def bestCell (s : State) (l : LotSlot) : Option CellIx :=
  firstLeast
    (fun a b => costOn s l a < costOn s l b
      || (costOn s l a == costOn s l b && productiveNow s a < productiveNow s b))
    ((List.finRange 64).filter fun c => eligible (s.cell c) && compatible (s.cell c) (stepOf s (s.lot l)))

/-- At most `n` rounds of the match of R120. -/
def matchRounds : Nat → LotSlot → State → State
  | 0, _, s => s
  | n + 1, l, s =>
    if (s.lot l).toAssign = 0 then s
    else match bestCell s l with
      | none => s
      | some c => matchRounds n l (assignRun l c s)

/-- A lot given as many eligible cells as it can use (R120): each round lowers to-assign by one. -/
def matchLot (l : LotSlot) (s : State) : State := matchRounds (s.lot l).toAssign l s

/-! ## Preemption (R124, R125) -/

/-- The class of the lot of a cell's current run. -/
def currentClass (s : State) (c : CellIx) : Nat :=
  match (s.cell c).current with
  | some r => (lotOfRun s r).cls
  | none => 0

/-- The candidate that a hot lot takes first: least cost, then largest class, then lowest index (R125). -/
def bestCandidate (s : State) (l : LotSlot) : Option CellIx :=
  firstLeast
    (fun a b => costOn s l a < costOn s l b
      || (costOn s l a == costOn s l b && currentClass s b < currentClass s a))
    ((List.finRange 64).filter fun c => preemptable s (stepOf s (s.lot l)) c)

/-- At most `n` rounds of the search of R124. -/
def searchRounds : Nat → LotSlot → State → State
  | 0, _, s => s
  | n + 1, l, s =>
    if (s.lot l).toAssign = 0 then s
    else match bestCandidate s l with
      | none => s
      | some c => searchRounds n l (reserveRun l c s)

/-- The preemption search of a lot that has just entered the queue or been raised to class 0 (R124). -/
def preemptSearch (l : LotSlot) (s : State) : State :=
  if (s.lot l).cls = 0 ∧ (s.lot l).preempt then searchRounds (s.lot l).toAssign l s else s

/-! ## The match of a cell (R119) -/

/-- The lot that an eligible cell takes (R119). -/
def chooseLot (s : State) (c : CellIx) : Option LotSlot :=
  let fit := s.queue.filter fun l => compatible (s.cell c) (stepOf s (s.lot l))
  match fit.find? fun l => (s.lot l).cls == 0 with
  | some l => some l
  | none => firstLeast (fun a b => costOn s a c < costOn s b c) (fit.take s.profile.lookahead)

/-- A cell that has become eligible is matched (R119); one that is not eligible is left alone (R118). -/
def matchCell (c : CellIx) (s : State) : State :=
  if eligible (s.cell c) then
    match chooseLot s c with
    | some l => assignRun l c s
    | none => s
  else s

/-! ## Entry to the queue (R6, R116, R117) -/

/-- The class of a lot lowered by one and class-since restarted (R117). -/
def ageLot (l : LotSlot) (s : State) : State :=
  s.modLot l fun x => { x with cls := x.cls - 1, classSince := s.timer }

/-- A lot whose aging is due at its entry moves up one class within that event (R117), before its match
(DESIGN CHOICE, notes/assumptions/7.md). -/
def ageAtEntry (l : LotSlot) (s : State) : State := if agingDue s l then queueMove l (ageLot l s) else s

/-- A lot enters the queue, is matched, and may preempt (R116, R117, R124). -/
def enterQueue (l : LotSlot) (s : State) : State := preemptSearch l (matchLot l (ageAtEntry l (queueInsert l s)))

/-- LOT's queue test (R6): the lot enters, leaves or keeps its place. -/
def queueTest (l : LotSlot) (s : State) : State :=
  if s.queue.contains l then (if belongsInQueue (s.lot l) then s else queueRemove l s)
  else if belongsInQueue (s.lot l) then enterQueue l s
  else s

end Sys2Proof.Machine
end

