-- ==== Sys2Proof/Machine/Cells.lean ====
section
/-! DEFINITION. CEL's shared operations: leaving a cell idle or popping its stack (R84, R132, R133), withdrawal (R123),
the interruption and the entries to DOWN and QUARANTINED (R79, R80, R85), recovery (R81 to R83), and the HELD test of
LOT (R14) that a withdrawal makes. -/

namespace Sys2Proof.Machine

/-! ## Idle, pop, next stage -/

/-- A cell enters IDLE: CELL_CHANGED when its marker is set, then the match (R93, R119). -/
def goIdle (c : CellIx) (s : State) : State :=
  let s := enterCell c .idle none s
  let s :=
    if (s.cell c).changed then
      postNotice (.cellChanged c .idle none) (s.modCell c fun k => { k with changed := false })
    else s
  matchCell c s

/-- A cell with no current run pops the top of its stack (R132), is left STOPPED by a hold on it (R133), or goes IDLE
(R84). -/
def popOrIdle (c : CellIx) (s : State) : State :=
  match (s.cell c).stack with
  | [] => goIdle c s
  | r :: rest =>
    if runBlocked s r then enterCell c .stopped none s
    else prepBegin c r .pop (s.modCell c fun k => { k with stack := rest, current := some r })

/-- An accepted completion: the next stage is chosen, or the preparation of a target that has become none ends (R98,
R110). -/
def nextStage (c : CellIx) (s : State) : State :=
  match (s.cell c).prep with
  | none => s
  | some p =>
    match p.target with
    | some r => chooseStage c r s
    | none => popOrIdle c (s.modCell c fun k => k.dropPrep s.timer)

/-! ## The HELD test and withdrawal (R14, R123) -/

/-- LOT's HELD test (R14). -/
def heldTest (l : LotSlot) (s : State) : State :=
  let x := s.lot l
  if (x.state = .waiting ∨ x.state = .running) ∧ x.lotBlocked ∧ ¬ lotWorking s x then
    s.modLot l fun y => { y with state := .held }
  else s

/-- A run position returned to absent and to-assign raised (R3). -/
def Lot.returned (x : Lot) (p : RunPlace) : Lot :=
  { x with toAssign := x.toAssign + 1, runs := vset x.runs p .absent }

/-- An ASSIGNED run is withdrawn (R123). -/
def withdraw (r : RunIx) (s : State) : State :=
  let l := (s.run r).lot
  let p := (s.run r).pos
  let s := (freeRun r s).modLot l fun x => x.returned p
  queueTest l (heldTest l s)

/-! ## A run leaves its cell (R84, R130, R149) -/

/-- A run record is freed and its cell proceeds by its state (steps 3 and 4 of R149). -/
def vacate (r : RunIx) (s : State) : State :=
  let c := (s.run r).cell
  let k := s.cell c
  let s := freeRun r s
  if k.current = some r then
    match k.state with
    | .running | .stopped => popOrIdle c s
    | .pausing =>
      match (s.cell c).reserved with
      | some h => prepBegin c h .assignment (s.modCell c fun x => { x with current := some h, reserved := none })
      | none => popOrIdle c s
    | .idle | .changeover | .loading | .golden | .down | .lost | .quarantined | .offline => s
  else if k.stack.head? = some r ∧ k.state = .stopped ∧ k.current = none then popOrIdle c s
  else s

/-! ## Interruption (R80) -/

/-- An ASSIGNED current run withdrawn. -/
def withdrawCurrent (c : CellIx) (s : State) : State :=
  match (s.cell c).current with
  | some r => if (s.run r).state = .assigned then withdraw r s else s
  | none => s

/-- A reserved run withdrawn. -/
def withdrawReserved (c : CellIx) (s : State) : State :=
  match (s.cell c).reserved with
  | some r => withdraw r s
  | none => s

/-- The interruption of R80: the preparation discarded (R112), golden-valid cleared, the current ASSIGNED run and then
the reserved run withdrawn. `failed` is that of `discardPrep`. -/
def interrupt (c : CellIx) (failed : Bool) (s : State) : State :=
  let s := discardPrep c failed s
  let s := s.modCell c fun k => { k with goldenValid := false }
  withdrawReserved c (withdrawCurrent c s)

/-- A state other than IDLE entered with the changed marker set. -/
def enterMarked (c : CellIx) (st : CellState) (cause : Option Cause) (s : State) : State :=
  (enterCell c st cause s).modCell c fun k => { k with changed := true }

/-- Entry to QUARANTINED (R85). -/
def enterQuarantined (c : CellIx) (cause : Cause) (failed : Bool) (s : State) : State :=
  let s := interrupt c failed (enterMarked c .quarantined (some cause) s)
  postNotice (.cellChanged c .quarantined (some cause)) s

/-- The causes that set both reported states to none (R76). -/
def Cause.silences : Cause → Bool
  | .setup | .load | .timeout => true
  | .jam | .alarm | .escalation | .foreign | .sites => false

/-- The reported states set to none (R76). -/
def Cell.silenced (k : Cell) : Cell := { k with repTester := none, repHandler := none }

/-- A fault: the down counter rises, and the cell enters DOWN, or QUARANTINED on escalation (R79). -/
def enterDown (c : CellIx) (cause : Cause) (s : State) : State :=
  let n := satAdd 15 (s.cell c).downCount 1
  let s := s.modCell c fun k => { k with downCount := n }
  if 0 < s.profile.escalation ∧ n = s.profile.escalation then enterQuarantined c .escalation false s
  else
    let s := interrupt c false (enterMarked c .down (some cause) s)
    let s := if cause.silences then s.modCell c Cell.silenced else s
    postNotice (.cellChanged c .down (some cause)) s

/-! ## Recovery (R81 to R83) -/

/-- A cell enters STOPPED; a current run that is resumable is prepared at once (R83). -/
def enterStopped (c : CellIx) (s : State) : State :=
  let s := enterCell c .stopped none s
  match (s.cell c).current with
  | some r => if resumable s r then prepBegin c r .stopped s else s
  | none => s

/-- The next step of a recovering cell, by its runs (the table of R81, R82). -/
def recover (c : CellIx) (origin : Origin) (s : State) : State :=
  let s := s.modCell c fun k => { k with cause := none }
  match (s.cell c).current with
  | none => popOrIdle c s
  | some r =>
    match (s.run r).state with
    | .stopped => enterStopped c s
    | .ending => enterCell c .running none s
    | .testing | .closing | .suspended => prepBegin c r origin s
    | .assigned | .free => s

/-- The origin of a recovery from a state (R82). -/
def CellState.recoversFrom : CellState → Option Origin
  | .down => some .fromDown
  | .lost | .offline => some .fromLostOrOffline
  | .idle | .changeover | .loading | .golden | .running | .pausing | .stopped | .quarantined => none

/-- Both reported states are READY (R81, R87). -/
def Cell.bothReady (k : Cell) : Bool := k.repTester == some .ready && k.repHandler == some .ready

end Sys2Proof.Machine
end

