-- ==== Sys2Proof/Machine/Lots.lean ====
section
/-! DEFINITION. LOT's shared operations: raising a hold and its effect (R8 to R12, R138), releasing one and what that
frees (R15 to R17), and the close of a run, the close checks and the advance of a lot (R18 to R21, R149, R152). Also
CEL's entry to LOST, which asks LOT for a hold (R78). -/

namespace Sys2Proof.Machine

/-! ## Stopping a run (R9, R129, R138) -/

/-- A STOP hold reaches a TESTING or CLOSING run (R138): the order, the run's state, the cell's state (R9), and the
withdrawal of a run reserved on a PAUSING cell (R129). -/
def stopRun (r : RunIx) (s : State) : State :=
  let run := s.run r
  let c := run.cell
  let s := sendOrder c .handler .stop s
  let s := s.modRun r fun x => { x with state := .stopped, stoppedFrom := some run.state.parkedFrom }
  let s := if run.state = .closing then cancelRunDeadline c .closing s else s
  match (s.cell c).state with
  | .running => enterCell c .stopped none s
  | .pausing => withdrawReserved c (enterCell c .stopped none s)
  | .offline | .idle | .changeover | .loading | .golden | .stopped | .down | .lost | .quarantined => s

/-- TESTING or CLOSING: the states that a STOP hold stops. -/
def RunState.stoppable : RunState → Bool
  | .testing | .closing => true
  | .free | .assigned | .stopped | .suspended | .ending => false

/-! ## The effect of a policy (R9 to R12) -/

/-- A lot-scope STOP meets one open run (R9). -/
def stopOpen (r : RunIx) (s : State) : State :=
  if (s.run r).state.stoppable then stopRun r s
  else if (s.run r).state = .assigned then withdraw r s
  else s

/-- A lot-scope FINISH meets one open run (R10). -/
def finishOpen (r : RunIx) (s : State) : State := if (s.run r).state = .assigned then withdraw r s else s

/-- A run-scope STOP meets the run at its position (R12). -/
def stopStarted (r : RunIx) (s : State) : State := if (s.run r).state.stoppable then stopRun r s else s

/-- The open run at a position of a lot. -/
def Lot.openAt (x : Lot) (p : RunPlace) : Option RunIx :=
  match x.runs[p] with
  | .run r => some r
  | .absent | .closed => none

/-- The runs of a lot taken in ascending position, each with all its effects before the next (R3); a run named `skip`
is passed over (R151). -/
def eachOpen (l : LotSlot) (skip : Option RunIx) (f : RunIx → State → State) (s : State) : State :=
  places.foldl
    (fun s p => match (s.lot l).openAt p with
      | some r => if skip = some r then s else f r s
      | none => s) s

/-- The effect of a policy at a lot or at one of its positions (R9 to R12). -/
def policyEffect (l : LotSlot) (pos : Option RunPlace) (policy : Policy) (skip : Option RunIx) (s : State) : State :=
  match policy, pos with
  | .mark, _ => s
  | .stop, none => eachOpen l skip stopOpen s
  | .finish, none => eachOpen l skip finishOpen s
  | .finish, some _ => s
  | .stop, some p =>
    match (s.lot l).openAt p with
    | some r => if skip = some r then s else stopStarted r s
    | none => s

/-! ## Raising a hold (R7, R8) -/

/-- The hold record of a kind and position. -/
def Hold.is (h : Hold) (k : HoldKind) (pos : Option RunPlace) : Bool := h.kind == k && h.pos == pos

/-- The list holds a record of that kind and position. -/
def Lot.holdsKind (x : Lot) (k : HoldKind) (pos : Option RunPlace) : Bool := x.holds.any fun h => h.is k pos

/-- Whether a lot in this state takes a raise of this kind (R8). -/
def LotState.takesHold : LotState → HoldKind → Bool
  | .waiting, _ | .running, _ | .held, _ => true
  | .finished, .engineer => true
  | .finished, _ => false
  | .vacant, _ | .released, _ | .scrapped, _ => false

/-- A record refreshed: floor time, value, and for ENGINEER the policy (R8). -/
def Hold.refreshed (h : Hold) (t : FloorTime) (value : Option Nat) (given : Policy) : Hold :=
  { h with floorTime := t, value := value, policy := if h.kind = .engineer then given else h.policy }

/-- A raise that refreshes a record already there (R8). -/
def refreshHold (l : LotSlot) (k : HoldKind) (pos : Option RunPlace) (value : Option Nat) (given : Policy)
    (s : State) : State :=
  s.modLot l fun x =>
    { x with holds := x.holds.map fun h => if h.is k pos then h.refreshed s.floorClock value given else h }

/-- A raise that adds a record, with its notice, its policy effect and the two tests (R8); an ENGINEER hold makes a
FINISHED lot HELD (R24). -/
def addHold (l : LotSlot) (k : HoldKind) (pos : Option RunPlace) (value : Option Nat) (given : Policy)
    (skip : Option RunIx) (s : State) : State :=
  let x := s.lot l
  let policy := policyFor (limitsOf s x) given k
  let h : Hold :=
    { kind := k, pos := pos, policy := policy, step := x.step, floorTime := s.floorClock, value := value }
  let s := s.setLot l { x with holds := x.holds ++ [h] }
  let s := postNotice (.holdRaised x.tag k pos policy value) s
  let s := policyEffect l pos policy skip s
  let s := heldTest l (queueTest l s)
  if x.state = .finished then s.modLot l fun y => { y with state := .held } else s

/-- A raise request (R8). -/
def raiseHold (l : LotSlot) (k : HoldKind) (pos : Option RunPlace) (value : Option Nat) (given : Policy)
    (skip : Option RunIx) (s : State) : State :=
  if (s.lot l).state.takesHold k then
    if (s.lot l).holdsKind k pos then refreshHold l k pos value given s else addHold l k pos value given skip s
  else s

/-- A raise of a run-scope kind at the position of a run. -/
def raiseOnRun (r : RunIx) (k : HoldKind) (value : Option Nat) (s : State) : State :=
  raiseHold (s.run r).lot k (some (s.run r).pos) value .stop none s

/-- A raise of a lot-scope kind other than ENGINEER. -/
def raiseOnLot (l : LotSlot) (k : HoldKind) (value : Option Nat) (s : State) : State :=
  raiseHold l k none value .stop none s

/-! ## The advance of a lot (R19 to R21) -/

/-- A lot at the start of its next step (steps 2 to 7 of R20). -/
def Lot.nextStep (x : Lot) (maxRuns : Nat) : Lot :=
  { x with
    q := x.figures.goodFinal
    step := x.step + 1
    runsPerStep := min x.split maxRuns
    toAssign := min x.split maxRuns
    runs := Vector.replicate 4 .absent
    closedRuns := 0
    figures := .zero
    yieldWaived := false
    binWaived := false
    stepStarted := false
    stepClosed := false
    state := .waiting }

/-- The grade quantities that a lot leaves its route with (R21). -/
def StepFigures.finalGrades (f : StepFigures) : Vector Nat 4 :=
  if f.goodFinal = 0 then Vector.replicate 4 0 else f.gradeSums

/-- A lot past the end of its route (steps 2 to 4 of R21, and the state that follows). -/
def Lot.routeEnd (x : Lot) : Lot :=
  { x with
    gradeQty := x.figures.finalGrades
    marks := Vector.replicate 4 .free
    routeComplete := true
    state := if x.holds.isEmpty then .finished else .held }

/-- The lot has a further step to go to (R20). -/
def hasNextStep (s : State) (x : Lot) : Bool :=
  0 < x.figures.goodFinal && x.step + 1 < (s.route x.route).steps.length

/-- The advance: STEP_DONE, then the next step (R20) or the end of the route (R21). -/
def advance (l : LotSlot) (s : State) : State :=
  let x := s.lot l
  let s := postNotice (.stepDone x.tag x.step x.figures.tested x.figures.goodFinal) s
  if hasNextStep s x then
    let st := (s.route x.route).steps.getD (x.step + 1) Step.none
    queueTest l (takeSequence l (s.setLot l (x.nextStep st.maxRuns)))
  else
    let s := s.setLot l x.routeEnd
    if x.holds.isEmpty then postNotice (.lotFinished x.tag x.figures.finalGrades) s else s

/-- WAITING, RUNNING or HELD: the lots that have a step in hand (R3). -/
def LotState.inWork : LotState → Bool
  | .waiting | .running | .held => true
  | .vacant | .finished | .released | .scrapped => false

/-- The outcome of a step whose marker is set (R19), for a lot that has a step in hand. -/
def stepOutcome (l : LotSlot) (s : State) : State :=
  if !(s.lot l).state.inWork then s
  else if (s.lot l).anyBlocked then s.modLot l fun x => { x with state := .held }
  else advance l s

/-- The close checks of a step (R152), the step-closed marker, and the outcome (R19). -/
def closeChecks (l : LotSlot) (s : State) : State :=
  let x := s.lot l
  let lim := limitsOf s x
  let yf := finalYield x.figures
  let s := if 0 < lim.yfinal ∧ 0 < x.figures.tested ∧ yf < lim.yfinal then raiseOnLot l .final (some yf) s else s
  let s := if lim.inputTol < distance x.figures.fedSum x.q then raiseOnLot l .recon none s else s
  stepOutcome l (s.modLot l fun y => { y with stepClosed := true })

/-! ## The close of a run (R18, R149) -/

/-- The trays of class GOOD with a grade. -/
def Step.isGrade (st : Step) (g : Fin 4) (t : Fin 8) : Bool := st.trays[t] == .good g

/-- The step close figures with a closing run's figures added (R18). -/
def StepFigures.withRun (f : StepFigures) (st : Step) (run : Run) : StepFigures :=
  { f with
    goodFinal := sat24 f.goodFinal (ledgerSum run.ledger st.isGood)
    fedSum := sat24 f.fedSum (run.handlerFed.getD 0)
    gradeSums := Vector.ofFn fun g => sat24 f.gradeSums[g] (ledgerSum run.ledger (st.isGrade g)) }

/-- The lot with a closing run's figures added and its position closed (R3, R18). -/
def Lot.withClosed (x : Lot) (st : Step) (run : Run) : Lot :=
  { x with
    figures := x.figures.withRun st run
    runs := vset x.runs run.pos .closed
    closedRuns := x.closedRuns + 1 }

/-- RUN reports a closing run to its lot (step 2 of R149). -/
def reportClose (r : RunIx) (s : State) : State :=
  let run := s.run r
  let l := run.lot
  let st := stepOfRun s r
  let s := s.modLot l fun x => x.withClosed st run
  let s := if (s.lot l).closedRuns = (s.lot l).runsPerStep then closeChecks l s else s
  heldTest l s

/-- The deadlines that RUN holds on a cell for a run cancelled, if the run is the cell's current run (step 1 of R149,
R153). -/
def cancelDeadlines (r : RunIx) (s : State) : State :=
  let c := (s.run r).cell
  if (s.cell c).current = some r then cancelRunDeadline c .counts (cancelRunDeadline c .closing s) else s

/-- A run closes (R149). -/
def closeRun (r : RunIx) (s : State) : State := vacate r (reportClose r (cancelDeadlines r s))

/-! ## Releasing a hold (R15 to R17) -/

/-- The side effect of a release on the open run at the position (R15). -/
def Run.released (x : Run) : HoldKind → Run
  | .window => { x with ring := [] }
  | .site | .consec => { x with sites := Vector.replicate 16 .zero }
  | .yield | .bin | .final | .recon | .engineer | .golden | .data | .lost => x

/-- The side effect of a release on the lot (R15). -/
def Lot.released (x : Lot) : HoldKind → Lot
  | .yield => { x with yieldWaived := true }
  | .bin => { x with binWaived := true }
  | .window | .site | .consec | .final | .recon | .engineer | .golden | .data | .lost => x

/-- A hold record removed, with HOLD_RELEASED and its side effect (R15). -/
def removeHold (l : LotSlot) (k : HoldKind) (pos : Option RunPlace) (s : State) : State :=
  let s := s.modLot l fun x => { x with holds := x.holds.filter fun h => !(h.is k pos) }
  let s := postNotice (.holdReleased (s.lot l).tag k pos) s
  let s := s.modLot l fun x => x.released k
  match pos with
  | none => s
  | some p =>
    match (s.lot l).openAt p with
    | some r => s.modRun r fun x => x.released k
    | none => s

/-- A run of the lot that a change of holds may free: a resumable run on a STOPPED cell is prepared (R13), and a cell
left STOPPED by a pop under a hold pops again (R133). -/
def freeOpen (r : RunIx) (s : State) : State :=
  let c := (s.run r).cell
  let k := s.cell c
  if k.state ≠ .stopped then s
  else if k.current = some r ∧ resumable s r then prepBegin c r .stopped s
  else if k.current = none ∧ k.stack.head? = some r ∧ ¬ runBlocked s r then popOrIdle c s
  else s

/-- A lot HELD within a step returns to RUNNING or WAITING (case 3 of R17). -/
def leaveHeld (l : LotSlot) (s : State) : State :=
  let x := s.lot l
  if x.state = .held ∧ ¬ x.stepClosed ∧ ¬ x.routeComplete ∧ ¬ x.lotBlocked then
    s.modLot l fun y => { y with state := if y.stepStarted then .running else .waiting }
  else s

/-- A lot HELD at step close advances (case 4 of R17). A lot past its route keeps its step-closed marker (R21) and does
not advance again (DEDUCED from 8.7, notes/assumptions/8.md). -/
def leaveStepClose (l : LotSlot) (s : State) : State :=
  let x := s.lot l
  if x.state = .held ∧ x.stepClosed ∧ ¬ x.routeComplete ∧ ¬ x.anyBlocked then advance l s else s

/-- A lot HELD at the end of its route becomes FINISHED (case 5 of R17). -/
def leaveRouteEnd (l : LotSlot) (s : State) : State :=
  let x := s.lot l
  if x.state = .held ∧ x.routeComplete ∧ x.holds.isEmpty then
    postNotice (.lotFinished x.tag x.gradeQty) (s.modLot l fun y => { y with state := .finished })
  else s

/-- What a release or an ENGINEER policy change frees (R17). -/
def freeing (l : LotSlot) (s : State) : State :=
  leaveRouteEnd l (leaveStepClose l (queueTest l (leaveHeld l (eachOpen l none freeOpen s))))

/-- One kind released at a position, if present. -/
def removeIfPresent (l : LotSlot) (k : HoldKind) (p : RunPlace) (s : State) : State :=
  if (s.lot l).holdsKind k (some p) then removeHold l k (some p) s else s

/-- The release that follows a golden PASS, at the position of a run (R16). -/
def goldenRelease (r : RunIx) (s : State) : State :=
  let l := (s.run r).lot
  let p := (s.run r).pos
  freeing l (removeIfPresent l .consec p (removeIfPresent l .site p s))

/-! ## Entry to LOST (R78) -/

/-- A hold of a kind asked for at the position of a cell's current run, when that run is started. -/
def raiseOnCurrent (c : CellIx) (k : HoldKind) (value : Option Nat) (s : State) : State :=
  match (s.cell c).current with
  | some r => if (s.run r).state.started then raiseOnRun r k value s else s
  | none => s

/-- Entry to LOST (R78). -/
def enterLost (c : CellIx) (s : State) : State :=
  let s := interrupt c false (enterMarked c .lost none s)
  let s := s.modCell c fun k => { k.silenced with expected := none }
  let s := postNotice (.cellChanged c .lost none) s
  raiseOnCurrent c .lost none s

end Sys2Proof.Machine
end

