-- ==== Sys2Proof/WellFormed.lean ====
section
/-! DEFINITION. Which commands a floor can bring: the frame of a report has a legal length and a well-formed body
(R166, R185), and a request's header names the length of its kind (Table 11-3). The meanings are total: a command that
is not well formed is met with what the manual gives for such a frame (discarded, or answered BAD_ARG). -/

namespace Sys2Proof

/-- Bytes of a whole report frame with a body of `n` bytes: 14 of Ethernet header, 16 of common header, the body, the
padding and 4 of check. -/
def Envelope.frameLength (e : Envelope) (n : Nat) : Nat := 34 + n + e.pad.length

/-- The envelope makes a frame of legal length (R166) about a body of `n` bytes. -/
def Envelope.wf (e : Envelope) (n : Nat) : Bool := frameLengthOk (e.frameLength n)

/-- The header names `n` bytes of body. -/
def ReqHead.wf (h : ReqHead) (n : Nat) : Bool := h.bodyLen.toNat == n

/-- The largest quantity a report may carry (R185 item 3). -/
def quantityOk (q : BitVec 24) : Bool := q.toNat ≤ 999999

/-- A command that a frame or an event of the part can bring. -/
def Instr.wf : Instr → Bool
  | .powerOnReset => true
  | .frameArrival _ _ => true
  | .state e _ => e.wf 1
  | .setupDone e _ _ => e.wf 3
  | .loadDone e _ _ _ => e.wf 7
  | .loadFail e _ _ => e.wf 3
  | .goldenDone e _ => e.wf 2
  | .touchdown e _ es => 1 ≤ es.length && es.length ≤ 16 && e.wf (3 + es.length)
  | .passEnd e _ fed _ => quantityOk fed && e.wf 6
  | .runCounts e fed trays => quantityOk fed && trays.toList.all quantityOk && e.wf 27
  | .setProfile h _ => h.wf 18
  | .operate h => h.wf 0
  | .setClock h _ => h.wf 6
  | .loadRoute h _ _ c steps => steps.length == c.toNat && h.wf (6 + 44 * c.toNat) && c.toNat ≤ 204
  | .loadLimits h _ _ => h.wf 52
  | .loadCell h _ _ _ _ => h.wf 6
  | .lotAdd h _ _ _ _ _ _ => h.wf 15
  | .lotPriority h _ _ => h.wf 9
  | .lotHold h _ _ => h.wf 9
  | .lotRelease h _ _ _ => h.wf 10
  | .lotScrap h _ => h.wf 8
  | .lotRetire h _ => h.wf 8
  | .lotQuery h _ => h.wf 8
  | .runAbort h _ _ => h.wf 9
  | .cellClear h _ => h.wf 1
  | .cellReset h _ => h.wf 1
  | .cellDrain h _ _ => h.wf 2
  | .cellCountersClear h _ => h.wf 1
  | .cellQuery h _ => h.wf 1
  | .shipOpen h _ _ _ _ => h.wf 16
  | .shipAdd h _ _ => h.wf 16
  | .shipRemove h _ _ => h.wf 16
  | .shipSeal h _ => h.wf 8
  | .shipRelease h _ => h.wf 8
  | .shipCancel h _ => h.wf 8
  | .shipRetire h _ => h.wf 8
  | .shipQuery h _ => h.wf 8
  | .queueQuery h => h.wf 0
  | .status h => h.wf 0
  | .floorReset h => h.wf 0
  | .unknownRequest h k => !(requestKinds.contains k.toNat) && h.bodyLen.toNat ≤ 8984
  | .heartbeatExpiry _ _ => true
  | .stageDeadlineExpiry _ => true
  | .closingDeadlineExpiry _ => true
  | .countsDeadlineExpiry _ => true
  | .aging _ => true
  | .transmitComplete _ => true

end Sys2Proof
end

