-- ==== Sys2Proof/Machine/Manage.lean ====
section
/-! DEFINITION. MGT: how a request is judged and answered (R173, R174, R186), and the requests of the profile, the phase,
the clock, the tables and the queries of the floor (R37, R42, R74, R175 to R178, R182), with the power-on reset (R181). -/

namespace Sys2Proof.Machine

/-! ## Judging and answering (R173, R174) -/

/-- What a request's own rule answers: the status, the response data, and the state after its effects. -/
structure Reply where
  status : Status
  data   : List Byte
  state  : State
  deriving DecidableEq, Repr

/-- A request carried out. -/
def okWith (data : List Byte) (s : State) : Reply := ⟨.ok, data, s⟩

/-- A request carried out, with no response data. -/
def ok (s : State) : Reply := okWith [] s

/-- A request refused, with response data. -/
def refuseWith (st : Status) (data : List Byte) (s : State) : Reply := ⟨st, data, s⟩

/-- A request refused: nothing changes. -/
def refuse (st : Status) (s : State) : Reply := refuseWith st [] s

/-- The kind that a response carries: the request's as received for DENIED and BAD_ARG, else the response kind of the
same number (R174, R186). -/
def responseKind (kind : BitVec 16) (st : Status) : BitVec 16 :=
  match st with
  | .denied | .badArg => kind
  | .ok | .range | .notFound | .noSlot | .duplicate | .inUse | .wrongState | .conflict | .locked | .memberHeld =>
      kind + 0x0100

/-- The response made after every effect of the request (R173, R186). -/
def respond (h : ReqHead) (kind : BitVec 16) (r : Reply) : State :=
  appendResponse
    { dst := h.src, src := r.state.profile.partStation, kind := responseKind kind r.status, tag := h.tag,
      status := r.status, data := r.data } r.state

/-- There is room for one more response (R173). -/
def hasRoom (s : State) : Bool := responsesWaiting s < Config.responseCapacity

/-- The requests taken in CONFIG (R174 order 3). -/
def Instr.takenInConfig : Instr → Bool
  | .setProfile _ _ | .operate _ | .setClock _ _ | .loadRoute _ _ _ _ _ | .loadLimits _ _ _ | .loadCell _ _ _ _ _
  | .status _ => true
  | _ => false

/-- SET_PROFILE, the request that OPERATE locks (R174 order 4). -/
def Instr.isSetProfile : Instr → Bool
  | .setProfile _ _ => true
  | _ => false

/-- The first four orders of R174 for a request whose length agrees or not, then its own rule. -/
def judge (i : Instr) (h : ReqHead) (lengthOk : Bool) (s : State) (own : State → Reply) : Reply :=
  if h.src ≠ s.profile.floorHost then refuse .denied s
  else if !lengthOk then refuse .badArg s
  else if s.phase = .config ∧ ¬ Instr.takenInConfig i then refuse .wrongState s
  else if s.phase = .operate ∧ Instr.isSetProfile i then refuse .locked s
  else own s

/-- A request of a known kind taken by MGT (R173, R174): discarded when 64 responses wait, else judged, carried out and
answered. -/
def serve (i : Instr) (h : ReqHead) (kind : BitVec 16) (own : State → Reply) (s : State) : State :=
  if hasRoom s then respond h kind (judge i h i.wf s own) else s

/-- A request that MGT answers BAD_ARG for its kind or its length, once its source is that of the floor host (R174
orders 1 and 2). -/
def serveBad (h : ReqHead) (kind : BitVec 16) (s : State) : State :=
  if hasRoom s then
    respond h kind (if h.src ≠ s.profile.floorHost then refuse .denied s else refuse .badArg s)
  else s

/-! ## Profile, phase and clock (R175 to R177) -/

/-- SET_PROFILE's own rule (R175). -/
def ownSetProfile (a : ProfileArgs) (s : State) : Reply :=
  if !profileInRange a then refuse .range s
  else if a.partStation = a.floorHost then refuse .conflict s
  else ok { s with profile := profileStored a }

/-- A SET_PROFILE frame's effect. -/
def takeSetProfile (h : ReqHead) (a : ProfileArgs) (s : State) : State :=
  serve (.setProfile h a) h 0x0301 (ownSetProfile a) s

/-- SET_PROFILE (R175). -/
def execSetProfile (h : ReqHead) (a : ProfileArgs) (s : State) : Out := .next (takeSetProfile h a s)

/-- A configured cell that lies at or above the cells in use (R72, R176). -/
def outOfUse (s : State) (c : CellIx) : Bool := (s.cell c).configured && s.profile.cellsInUse ≤ c.val

/-- OPERATE's effect: the phase, and the cells that lie out of use returned to power-on values (R176). -/
def enterOperate (s : State) : State :=
  { s with
    phase := .operate
    cells := Vector.ofFn fun c => if outOfUse s c then .powerOn else s.cell c
    stations := s.stations.filter fun e => !outOfUse s e.cell }

/-- OPERATE's own rule (R176). -/
def ownOperate (s : State) : Reply :=
  if s.phase = .operate then refuse .wrongState s
  else if (findStation s s.profile.partStation).isSome then refuse .conflict s
  else ok (enterOperate s)

/-- An OPERATE frame's effect. -/
def takeOperate (h : ReqHead) (s : State) : State := serve (.operate h) h 0x0302 ownOperate s

/-- OPERATE (R176). -/
def execOperate (h : ReqHead) (s : State) : Out := .next (takeOperate h s)

/-- SET_CLOCK's own rule (R177). -/
def ownSetClock (t : FloorTime) (s : State) : Reply :=
  okWith (beBytes 6 s.floorClock.toNat) { s with floorClock := t }

/-- A SET_CLOCK frame's effect. -/
def takeSetClock (h : ReqHead) (t : FloorTime) (s : State) : State := serve (.setClock h t) h 0x0303 (ownSetClock t) s

/-- SET_CLOCK (R177). -/
def execSetClock (h : ReqHead) (t : FloorTime) (s : State) : Out := .next (takeSetClock h t s)

/-! ## Routes and limit sets (R37, R42) -/

/-- A LOAD_ROUTE within the ranges of R37 order 2. -/
def routeInRange (route : Byte) (count : Byte) (steps : List StepArgs) : Bool :=
  route.toNat ≤ 47 && count.toNat ≤ 6 && steps.all stepInRange

/-- The route that a load leaves (R29, R37); its reference count stays as it is, which is 0. -/
def Route.loadedWith (r : Route) (product : BitVec 32) (steps : List StepArgs) : Route :=
  { r with product := if steps.isEmpty then 0 else product, steps := steps.map stepStored }

/-- LOAD_ROUTE's own rule (R37). -/
def ownLoadRoute (route : Byte) (product : BitVec 32) (count : Byte) (steps : List StepArgs) (s : State) : Reply :=
  if !routeInRange route count steps then refuse .range s
  else if steps.any (fun a => !(s.limit (stepLimitIx a)).loaded) then refuse .notFound s
  else if h : route.toNat < 48 then
    let i : RouteIx := ⟨route.toNat, h⟩
    if 0 < (s.route i).refs then refuseWith .inUse (beBytes 2 (s.route i).refs) s
    else okWith (byte1 (steps.countP stepClamped)) (s.modRoute i fun r => r.loadedWith product steps)
  else refuse .range s

/-- A LOAD_ROUTE frame's effect. -/
def takeLoadRoute (h : ReqHead) (route : Byte) (product : BitVec 32) (count : Byte) (steps : List StepArgs)
    (s : State) : State :=
  serve (.loadRoute h route product count steps) h 0x0304 (ownLoadRoute route product count steps) s

/-- LOAD_ROUTE (R37). -/
def execLoadRoute (h : ReqHead) (route : Byte) (product : BitVec 32) (count : Byte) (steps : List StepArgs)
    (s : State) : Out := .next (takeLoadRoute h route product count steps s)

/-- LOAD_LIMITS's own rule (R42). -/
def ownLoadLimits (set : Byte) (a : LimitArgs) (s : State) : Reply :=
  if h : set.toNat < 64 then
    okWith (byte1 (limitsClampCount a)) (s.setLimit ⟨set.toNat, h⟩ (limitsStored a))
  else refuse .range s

/-- A LOAD_LIMITS frame's effect. -/
def takeLoadLimits (h : ReqHead) (set : Byte) (a : LimitArgs) (s : State) : State :=
  serve (.loadLimits h set a) h 0x0305 (ownLoadLimits set a) s

/-- LOAD_LIMITS (R42). -/
def execLoadLimits (h : ReqHead) (set : Byte) (a : LimitArgs) (s : State) : Out := .next (takeLoadLimits h set a s)

/-! ## Cells loaded (R74) -/

/-- A station that the index holds for another cell (R74 order 2). -/
def takenElsewhere (s : State) (c : CellIx) (st : Station) : Bool :=
  s.stations.any fun e => e.station == st && e.cell != c

/-- A cell at work in OPERATE (R74 order 3). -/
def atWork (s : State) (c : CellIx) : Bool :=
  s.phase == .operate &&
    ((s.cell c).state != .offline || (s.cell c).current.isSome || (s.cell c).reserved.isSome
      || !(s.cell c).stack.isEmpty)

/-- The cell as LOAD_CELL leaves it (steps 3 to 5 of R74, and the last load order of R95). -/
def Cell.loadedWith (k : Cell) (tester handler : Station) (cls : Fin 8) : Cell :=
  { k with
    configured := true, tester := some tester, handler := some handler, cls := cls
    repTester := none, repHandler := none, heardTester := none, heardHandler := none, clearTime := none
    kit := none, temp := none, program := none, golden := { k.golden with outcome := .none, mask := 0 }
    goldenValid := false, enabled := 0, downCount := 0, lastLoad := none }

/-- A cell's former entries leave the station index and its two stations enter it (steps 1 and 2 of R74). -/
def enterStations (c : CellIx) (tester handler : Station) (s : State) : State :=
  let kept : List StationEntry := s.stations.filter fun e => e.cell != c
  { s with stations := kept ++ [⟨tester, c, .tester⟩, ⟨handler, c, .handler⟩] }

/-- LOAD_CELL's own rule (R74). -/
def ownLoadCell (cell : Byte) (tester handler : Station) (cls : Byte) (s : State) : Reply :=
  match cellInUse s cell with
  | none => refuse .range s
  | some c =>
    if !stationOk tester || !stationOk handler then refuse .range s
    else if hc : cls.toNat < 8 then
      if tester = handler ∨ takenElsewhere s c tester ∨ takenElsewhere s c handler then refuse .conflict s
      else if atWork s c then refuse .inUse s
      else
        ok ((enterStations c tester handler s).modCell c fun k => k.loadedWith tester handler ⟨cls.toNat, hc⟩)
    else refuse .range s

/-- A LOAD_CELL frame's effect. -/
def takeLoadCell (h : ReqHead) (cell : Byte) (tester handler : Station) (cls : Byte) (s : State) : State :=
  serve (.loadCell h cell tester handler cls) h 0x0306 (ownLoadCell cell tester handler cls) s

/-- LOAD_CELL (R74). -/
def execLoadCell (h : ReqHead) (cell : Byte) (tester handler : Station) (cls : Byte) (s : State) : Out :=
  .next (takeLoadCell h cell tester handler cls s)

/-! ## Queries of the floor (R178) -/

/-- A QUEUE_QUERY frame's effect. -/
def takeQueueQuery (h : ReqHead) (s : State) : State :=
  serve (.queueQuery h) h 0x0340 (fun s => okWith (queueData s) s) s

/-- QUEUE_QUERY (R178). -/
def execQueueQuery (h : ReqHead) (s : State) : Out := .next (takeQueueQuery h s)

/-- A STATUS frame's effect. -/
def takeStatus (h : ReqHead) (s : State) : State := serve (.status h) h 0x0341 (fun s => okWith (statusData s) s) s

/-- STATUS (R178). -/
def execStatus (h : ReqHead) (s : State) : Out := .next (takeStatus h s)

/-! ## Resets (R94, R181, R182) -/

/-- A cell after a floor reset (R94, R95). -/
def Cell.floorReset (k : Cell) (now : Nat) : Cell :=
  { k with
    state := .offline, cause := none, since := now, repTester := none, repHandler := none, clearTime := none
    downCount := 0, draining := false, current := none, reserved := none, stack := [], changed := false
    program := none, goldenValid := false, deadline := none, expected := none, acc := .zero
    prep := none, lastLoad := none }

/-- The floor's work emptied (R182). -/
def floorReset (s : State) : State :=
  { s with
    lots := Vector.replicate 256 .vacant
    runs := Vector.replicate 192 .free
    ships := Vector.replicate 64 .vacant
    routes := Vector.ofFn fun i => { s.route i with refs := 0 }
    cells := Vector.ofFn fun c => (s.cell c).floorReset s.timer
    queue := []
    seqCounter := 0
    orders := []
    outbound := s.outbound.filter Outbound.isResponse
    noticeCount := 0
    gapFlag := false }

/-- A FLOOR_RESET frame's effect. -/
def takeFloorReset (h : ReqHead) (s : State) : State :=
  serve (.floorReset h) h 0x0342 (fun s => ok (floorReset s)) s

/-- FLOOR_RESET (R182). -/
def execFloorReset (h : ReqHead) (s : State) : Out := .next (takeFloorReset h s)

/-- POWER_ON_RESET (R181): every item at its power-on value. The commands that wait are not the part's state and stay. -/
def execPowerOnReset (s : State) : Out := .next { State.reset with pending := s.pending }

/-! ## Unknown requests (R174) -/

/-- An unknown request's effect. -/
def takeUnknownRequest (h : ReqHead) (kind : BitVec 16) (s : State) : State := serveBad h kind s

/-- UNKNOWN_REQUEST (R174). -/
def execUnknownRequest (h : ReqHead) (kind : BitVec 16) (s : State) : Out := .next (takeUnknownRequest h kind s)

end Sys2Proof.Machine
end

