-- ==== Sys2Proof/Machine/CellRequests.lean ====
section
/-! DEFINITION. The cell requests of 4.3 to 4.5 (R87 to R90, R92). -/

namespace Sys2Proof.Machine

/-! ## CELL_CLEAR (R87) -/

/-- The data of a CELL_CLEAR refusal: the cell's state and its two reported states (R87), a reported state of none as an
absent optional field (DEDUCED, notes/assumptions/33.md). -/
def clearRefusal (k : Cell) : List Byte :=
  byte1 k.state.code ++ optBytes 1 (k.repTester.map StationReport.code)
    ++ optBytes 1 (k.repHandler.map StationReport.code)

/-- A cell cleared (R87). -/
def clearCell (c : CellIx) (s : State) : State :=
  recover c .clear (s.modCell c fun k => { k with downCount := 0, clearTime := some s.timer })

/-- CELL_CLEAR's own rule (R87). -/
def ownCellClear (cell : Byte) (s : State) : Reply :=
  match cellInUse s cell with
  | none => refuse .range s
  | some c =>
    if (s.cell c).state = .quarantined ∧ (s.cell c).bothReady then ok (clearCell c s)
    else refuseWith .wrongState (clearRefusal (s.cell c)) s

/-- A CELL_CLEAR frame's effect. -/
def takeCellClear (h : ReqHead) (cell : Byte) (s : State) : State :=
  serve (.cellClear h cell) h 0x0320 (ownCellClear cell) s

/-- CELL_CLEAR (R87). -/
def execCellClear (h : ReqHead) (cell : Byte) (s : State) : Out := .next (takeCellClear h cell s)

/-! ## CELL_RESET (R88) -/

/-- The fields that CELL_RESET sets (step 3 of R88, R95). -/
def Cell.resetFields (k : Cell) : Cell :=
  { k.silenced with expected := none, program := none, downCount := 0, lastLoad := none }

/-- A cell reset (R88). -/
def resetCell (c : CellIx) (s : State) : State :=
  let was := (s.cell c).state
  let s := interrupt c false s
  let s := if was = .offline then s else enterMarked c .offline none s
  let s := s.modCell c Cell.resetFields
  let s := if was = .offline then s else postNotice (.cellChanged c .offline none) s
  raiseOnCurrent c .lost none s

/-- CELL_RESET's own rule (R88). -/
def ownCellReset (cell : Byte) (s : State) : Reply :=
  match cellInUse s cell with
  | none => refuse .range s
  | some c => if (s.cell c).state = .quarantined then refuse .wrongState s else ok (resetCell c s)

/-- A CELL_RESET frame's effect. -/
def takeCellReset (h : ReqHead) (cell : Byte) (s : State) : State :=
  serve (.cellReset h cell) h 0x0321 (ownCellReset cell) s

/-- CELL_RESET (R88). -/
def execCellReset (h : ReqHead) (cell : Byte) (s : State) : Out := .next (takeCellReset h cell s)

/-! ## CELL_DRAIN (R89) -/

/-- The draining flag set, or cleared and the cell matched if that makes it eligible (R89, R118). -/
def drainCell (c : CellIx) (on : Bool) (s : State) : State :=
  let s := s.modCell c fun k => { k with draining := on }
  if on then s else matchCell c s

/-- CELL_DRAIN's own rule (R89). -/
def ownCellDrain (cell setting : Byte) (s : State) : Reply :=
  match cellInUse s cell, onOff setting with
  | some c, some on => ok (drainCell c on s)
  | _, _ => refuse .range s

/-- A CELL_DRAIN frame's effect. -/
def takeCellDrain (h : ReqHead) (cell setting : Byte) (s : State) : State :=
  serve (.cellDrain h cell setting) h 0x0322 (ownCellDrain cell setting) s

/-- CELL_DRAIN (R89). -/
def execCellDrain (h : ReqHead) (cell setting : Byte) (s : State) : Out := .next (takeCellDrain h cell setting s)

/-! ## CELL_COUNTERS_CLEAR (R92) -/

/-- CELL_COUNTERS_CLEAR's own rule (R92). -/
def ownCellCountersClear (cell : Byte) (s : State) : Reply :=
  match cellInUse s cell with
  | none => refuse .range s
  | some c => ok (s.modCell c fun k => { k with acc := .zero, since := s.timer })

/-- A CELL_COUNTERS_CLEAR frame's effect. -/
def takeCellCountersClear (h : ReqHead) (cell : Byte) (s : State) : State :=
  serve (.cellCountersClear h cell) h 0x0323 (ownCellCountersClear cell) s

/-- CELL_COUNTERS_CLEAR (R92). -/
def execCellCountersClear (h : ReqHead) (cell : Byte) (s : State) : Out := .next (takeCellCountersClear h cell s)

/-! ## CELL_QUERY (R90) -/

/-- CELL_QUERY's own rule (R90). -/
def ownCellQuery (cell : Byte) (s : State) : Reply :=
  match cellInUse s cell with
  | none => refuse .range s
  | some c => okWith ((s.cell c).bytes s.timer) s

/-- A CELL_QUERY frame's effect. -/
def takeCellQuery (h : ReqHead) (cell : Byte) (s : State) : State :=
  serve (.cellQuery h cell) h 0x0324 (ownCellQuery cell) s

/-- CELL_QUERY (R90). -/
def execCellQuery (h : ReqHead) (cell : Byte) (s : State) : Out := .next (takeCellQuery h cell s)

end Sys2Proof.Machine
end

