-- ==== Sys2Proof/Machine/Touchdown.lean ====
section
/-! DEFINITION. TDA's shared operations: the filter of the site entries (R53, R54), the counts of a first pass and of a
retest pass (R55 to R57, R63), the checks (R60 to R67), the periodic golden request (R69) and the closing-target report
(R71). -/

namespace Sys2Proof.Machine

/-! ## Tested units (R53) -/

/-- A tested unit: its site, and its hard bin h as h − 1. -/
structure TestedUnit where
  site : Fin 16
  bin  : Fin 15
  deriving DecidableEq, Repr

/-- The tested units of a list of entries, in order; `seen` holds the sites that earlier entries named (R53). -/
def testedUnits (siteCount : Nat) (enabled : SiteMask) : SiteMask → List SiteEntry → List TestedUnit
  | _, [] => []
  | seen, e :: es =>
    let site : Fin 16 := ⟨e.site.toNat, e.site.isLt⟩
    let rest := testedUnits siteCount enabled (seen ||| BitVec.ofNat 16 (2 ^ e.site.toNat)) es
    if siteCount ≤ e.site.toNat ∨ enabled.getLsbD e.site.toNat = false ∨ seen.getLsbD e.site.toNat = true then rest
    else if h : e.bin.toNat = 0 then rest
    else ⟨site, ⟨e.bin.toNat - 1, by have := e.bin.isLt; omega⟩⟩ :: rest

/-- The good units of a list (R54). -/
def goodUnits (st : Step) (us : List TestedUnit) : Nat := us.countP fun u => st.goodBin u.bin

/-! ## First-pass counts (R55, R57) -/

/-- A site's figures after one more unit (R55). -/
def SiteFigures.counted (f : SiteFigures) (good : Bool) : SiteFigures where
  tested := sat24 f.tested 1
  fail := if good then f.fail else sat24 f.fail 1
  streak := if good then 0 else satAdd 255 f.streak 1

/-- A run's figures after one more first-pass unit (R55). -/
def Run.countFirst (st : Step) (x : Run) (u : TestedUnit) : Run :=
  { x with
    tested := sat24 x.tested 1
    good := if st.goodBin u.bin then sat24 x.good 1 else x.good
    sites := vmod x.sites u.site fun f => f.counted (st.goodBin u.bin)
    ledger := vmod x.ledger (st.trayOf u.bin) fun n => sat24 n 1 }

/-- A lot's step counters after one more first-pass unit (R55). -/
def StepFigures.countFirst (st : Step) (f : StepFigures) (u : TestedUnit) : StepFigures :=
  { f with
    tested := sat24 f.tested 1
    good := if st.goodBin u.bin then sat24 f.good 1 else f.good
    bins := vmod f.bins u.bin fun n => sat24 n 1 }

/-! ## Retest counts (R56) -/

/-- A run's figures after one more retest unit (R56). -/
def Run.countRetest (st : Step) (x : Run) (u : TestedUnit) : Run :=
  { x with
    ledger := vmod x.ledger (st.trayOf u.bin) fun n => sat24 n 1
    outstanding := x.outstanding - 1
    surplus := if x.outstanding = 0 then sat24 x.surplus 1 else x.surplus
    recovered := if st.goodBin u.bin then sat24 x.recovered 1 else x.recovered }

/-- The counts of an accepted touchdown of pass 0: units, window ring and touchdowns since golden (R55, R63, R69). -/
def countFirstPass (r : RunIx) (us : List TestedUnit) (s : State) : State :=
  let st := stepOfRun s r
  let w := (limitsOf s (lotOfRun s r)).w
  let s := s.modLot (s.run r).lot fun x => { x with figures := us.foldl (StepFigures.countFirst st) x.figures }
  s.modRun r fun x =>
    { us.foldl (Run.countFirst st) x with
      ring := if us.isEmpty then x.ring else ringAppend w x.ring ⟨us.length, goodUnits st us⟩
      sinceGolden := satAdd 65535 x.sinceGolden 1 }

/-- The counts of an accepted touchdown of a retest pass (R56). -/
def countRetestPass (r : RunIx) (us : List TestedUnit) (s : State) : State :=
  let st := stepOfRun s r
  s.modRun r fun x => us.foldl (Run.countRetest st) x

/-! ## The checks (R60) -/

/-- Consecutive fail (R62): `before` is the site figures before the touchdown's counts. -/
def checkConsec (lim : LimitSet) (before : Vector SiteFigures 16) (r : RunIx) (s : State) : State :=
  if 0 < lim.cmax ∧ consecReached lim.cmax before (s.run r).sites then raiseOnRun r .consec (some lim.cmax) s else s

/-- Window yield (R64), after an append. -/
def checkWindow (lim : LimitSet) (appended : Bool) (r : RunIx) (s : State) : State :=
  let y := windowYield (s.run r).ring
  if appended ∧ 0 < lim.ywin ∧ (s.run r).ring.length = lim.w ∧ y < lim.ywin then raiseOnRun r .window (some y) s
  else s

/-- Site deviation (R65). -/
def checkSites (lim : LimitSet) (c : CellIx) (r : RunIx) (s : State) : State :=
  match siteSpread (consideredRates (s.cell c).enabled lim.nsite (s.run r).sites) with
  | some d => if lim.dmax < 10000 ∧ lim.dmax < d then raiseOnRun r .site (some d) s else s
  | none => s

/-- Lot bin fraction (R66). -/
def checkBins (lim : LimitSet) (l : LotSlot) (s : State) : State :=
  let x := s.lot l
  if lim.nmin ≤ x.figures.tested ∧ ¬ x.binWaived then
    match binBreach lim.fmax x.figures.bins x.figures.tested with
    | some f => raiseOnLot l .bin (some f) s
    | none => s
  else s

/-- Lot yield (R67). -/
def checkYield (lim : LimitSet) (l : LotSlot) (s : State) : State :=
  let x := s.lot l
  let y := basisPoints x.figures.good x.figures.tested
  if 0 < lim.ymin ∧ lim.nmin ≤ x.figures.tested ∧ ¬ x.yieldWaived ∧ y < lim.ymin then
    raiseOnLot l .yield (some y) s
  else s

/-- The five checks, in order, under one version of the limit set (R60). -/
def checkAll (before : Vector SiteFigures 16) (appended : Bool) (c : CellIx) (r : RunIx) (s : State) : State :=
  let lim := limitsOf s (lotOfRun s r)
  let l := (s.run r).lot
  checkYield lim l (checkBins lim l (checkSites lim c r (checkWindow lim appended r (checkConsec lim before r s))))

/-! ## Periodic golden and closing target (R69 to R71) -/

/-- The periodic golden request (R69). -/
def askGolden (c : CellIx) (r : RunIx) (s : State) : State :=
  let st := stepOfRun s r
  if 0 < st.goldenInterval ∧ st.goldenInterval ≤ (s.run r).sinceGolden ∧ (s.cell c).state = .running
      ∧ (s.run r).state = .testing then
    prepBegin c r .periodic (s.modRun r fun x => { x with sinceGolden := 0 })
  else s

/-- The closing-target report (R71). -/
def askTarget (q : Seq) (r : RunIx) (s : State) : State :=
  match (s.run r).target with
  | some t => if atOrPast q t then targetReport r s else s
  | none => s

/-! ## Taking a touchdown (R46 to R52) -/

/-- A foreign start (R47). -/
def foreignStart (c : CellIx) (s : State) : State :=
  enterQuarantined c .foreign false (s.modCell c fun k => { k with expected := none })

/-- An accepted touchdown's units counted and judged, for a run that is not ENDING (3.3 to 3.7). -/
def countTouchdown (c : CellIx) (r : RunIx) (q : Seq) (es : List SiteEntry) (s : State) : State :=
  let us := testedUnits (stepOfRun s r).siteCount (s.cell c).enabled 0 es
  let s :=
    if (s.run r).pass = 0 then
      let before := (s.run r).sites
      askGolden c r (checkAll before (!us.isEmpty) c r (countFirstPass r us s))
    else countRetestPass r us s
  askTarget q r s

/-- An accepted touchdown of a started run: an ENDING run's is late and counts nothing (R48). -/
def acceptTouchdown (c : CellIx) (r : RunIx) (q : Seq) (es : List SiteEntry) (s : State) : State :=
  let s := s.modCell c fun k => { k with expected := some (q + 1) }
  if (s.run r).state = .ending then s else countTouchdown c r q es s

/-- A touchdown that belongs to a started run: its number judged (R50, R51), then what follows. The expectation moves
before the DATA request; nothing that the request brings about reads it. -/
def runTouchdown (c : CellIx) (r : RunIx) (q : Seq) (es : List SiteEntry) (s : State) : State :=
  match judgeSeq (s.cell c).expected q with
  | .accepted => acceptTouchdown c r q es s
  | .gap d =>
      let s := s.modCell c fun k => { k with expected := some (q + 1) }
      acceptTouchdown c r q es (raiseOnRun r .data (some d) s)
  | .discarded => s

/-- A touchdown attributed by the state of its cell and of the current run (R46). -/
def takeTouchdown (c : CellIx) (q : Seq) (es : List SiteEntry) (s : State) : State :=
  let started := match (s.cell c).current with
    | some r => if (s.run r).state.started then some r else none
    | none => none
  match (s.cell c).state, started with
  | .offline, _ | .lost, _ | .quarantined, _ => s
  | .down, none => s
  | _, none => foreignStart c s
  | _, some r => runTouchdown c r q es s

end Sys2Proof.Machine
end

