-- ==== Sys2Proof/Machine/Reports.lean ====
section
/-! DEFINITION. The reports of testers and handlers: what LNK does with a report frame (R73, R167, R169), and the
meaning of each of the eight kinds. A report that is not well formed is discarded unheard (R166, R185). -/

namespace Sys2Proof.Machine

/-! ## LNK's part (R73, R167, R169) -/

/-- A station's last-heard time set (R73). -/
def hear (c : CellIx) (role : Role) (s : State) : State :=
  s.modCell c fun k =>
    match role with
    | .tester => { k with heardTester := some s.timer }
    | .handler => { k with heardHandler := some s.timer }

/-- Whether a report frame is queued for Port F: not when it is addressed to the part (R167), nor a TOUCHDOWN in
OPERATE with forward results off (R169). A destination of 0 or 65535, which is no station, counts as another station
(DEDUCED, notes/assumptions/34.md). -/
def forwardsReport (s : State) (e : Envelope) (isTouchdown : Bool) : Bool :=
  e.dst != s.profile.partStation && !(isTouchdown && s.phase == .operate && !s.profile.forwardResults)

/-- A report frame queued for forwarding when it is to be (R167, R170). -/
def forwardReport (i : Instr) (e : Envelope) (isTouchdown : Bool) (s : State) : State :=
  match i.reportFrame with
  | some b => if forwardsReport s e isTouchdown then forwardCF b s else s
  | none => s

/-- A well-formed report: queued for forwarding at its arrival, and in OPERATE heard and handed to its owner (R73,
R167). -/
def takeReport (i : Instr) (e : Envelope) (isTouchdown : Bool) (handle : CellIx → Role → State → State)
    (s : State) : State :=
  if i.wf then
    let s := forwardReport i e isTouchdown s
    match s.phase with
    | .config => s
    | .operate =>
      match findStation s e.src with
      | some (c, role) => handle c role (hear c role s)
      | none => s
  else s

/-! ## STATE (R75, R127, R128) -/

/-- The valid report recorded (R75, R76). -/
def recordReport (c : CellIx) (role : Role) (rep : StationReport) (s : State) : State :=
  s.modCell c fun k =>
    match role with
    | .tester => { k with repTester := some rep }
    | .handler => { k with repHandler := some rep }

/-- A run suspended and pushed, the hot run made current (steps 1 to 3 of R127). -/
def suspendRun (c : CellIx) (r h : RunIx) (s : State) : State :=
  let run := s.run r
  let s := s.modRun r fun x => { x with state := .suspended, suspendedFrom := some run.state.parkedFrom }
  let s := if run.state = .closing then cancelRunDeadline c .closing s else s
  s.modCell c fun k => { k with stack := r :: k.stack, current := some h, reserved := none }

/-- A PAUSED report of the handler of a PAUSING cell (R127, R128). -/
def pausedReport (c : CellIx) (s : State) : State :=
  match (s.cell c).current, (s.cell c).reserved with
  | some r, some h =>
    match (s.run r).state with
    | .testing | .closing => prepBegin c h .assignment (heldTest (s.run r).lot (suspendRun c r h s))
    | .free | .assigned | .stopped | .suspended | .ending => s
  | some r, none =>
    match (s.run r).state with
    | .testing | .closing => resumeRun c r s
    | .ending => enterCell c .running none s
    | .free | .assigned | .stopped | .suspended => s
  | none, _ => s

/-- What a recorded report does (R75). -/
def actOnReport (c : CellIx) (rep : StationReport) (s : State) : State :=
  match rep with
  | .ready =>
    match (s.cell c).state.recoversFrom with
    | some o => if (s.cell c).bothReady then recover c o s else s
    | none => s
  | .jam => if (s.cell c).state.operational then enterDown c .jam s else s
  | .alarm => if (s.cell c).state.operational then enterDown c .alarm s else s
  | .paused => if (s.cell c).state = .pausing then pausedReport c s else s
  | .busy | .running | .setup => s

/-- CEL takes a STATE report (R75). -/
def onState (code : Byte) (c : CellIx) (role : Role) (s : State) : State :=
  match stationReportOf role code with
  | some rep => actOnReport c rep (recordReport c role rep s)
  | none => s

/-- A STATE frame's effect. -/
def takeState (e : Envelope) (code : Byte) (s : State) : State :=
  takeReport (.state e code) e false (onState code) s

/-- STATE (R75). -/
def execState (e : Envelope) (code : Byte) (s : State) : Out := .next (takeState e code s)

/-! ## SETUP_DONE (R100) -/

/-- The kit and the temperature reported are those ordered (R100). -/
def setupMatches (k : Cell) (kit : Nat) (temp : Int) : Bool :=
  match k.prep with
  | some p => p.orderedKit == some kit && p.orderedTemp == some temp
  | none => false

/-- A changeover or a load counted as taken: its deadline cancelled, a golden check planned, the next stage chosen
(R98, R100, R101). -/
def stageDone (c : CellIx) (s : State) : State :=
  nextStage c (s.modCell c fun k => k.cancelStage.modPrep Prep.stageTaken)

/-- PRP takes a SETUP_DONE (R100); the match is judged on the temperature as reported (DESIGN CHOICE,
notes/assumptions/9.md). -/
def onSetupDone (kit : Byte) (temp : BitVec 16) (c : CellIx) (role : Role) (s : State) : State :=
  match role with
  | .tester => s
  | .handler =>
    let s := s.modCell c fun k => { k with kit := some kit.toNat, temp := some (clampTemp temp.toInt) }
    if (s.cell c).state = .changeover then
      if setupMatches (s.cell c) kit.toNat temp.toInt then stageDone c s else enterDown c .setup s
    else s

/-- A SETUP_DONE frame's effect. -/
def takeSetupDone (e : Envelope) (kit : Byte) (temp : BitVec 16) (s : State) : State :=
  takeReport (.setupDone e kit temp) e false (onSetupDone kit temp) s

/-- SETUP_DONE (R100). -/
def execSetupDone (e : Envelope) (kit : Byte) (temp : BitVec 16) (s : State) : Out := .next (takeSetupDone e kit temp s)

/-! ## LOAD_DONE (R101) -/

/-- PRP takes a LOAD_DONE (R101). -/
def onLoadDone (p : Program) (c : CellIx) (role : Role) (s : State) : State :=
  match role with
  | .handler => s
  | .tester =>
    let ok := (s.cell c).lastLoad == some p
    let s := s.modCell c fun k => { k with program := if ok then some p else none }
    if (s.cell c).state = .loading then (if ok then stageDone c s else enterDown c .load s) else s

/-- A LOAD_DONE frame's effect. -/
def takeLoadDone (e : Envelope) (id : BitVec 16) (rev : Byte) (checksum : BitVec 32) (s : State) : State :=
  takeReport (.loadDone e id rev checksum) e false
    (onLoadDone { id := id, revision := rev, checksum := checksum }) s

/-- LOAD_DONE (R101). -/
def execLoadDone (e : Envelope) (id : BitVec 16) (rev : Byte) (checksum : BitVec 32) (s : State) : Out :=
  .next (takeLoadDone e id rev checksum s)

/-! ## LOAD_FAIL (R102) -/

/-- PRP takes a LOAD_FAIL (R102). -/
def onLoadFail (c : CellIx) (role : Role) (s : State) : State :=
  match role with
  | .handler => s
  | .tester =>
    let s := s.modCell c fun k => { k with program := none }
    if (s.cell c).state = .loading then enterDown c .load s else s

/-- A LOAD_FAIL frame's effect. -/
def takeLoadFail (e : Envelope) (id : BitVec 16) (rev : Byte) (s : State) : State :=
  takeReport (.loadFail e id rev) e false onLoadFail s

/-- LOAD_FAIL (R102). -/
def execLoadFail (e : Envelope) (id : BitVec 16) (rev : Byte) (s : State) : Out := .next (takeLoadFail e id rev s)

/-! ## GOLDEN_DONE (R104 to R106) -/

/-- The result of a golden check recorded and noticed (steps 3 to 6 of R104). -/
def recordGolden (c : CellIx) (mask enabled : SiteMask) (outcome : GoldenOutcome) (s : State) : State :=
  let s := s.modCell c fun k =>
    { k.cancelStage with golden := ⟨mask, outcome, s.floorClock⟩, enabled := enabled }
  postNotice (.goldenDone c mask enabled outcome) s

/-- A golden PASS (R105). -/
def goldenPass (c : CellIx) (s : State) : State :=
  let s := s.modCell c fun k => { k with goldenValid := true, downCount := 0 }
  let s := match (s.cell c).current with
    | some r => goldenRelease r (s.modRun r fun x => { x with sinceGolden := 0 })
    | none => s
  nextStage c (s.modCell c fun k => k.modPrep fun p => { p with goldenTaken := true })

/-- A golden FAIL (R106). -/
def goldenFail (c : CellIx) (enabled : SiteMask) (s : State) : State :=
  raiseOnCurrent c .golden (some (siteNumber enabled)) (enterQuarantined c .sites true s)

/-- PRP takes a GOLDEN_DONE (R104). -/
def onGoldenDone (mask : SiteMask) (c : CellIx) (role : Role) (s : State) : State :=
  match role, (s.cell c).state, (s.cell c).prep with
  | .tester, .golden, some p =>
    let enabled := mask &&& sitesBelow (p.goldenSites.getD 0)
    if siteNumber enabled < p.goldenMin.getD 0 then
      goldenFail c enabled (recordGolden c mask enabled .fail s)
    else goldenPass c (recordGolden c mask enabled .pass s)
  | _, _, _ => s

/-- A GOLDEN_DONE frame's effect. -/
def takeGoldenDone (e : Envelope) (mask : SiteMask) (s : State) : State :=
  takeReport (.goldenDone e mask) e false (onGoldenDone mask) s

/-- GOLDEN_DONE (R104). -/
def execGoldenDone (e : Envelope) (mask : SiteMask) (s : State) : Out := .next (takeGoldenDone e mask s)

/-! ## TOUCHDOWN (R45, R46) -/

/-- TDA takes a TOUCHDOWN of a tester (R45). -/
def onTouchdown (q : Seq) (es : List SiteEntry) (c : CellIx) (role : Role) (s : State) : State :=
  match role with
  | .handler => s
  | .tester => takeTouchdown c q es s

/-- A TOUCHDOWN frame's effect. -/
def takeTouchdownFrame (e : Envelope) (q : Seq) (es : List SiteEntry) (s : State) : State :=
  takeReport (.touchdown e q es) e true (onTouchdown q es) s

/-- TOUCHDOWN (R46). -/
def execTouchdown (e : Envelope) (q : Seq) (es : List SiteEntry) (s : State) : Out := .next (takeTouchdownFrame e q es s)

/-! ## PASS_END (R140, R141) -/

/-- A run that takes a PASS_END of a pass (R140). -/
def Run.takesPassEnd (x : Run) (pass : Nat) : Bool :=
  (x.state == .testing || (x.state == .stopped && x.stoppedFrom == some .testing)) && pass == x.pass

/-- Steps 1 to 3 of R141. -/
def Run.passEnded (x : Run) (pass : Nat) (fed : Nat) (last : Seq) : Run :=
  { x with
    handlerFed := if pass = 0 then some fed else x.handlerFed
    target := some last
    state := if x.state = .testing then .closing else x.state
    stoppedFrom := if x.state = .stopped then some .closing else x.stoppedFrom }

/-- A PASS_END that RUN acts on (R141). -/
def endPass (c : CellIx) (r : RunIx) (pass fed : Nat) (last : Seq) (s : State) : State :=
  let taken := targetTaken (s.cell c).expected last
  let s := s.modRun r fun x => x.passEnded pass fed last
  if (s.run r).state = .closing then
    (if taken then passClose r s else armRunDeadline c .closing s.profile.closing s)
  else if taken then s.modRun r fun x => { x with targetReached := true }
  else s

/-- RUN takes a PASS_END (R140). -/
def onPassEnd (pass : Nat) (fed : Nat) (last : Seq) (c : CellIx) (role : Role) (s : State) : State :=
  match role, (s.cell c).current with
  | .handler, some r => if (s.run r).takesPassEnd pass then endPass c r pass fed last s else s
  | _, _ => s

/-- A PASS_END frame's effect. -/
def takePassEnd (e : Envelope) (pass : Byte) (fed : BitVec 24) (last : Seq) (s : State) : State :=
  takeReport (.passEnd e pass fed last) e false (onPassEnd pass.toNat fed.toNat last) s

/-- PASS_END (R141). -/
def execPassEnd (e : Envelope) (pass : Byte) (fed : BitVec 24) (last : Seq) (s : State) : Out :=
  .next (takePassEnd e pass fed last s)

/-! ## RUN_COUNTS (R148) -/

/-- The counts of an ENDING run judged, and the run closed (R148). -/
def judgeCounts (c : CellIx) (r : RunIx) (fed : Nat) (trays : Vector (BitVec 24) 8) (s : State) : State :=
  let s := cancelRunDeadline c .counts s
  let s := s.modRun r fun x => { x with handlerFed := some fed }
  let lim := limitsOf s (lotOfRun s r)
  let s := if failsReconciliation lim (s.run r) fed trays then raiseOnLot (s.run r).lot .recon none s else s
  closeRun r s

/-- RUN takes a RUN_COUNTS (R148). -/
def onRunCounts (fed : Nat) (trays : Vector (BitVec 24) 8) (c : CellIx) (role : Role) (s : State) : State :=
  match role, (s.cell c).current with
  | .handler, some r => if (s.run r).state = .ending then judgeCounts c r fed trays s else s
  | _, _ => s

/-- A RUN_COUNTS frame's effect. -/
def takeRunCounts (e : Envelope) (fed : BitVec 24) (trays : Vector (BitVec 24) 8) (s : State) : State :=
  takeReport (.runCounts e fed trays) e false (onRunCounts fed.toNat trays) s

/-- RUN_COUNTS (R148). -/
def execRunCounts (e : Envelope) (fed : BitVec 24) (trays : Vector (BitVec 24) 8) (s : State) : Out :=
  .next (takeRunCounts e fed trays s)

end Sys2Proof.Machine
end

