-- ==== Sys2Proof/Machine/LotRequests.lean ====
section
/-! DEFINITION. The lot requests (R22 to R28) and RUN_ABORT (R151). A tag that no record carries is refused NOT_FOUND
after the request's own RANGE and BAD_ARG (notes/assumptions/11.md). -/

namespace Sys2Proof.Machine

/-- A change of a route's reference count (R5). -/
def modRefs (r : RouteIx) (f : Nat → Nat) (s : State) : State := s.modRoute r fun x => { x with refs := f x.refs }

/-! ## LOT_ADD (R22) -/

/-- The record that LOT_ADD fills (R22). -/
def newLot (tag : Tag) (route : RouteIx) (quantity cls split maxRuns now : Nat) (preempt : Bool) : Lot :=
  { Lot.vacant with
    tag := tag, route := route, state := .waiting, split := split, runsPerStep := min split maxRuns
    toAssign := min split maxRuns, cls := cls, classSince := now, preempt := preempt, started := quantity
    q := quantity }

/-- The lot filled in, its route counted, its sequence given, queued and matched (R22, R5, R6). -/
def addLot (i : LotSlot) (tag : Tag) (route : RouteIx) (quantity cls split : Nat) (preempt : Bool) (s : State) : State :=
  let st := (s.route route).steps.getD 0 Step.none
  let s := s.setLot i (newLot tag route quantity cls split st.maxRuns s.timer preempt)
  queueTest i (takeSequence i (modRefs route (· + 1) s))

/-- LOT_ADD's own rule (R22). -/
def ownLotAdd (tag : Tag) (route : Byte) (quantity : BitVec 24) (cls split preempt : Byte) (s : State) : Reply :=
  if h : route.toNat < 48 then
    if quantity.toNat = 0 ∨ Config.maxQuantity < quantity.toNat ∨ 3 < cls.toNat ∨ split.toNat = 0 ∨ 4 < split.toNat then
      refuse .range s
    else if (s.route ⟨route.toNat, h⟩).steps.isEmpty then refuse .notFound s
    else if (findLot s tag).isSome then refuse .duplicate s
    else match vacantLot s with
      | none => refuse .noSlot s
      | some i =>
        okWith (byte1 i.val)
          (addLot i tag ⟨route.toNat, h⟩ quantity.toNat cls.toNat split.toNat (preempt != 0) s)
  else refuse .range s

/-- A LOT_ADD frame's effect. -/
def takeLotAdd (h : ReqHead) (tag : Tag) (route : Byte) (quantity : BitVec 24) (cls split preempt : Byte)
    (s : State) : State :=
  serve (.lotAdd h tag route quantity cls split preempt) h 0x0310 (ownLotAdd tag route quantity cls split preempt) s

/-- LOT_ADD (R22). -/
def execLotAdd (h : ReqHead) (tag : Tag) (route : Byte) (quantity : BitVec 24) (cls split preempt : Byte)
    (s : State) : Out := .next (takeLotAdd h tag route quantity cls split preempt s)

/-! ## LOT_PRIORITY (R23) -/

/-- A queued lot that has changed class is moved and matched; one raised to class 0 may preempt (R116, R124). -/
def requeue (l : LotSlot) (s : State) : State :=
  if s.queue.contains l then preemptSearch l (matchLot l (queueMove l s)) else s

/-- LOT_PRIORITY's own rule (R23). -/
def ownLotPriority (tag : Tag) (cls : Byte) (s : State) : Reply :=
  if 3 < cls.toNat then refuse .range s
  else match findLot s tag with
    | none => refuse .notFound s
    | some l =>
      match (s.lot l).state with
      | .finished | .released | .scrapped | .vacant => refuse .wrongState s
      | .waiting | .running | .held =>
        if (s.lot l).cls = cls.toNat then ok s
        else ok (requeue l (s.modLot l fun x => { x with cls := cls.toNat, classSince := s.timer }))

/-- A LOT_PRIORITY frame's effect. -/
def takeLotPriority (h : ReqHead) (tag : Tag) (cls : Byte) (s : State) : State :=
  serve (.lotPriority h tag cls) h 0x0311 (ownLotPriority tag cls) s

/-- LOT_PRIORITY (R23). -/
def execLotPriority (h : ReqHead) (tag : Tag) (cls : Byte) (s : State) : Out := .next (takeLotPriority h tag cls s)

/-! ## LOT_HOLD (R24) -/

/-- The policy of a lot's ENGINEER record. -/
def Lot.engineerPolicy (x : Lot) : Option Policy := (x.holds.find? fun h => h.is .engineer none).map (·.policy)

/-- The effect of an ENGINEER record's change of policy (R24): to STOP from another, and to FINISH from MARK, as at a
raise; to MARK from STOP or FINISH, as at a release. -/
def policyChange (l : LotSlot) (old new : Policy) (s : State) : State :=
  match old, new with
  | .stop, .stop | .finish, .finish | .mark, .mark => s
  | .stop, .finish => heldTest l s
  | .finish, .stop | .mark, .stop | .mark, .finish => heldTest l (queueTest l (policyEffect l none new none s))
  | .stop, .mark | .finish, .mark => freeing l s

/-- An ENGINEER hold raised or refreshed (R24). -/
def engineerHold (l : LotSlot) (p : Policy) (s : State) : State :=
  let old := (s.lot l).engineerPolicy
  let s := raiseHold l .engineer none none p none s
  match old with
  | some q => policyChange l q p s
  | none => s

/-- LOT_HOLD's own rule (R24). -/
def ownLotHold (tag : Tag) (policy : Byte) (s : State) : Reply :=
  match policyOf policy with
  | none => refuse .range s
  | some p =>
    match findLot s tag with
    | none => refuse .notFound s
    | some l =>
      match (s.lot l).state with
      | .released | .scrapped | .vacant => refuse .wrongState s
      | .waiting | .running | .held | .finished => ok (engineerHold l p s)

/-- A LOT_HOLD frame's effect. -/
def takeLotHold (h : ReqHead) (tag : Tag) (policy : Byte) (s : State) : State :=
  serve (.lotHold h tag policy) h 0x0312 (ownLotHold tag policy) s

/-- LOT_HOLD (R24). -/
def execLotHold (h : ReqHead) (tag : Tag) (policy : Byte) (s : State) : Out := .next (takeLotHold h tag policy s)

/-! ## LOT_RELEASE (R25) -/

/-- LOT_RELEASE's own rule (R25). -/
def ownLotRelease (tag : Tag) (kind pos : Byte) (s : State) : Reply :=
  match holdKindOf kind with
  | none => refuse .badArg s
  | some k =>
    match releasePlaceOf k pos with
    | none => refuse .range s
    | some p =>
      match findLot s tag with
      | none => refuse .notFound s
      | some l =>
        if (s.lot l).holdsKind k p then ok (freeing l (removeHold l k p s)) else refuse .notFound s

/-- A LOT_RELEASE frame's effect. -/
def takeLotRelease (h : ReqHead) (tag : Tag) (kind pos : Byte) (s : State) : State :=
  serve (.lotRelease h tag kind pos) h 0x0313 (ownLotRelease tag kind pos) s

/-- LOT_RELEASE (R25). -/
def execLotRelease (h : ReqHead) (tag : Tag) (kind pos : Byte) (s : State) : Out :=
  .next (takeLotRelease h tag kind pos s)

/-! ## LOT_SCRAP (R26) -/

/-- A STOP order for a run that is TESTING or CLOSING (R151 step 1, R26). -/
def sendStop (r : RunIx) (s : State) : State :=
  if (s.run r).state.stoppable then sendOrder (s.run r).cell .handler .stop s else s

/-- An open run of a scrapped lot freed (R26): its position becomes absent, and to-assign is not raised
(notes/assumptions/12.md). -/
def scrapRun (r : RunIx) (s : State) : State :=
  let s := cancelDeadlines r (sendStop r s)
  let s := s.modLot (s.run r).lot fun x => { x with runs := vset x.runs (s.run r).pos .absent }
  vacate r s

/-- A lot scrapped (R26). -/
def scrapLot (l : LotSlot) (s : State) : State :=
  let s := eachOpen l none scrapRun (queueRemove l s)
  let s := s.modLot l fun x => { x with holds := [], state := .scrapped }
  modRefs (s.lot l).route (· - 1) s

/-- A portion mark that names a shipment. -/
def PortionMark.inAny : PortionMark → Bool
  | .inShipment _ => true
  | .free | .released => false

/-- LOT_SCRAP's own rule (R26). -/
def ownLotScrap (tag : Tag) (s : State) : Reply :=
  match findLot s tag with
  | none => refuse .notFound s
  | some l =>
    if (s.lot l).state = .released then refuse .wrongState s
    else if (s.lot l).marks.toList.any PortionMark.inAny then refuse .inUse s
    else if (s.lot l).state = .scrapped then ok s
    else ok (scrapLot l s)

/-- A LOT_SCRAP frame's effect. -/
def takeLotScrap (h : ReqHead) (tag : Tag) (s : State) : State := serve (.lotScrap h tag) h 0x0314 (ownLotScrap tag) s

/-- LOT_SCRAP (R26). -/
def execLotScrap (h : ReqHead) (tag : Tag) (s : State) : Out := .next (takeLotScrap h tag s)

/-! ## LOT_RETIRE (R27) -/

/-- A lot that LOT_RETIRE accepts (R27). -/
def Lot.retirable (x : Lot) : Bool :=
  x.state == .released || x.state == .scrapped || (x.state == .finished && x.gradeQty.toList.all (· == 0))

/-- A lot retired (R27, R5). -/
def retireLot (l : LotSlot) (s : State) : State :=
  let s := if (s.lot l).state = .finished then modRefs (s.lot l).route (· - 1) s else s
  s.setLot l .vacant

/-- LOT_RETIRE's own rule (R27). -/
def ownLotRetire (tag : Tag) (s : State) : Reply :=
  match findLot s tag with
  | none => refuse .notFound s
  | some l => if (s.lot l).retirable then ok (retireLot l s) else refuse .wrongState s

/-- A LOT_RETIRE frame's effect. -/
def takeLotRetire (h : ReqHead) (tag : Tag) (s : State) : State :=
  serve (.lotRetire h tag) h 0x0315 (ownLotRetire tag) s

/-- LOT_RETIRE (R27). -/
def execLotRetire (h : ReqHead) (tag : Tag) (s : State) : Out := .next (takeLotRetire h tag s)

/-! ## LOT_QUERY (R28) -/

/-- LOT_QUERY's own rule (R28). -/
def ownLotQuery (tag : Tag) (s : State) : Reply :=
  match findLot s tag with
  | none => refuse .notFound s
  | some l => okWith (lotData s l) s

/-- A LOT_QUERY frame's effect. -/
def takeLotQuery (h : ReqHead) (tag : Tag) (s : State) : State := serve (.lotQuery h tag) h 0x0316 (ownLotQuery tag) s

/-- LOT_QUERY (R28). -/
def execLotQuery (h : ReqHead) (tag : Tag) (s : State) : Out := .next (takeLotQuery h tag s)

/-! ## RUN_ABORT (R151) -/

/-- A run aborted (R151): STOP to a working run's handler, RECON raised past the run itself, and the close. -/
def abortRun (l : LotSlot) (r : RunIx) (s : State) : State :=
  closeRun r (raiseHold l .recon none none .stop (some r) (sendStop r s))

/-- RUN_ABORT's own rule (R151). -/
def ownRunAbort (tag : Tag) (pos : Byte) (s : State) : Reply :=
  match runPlaceOf pos with
  | none => refuse .range s
  | some p =>
    match findLot s tag with
    | none => refuse .notFound s
    | some l =>
      match (s.lot l).openAt p with
      | none => refuse .notFound s
      | some r => ok (abortRun l r s)

/-- A RUN_ABORT frame's effect. -/
def takeRunAbort (h : ReqHead) (tag : Tag) (pos : Byte) (s : State) : State :=
  serve (.runAbort h tag pos) h 0x0317 (ownRunAbort tag pos) s

/-- RUN_ABORT (R151). -/
def execRunAbort (h : ReqHead) (tag : Tag) (pos : Byte) (s : State) : Out := .next (takeRunAbort h tag pos s)

end Sys2Proof.Machine
end

