-- ==== Sys2Proof/Machine/Shipments.lean ====
section
/-! DEFINITION. The shipment requests (R154 to R164). -/

namespace Sys2Proof.Machine

/-- The grade of a shipment as an index into a lot's four portions. -/
def Shipment.gradeIx (x : Shipment) : Fin 4 := ⟨(x.grade - 1) % 4, Nat.mod_lt _ (by decide)⟩

/-- The mark of one grade of a lot set (R155). -/
def setMark (l : LotSlot) (g : Fin 4) (m : PortionMark) (s : State) : State :=
  s.modLot l fun x => { x with marks := vset x.marks g m }

/-- The mark of the shipment's grade set in the lot at each member's slot, in list order (R160, R162). -/
def markMembers (g : Fin 4) (m : PortionMark) (ms : List Member) (s : State) : State :=
  ms.foldl (fun s x => setMark x.slot g m s) s

/-- The new quantity and member count of a shipment (R157, R158). -/
def memberData (x : Shipment) : List Byte := beBytes 3 x.quantity ++ byte1 x.members.length

/-! ## SHIP_OPEN (R156) -/

/-- SHIP_OPEN's own rule (R156). -/
def ownShipOpen (tag : Tag) (product : BitVec 32) (grade : Byte) (maximum : BitVec 24) (s : State) : Reply :=
  if grade.toNat = 0 ∨ 4 < grade.toNat ∨ maximum.toNat = 0 ∨ Config.maxQuantity < maximum.toNat then refuse .range s
  else if (findShip s tag).isSome then refuse .duplicate s
  else match vacantShip s with
    | none => refuse .noSlot s
    | some n =>
      okWith (byte1 n.val) (s.setShip n
        { tag := tag, product := product, grade := grade.toNat, maximum := maximum.toNat, quantity := 0,
          state := .opened, members := [] })

/-- A SHIP_OPEN frame's effect. -/
def takeShipOpen (h : ReqHead) (tag : Tag) (product : BitVec 32) (grade : Byte) (maximum : BitVec 24)
    (s : State) : State :=
  serve (.shipOpen h tag product grade maximum) h 0x0330 (ownShipOpen tag product grade maximum) s

/-- SHIP_OPEN (R156). -/
def execShipOpen (h : ReqHead) (tag : Tag) (product : BitVec 32) (grade : Byte) (maximum : BitVec 24) (s : State) : Out :=
  .next (takeShipOpen h tag product grade maximum s)

/-! ## SHIP_ADD (R157) -/

/-- The shipment with a member added (steps 1 and 2 of R157). -/
def Shipment.withMember (x : Shipment) (m : Member) : Shipment :=
  { x with members := x.members ++ [m], quantity := x.quantity + m.quantity }

/-- A portion added to a shipment (R157). -/
def addMember (n : ShipSlot) (l : LotSlot) (s : State) : State :=
  let g := (s.ship n).gradeIx
  let m : Member := { tag := (s.lot l).tag, slot := l, quantity := (s.lot l).gradeQty[g] }
  setMark l g (.inShipment n) (s.modShip n fun x => x.withMember m)

/-- SHIP_ADD's own rule (R157). -/
def ownShipAdd (tag lot : Tag) (s : State) : Reply :=
  match findShip s tag, findLot s lot with
  | some n, some l =>
    let x := s.ship n
    let y := s.lot l
    if x.state ≠ .opened then refuse .wrongState s
    else if y.state ≠ .finished then refuse .wrongState s
    else if (s.route y.route).product ≠ x.product then refuse .conflict s
    else if y.gradeQty[x.gradeIx] = 0 then refuse .notFound s
    else if y.marks[x.gradeIx] ≠ .free then refuse .inUse s
    else if Config.memberCapacity ≤ x.members.length then refuse .noSlot s
    else if x.maximum < x.quantity + y.gradeQty[x.gradeIx] then refuse .range s
    else okWith (memberData ((addMember n l s).ship n)) (addMember n l s)
  | _, _ => refuse .notFound s

/-- A SHIP_ADD frame's effect. -/
def takeShipAdd (h : ReqHead) (tag lot : Tag) (s : State) : State :=
  serve (.shipAdd h tag lot) h 0x0331 (ownShipAdd tag lot) s

/-- SHIP_ADD (R157). -/
def execShipAdd (h : ReqHead) (tag lot : Tag) (s : State) : Out := .next (takeShipAdd h tag lot s)

/-! ## SHIP_REMOVE (R158) -/

/-- The shipment with a member taken out (R158). -/
def Shipment.withoutMember (x : Shipment) (m : Member) : Shipment :=
  { x with members := x.members.erase m, quantity := x.quantity - m.quantity }

/-- A member taken out of a shipment (R158). -/
def removeMember (n : ShipSlot) (m : Member) (s : State) : State :=
  setMark m.slot (s.ship n).gradeIx .free (s.modShip n fun x => x.withoutMember m)

/-- SHIP_REMOVE's own rule (R158). -/
def ownShipRemove (tag lot : Tag) (s : State) : Reply :=
  match findShip s tag with
  | none => refuse .notFound s
  | some n =>
    if (s.ship n).state ≠ .opened then refuse .wrongState s
    else match (s.ship n).members.find? fun m => m.tag == lot with
      | none => refuse .notFound s
      | some m => okWith (memberData ((removeMember n m s).ship n)) (removeMember n m s)

/-- A SHIP_REMOVE frame's effect. -/
def takeShipRemove (h : ReqHead) (tag lot : Tag) (s : State) : State :=
  serve (.shipRemove h tag lot) h 0x0332 (ownShipRemove tag lot) s

/-- SHIP_REMOVE (R158). -/
def execShipRemove (h : ReqHead) (tag lot : Tag) (s : State) : Out := .next (takeShipRemove h tag lot s)

/-! ## SHIP_SEAL (R159) -/

/-- SHIP_SEAL's own rule (R159). -/
def ownShipSeal (tag : Tag) (s : State) : Reply :=
  match findShip s tag with
  | none => refuse .notFound s
  | some n =>
    if (s.ship n).state ≠ .opened ∨ (s.ship n).members.isEmpty then refuse .wrongState s
    else ok (s.modShip n fun x => { x with state := .sealed })

/-- A SHIP_SEAL frame's effect. -/
def takeShipSeal (h : ReqHead) (tag : Tag) (s : State) : State := serve (.shipSeal h tag) h 0x0333 (ownShipSeal tag) s

/-- SHIP_SEAL (R159). -/
def execShipSeal (h : ReqHead) (tag : Tag) (s : State) : Out := .next (takeShipSeal h tag s)

/-! ## SHIP_RELEASE (R160, R161) -/

/-- Every grade of quantity above zero has its mark released (R161). -/
def Lot.allReleased (x : Lot) : Bool :=
  (List.finRange 4).all fun g => x.gradeQty[g] == 0 || x.marks[g] == .released

/-- LOT tests a member's lot (R161). -/
def releaseTest (l : LotSlot) (s : State) : State :=
  if (s.lot l).state = .finished ∧ (s.lot l).allReleased then
    modRefs (s.lot l).route (· - 1) (s.modLot l fun x => { x with state := .released })
  else s

/-- A shipment released (R160). -/
def releaseShip (n : ShipSlot) (s : State) : State :=
  let x := s.ship n
  let s := s.modShip n fun y => { y with state := .released }
  let s := markMembers x.gradeIx .released x.members s
  let s := postNotice (.shipmentReleased x.tag x.grade x.quantity x.members.length) s
  x.members.foldl (fun s m => releaseTest m.slot s) s

/-- SHIP_RELEASE's own rule (R160). -/
def ownShipRelease (tag : Tag) (s : State) : Reply :=
  match findShip s tag with
  | none => refuse .notFound s
  | some n =>
    if (s.ship n).state ≠ .sealed then refuse .wrongState s
    else match (s.ship n).members.find? fun m => (s.lot m.slot).state != .finished with
      | some m => refuseWith .memberHeld (tagBytes m.tag) s
      | none => ok (releaseShip n s)

/-- A SHIP_RELEASE frame's effect. -/
def takeShipRelease (h : ReqHead) (tag : Tag) (s : State) : State :=
  serve (.shipRelease h tag) h 0x0334 (ownShipRelease tag) s

/-- SHIP_RELEASE (R160). -/
def execShipRelease (h : ReqHead) (tag : Tag) (s : State) : Out := .next (takeShipRelease h tag s)

/-! ## SHIP_CANCEL (R162) -/

/-- A shipment cancelled (R162). -/
def cancelShip (n : ShipSlot) (s : State) : State :=
  (markMembers (s.ship n).gradeIx .free (s.ship n).members s).setShip n .vacant

/-- SHIP_CANCEL's own rule (R162). -/
def ownShipCancel (tag : Tag) (s : State) : Reply :=
  match findShip s tag with
  | none => refuse .notFound s
  | some n => if (s.ship n).state = .released then refuse .wrongState s else ok (cancelShip n s)

/-- A SHIP_CANCEL frame's effect. -/
def takeShipCancel (h : ReqHead) (tag : Tag) (s : State) : State :=
  serve (.shipCancel h tag) h 0x0335 (ownShipCancel tag) s

/-- SHIP_CANCEL (R162). -/
def execShipCancel (h : ReqHead) (tag : Tag) (s : State) : Out := .next (takeShipCancel h tag s)

/-! ## SHIP_RETIRE (R163) -/

/-- SHIP_RETIRE's own rule (R163). -/
def ownShipRetire (tag : Tag) (s : State) : Reply :=
  match findShip s tag with
  | none => refuse .notFound s
  | some n => if (s.ship n).state = .released then ok (s.setShip n .vacant) else refuse .wrongState s

/-- A SHIP_RETIRE frame's effect. -/
def takeShipRetire (h : ReqHead) (tag : Tag) (s : State) : State :=
  serve (.shipRetire h tag) h 0x0336 (ownShipRetire tag) s

/-- SHIP_RETIRE (R163). -/
def execShipRetire (h : ReqHead) (tag : Tag) (s : State) : Out := .next (takeShipRetire h tag s)

/-! ## SHIP_QUERY (R164) -/

/-- SHIP_QUERY's own rule (R164). -/
def ownShipQuery (tag : Tag) (s : State) : Reply :=
  match findShip s tag with
  | none => refuse .notFound s
  | some n => okWith (shipData s n) s

/-- A SHIP_QUERY frame's effect. -/
def takeShipQuery (h : ReqHead) (tag : Tag) (s : State) : State :=
  serve (.shipQuery h tag) h 0x0337 (ownShipQuery tag) s

/-- SHIP_QUERY (R164). -/
def execShipQuery (h : ReqHead) (tag : Tag) (s : State) : Out := .next (takeShipQuery h tag s)

end Sys2Proof.Machine
end

