-- ==== Sys2Proof/Machine/Link.lean ====
section
/-! DEFINITION. FRAME_ARRIVAL (R166 to R168, R185): a frame's bytes are judged and what they carry is taken exactly as the
command that stands for it. -/

namespace Sys2Proof.Machine

/-- The effect of the report or request that a frame carries; no frame carries an event of the part's own. -/
def takeMessage (i : Instr) (s : State) : State :=
  match i with
  | .powerOnReset => s
  | .frameArrival _ _ => s
  | .state e code => takeState e code s
  | .setupDone e kit temp => takeSetupDone e kit temp s
  | .loadDone e id rev checksum => takeLoadDone e id rev checksum s
  | .loadFail e id rev => takeLoadFail e id rev s
  | .goldenDone e mask => takeGoldenDone e mask s
  | .touchdown e q es => takeTouchdownFrame e q es s
  | .passEnd e pass fed last => takePassEnd e pass fed last s
  | .runCounts e fed trays => takeRunCounts e fed trays s
  | .setProfile h a => takeSetProfile h a s
  | .operate h => takeOperate h s
  | .setClock h t => takeSetClock h t s
  | .loadRoute h route product count steps => takeLoadRoute h route product count steps s
  | .loadLimits h set a => takeLoadLimits h set a s
  | .loadCell h cell tester handler cls => takeLoadCell h cell tester handler cls s
  | .lotAdd h tag route quantity cls split preempt => takeLotAdd h tag route quantity cls split preempt s
  | .lotPriority h tag cls => takeLotPriority h tag cls s
  | .lotHold h tag policy => takeLotHold h tag policy s
  | .lotRelease h tag kind pos => takeLotRelease h tag kind pos s
  | .lotScrap h tag => takeLotScrap h tag s
  | .lotRetire h tag => takeLotRetire h tag s
  | .lotQuery h tag => takeLotQuery h tag s
  | .runAbort h tag pos => takeRunAbort h tag pos s
  | .cellClear h cell => takeCellClear h cell s
  | .cellReset h cell => takeCellReset h cell s
  | .cellDrain h cell setting => takeCellDrain h cell setting s
  | .cellCountersClear h cell => takeCellCountersClear h cell s
  | .cellQuery h cell => takeCellQuery h cell s
  | .shipOpen h tag product grade maximum => takeShipOpen h tag product grade maximum s
  | .shipAdd h tag lot => takeShipAdd h tag lot s
  | .shipRemove h tag lot => takeShipRemove h tag lot s
  | .shipSeal h tag => takeShipSeal h tag s
  | .shipRelease h tag => takeShipRelease h tag s
  | .shipCancel h tag => takeShipCancel h tag s
  | .shipRetire h tag => takeShipRetire h tag s
  | .shipQuery h tag => takeShipQuery h tag s
  | .queueQuery h => takeQueueQuery h s
  | .status h => takeStatus h s
  | .floorReset h => takeFloorReset h s
  | .unknownRequest h kind => takeUnknownRequest h kind s
  | .heartbeatExpiry _ _ => s
  | .stageDeadlineExpiry _ => s
  | .closingDeadlineExpiry _ => s
  | .countsDeadlineExpiry _ => s
  | .aging _ => s
  | .transmitComplete _ => s

/-- A frame queued for the other port (R166, R170). -/
def forwardFrom (port : Port) (b : List Byte) (s : State) : State :=
  match port with
  | .c => forwardCF b s
  | .f => forwardFC b s

/-- A frame that arrives on a port (R166). -/
def takeFrame (port : Port) (b : List Byte) (s : State) : State :=
  match classify port s.profile.partStation b with
  | .discard => s
  | .forward => forwardFrom port b s
  | .report i => takeMessage i s
  | .request i => takeMessage i s
  | .badLength h kind => serveBad h kind s

/-- FRAME_ARRIVAL (R166). -/
def execFrameArrival (port : Port) (b : List Byte) (s : State) : Out := .next (takeFrame port b s)

end Sys2Proof.Machine
end

