-- ==== Sys2Proof/Machine/Timers.lean ====
section
/-! DEFINITION. The events of the part's own clock and transmitters: the expiries (R77, R108, R143, R150), aging (R117),
the completion of a transmission (R172), and the tick of a millisecond (R177). An expiry that is not due changes
nothing (notes/assumptions/1.md). -/

namespace Sys2Proof.Machine

/-- HEARTBEAT_EXPIRY for one station (R77, R78). -/
def execHeartbeatExpiry (c : CellIx) (role : Role) (s : State) : Out :=
  .next (if heartbeatDue s c role then enterLost c s else s)

/-- STAGE_DEADLINE_EXPIRY (R108, R79). -/
def execStageDeadlineExpiry (c : CellIx) (s : State) : Out :=
  .next (if deadlineDue s c DeadlineKind.isStage then enterDown c .timeout s else s)

/-- The kind CLOSING. -/
def DeadlineKind.isClosing : DeadlineKind → Bool
  | .closing => true
  | .changeover | .load | .golden | .counts => false

/-- The kind COUNTS. -/
def DeadlineKind.isCounts : DeadlineKind → Bool
  | .counts => true
  | .changeover | .load | .golden | .closing => false

/-- An expired deadline of RUN's taken from the cell. -/
def spendDeadline (c : CellIx) (s : State) : State := s.modCell c fun k => { k with deadline := none }

/-- The CLOSING deadline of a run expires (R143). -/
def closingExpired (r : RunIx) (s : State) : State :=
  if (s.run r).state = .closing then passClose r (raiseOnRun r .data none s) else s

/-- The COUNTS deadline of a run expires (R150). -/
def countsExpired (r : RunIx) (s : State) : State :=
  if (s.run r).state = .ending then closeRun r (raiseOnLot (s.run r).lot .recon none s) else s

/-- What an expired deadline of RUN's does to the cell's current run. -/
def onCurrent (c : CellIx) (f : RunIx → State → State) (s : State) : State :=
  match (s.cell c).current with
  | some r => f r s
  | none => s

/-- CLOSING_DEADLINE_EXPIRY (R143). -/
def execClosingDeadlineExpiry (c : CellIx) (s : State) : Out :=
  .next (if deadlineDue s c DeadlineKind.isClosing then onCurrent c closingExpired (spendDeadline c s) else s)

/-- COUNTS_DEADLINE_EXPIRY (R150). -/
def execCountsDeadlineExpiry (c : CellIx) (s : State) : Out :=
  .next (if deadlineDue s c DeadlineKind.isCounts then onCurrent c countsExpired (spendDeadline c s) else s)

/-- AGING (R117): the class lowered by one, the entry moved and the lot matched again. -/
def execAging (l : LotSlot) (s : State) : Out :=
  .next (if agingDue s l then matchLot l (queueMove l (ageLot l s)) else s)

/-- TRANSMIT_COMPLETE (R172): the port's transmitter finishes its frame and chooses the next. -/
def execTransmitComplete (port : Port) (s : State) : Out :=
  .next (match port with
    | .f => if s.txF.isSome then kickF { s with txF := none } else s
    | .c => if s.txC.isSome then kickC { s with txC := none } else s)

/-- One millisecond passes (R177): the floor clock wraps at 48 bits; the deadline timer ends the model at 64. -/
def tick (s : State) : Out :=
  if s.timer + 1 < Config.timerEnd then .next { s with floorClock := s.floorClock + 1, timer := s.timer + 1 }
  else .fault .deadlineTimerSpent

end Sys2Proof.Machine
end

