-- ==== Sys2Proof/Machine/Dispatch.lean ====
section
/-! DEFINITION. One meaning for each command: one arm for each row of spec/opcode_table.json. -/

namespace Sys2Proof.Machine

/-- The effect of a command on everything but the queue of commands. -/
def exec (i : Instr) (s : State) : Host.Outcome State Fault Refusal :=
  match i with
  | .powerOnReset => Sys2Proof.Machine.execPowerOnReset s
  | .frameArrival port frame => Sys2Proof.Machine.execFrameArrival port frame s
  | .state e code => Sys2Proof.Machine.execState e code s
  | .setupDone e kit temp => Sys2Proof.Machine.execSetupDone e kit temp s
  | .loadDone e id rev checksum => Sys2Proof.Machine.execLoadDone e id rev checksum s
  | .loadFail e id rev => Sys2Proof.Machine.execLoadFail e id rev s
  | .goldenDone e mask => Sys2Proof.Machine.execGoldenDone e mask s
  | .touchdown e seq entries => Sys2Proof.Machine.execTouchdown e seq entries s
  | .passEnd e pass fed last => Sys2Proof.Machine.execPassEnd e pass fed last s
  | .runCounts e fed trays => Sys2Proof.Machine.execRunCounts e fed trays s
  | .setProfile h a => Sys2Proof.Machine.execSetProfile h a s
  | .operate h => Sys2Proof.Machine.execOperate h s
  | .setClock h clock => Sys2Proof.Machine.execSetClock h clock s
  | .loadRoute h route product count steps => Sys2Proof.Machine.execLoadRoute h route product count steps s
  | .loadLimits h set a => Sys2Proof.Machine.execLoadLimits h set a s
  | .loadCell h cell tester handler cls => Sys2Proof.Machine.execLoadCell h cell tester handler cls s
  | .lotAdd h tag route quantity cls split preempt => Sys2Proof.Machine.execLotAdd h tag route quantity cls split preempt s
  | .lotPriority h tag cls => Sys2Proof.Machine.execLotPriority h tag cls s
  | .lotHold h tag policy => Sys2Proof.Machine.execLotHold h tag policy s
  | .lotRelease h tag kind position => Sys2Proof.Machine.execLotRelease h tag kind position s
  | .lotScrap h tag => Sys2Proof.Machine.execLotScrap h tag s
  | .lotRetire h tag => Sys2Proof.Machine.execLotRetire h tag s
  | .lotQuery h tag => Sys2Proof.Machine.execLotQuery h tag s
  | .runAbort h tag position => Sys2Proof.Machine.execRunAbort h tag position s
  | .cellClear h cell => Sys2Proof.Machine.execCellClear h cell s
  | .cellReset h cell => Sys2Proof.Machine.execCellReset h cell s
  | .cellDrain h cell setting => Sys2Proof.Machine.execCellDrain h cell setting s
  | .cellCountersClear h cell => Sys2Proof.Machine.execCellCountersClear h cell s
  | .cellQuery h cell => Sys2Proof.Machine.execCellQuery h cell s
  | .shipOpen h tag product grade maximum => Sys2Proof.Machine.execShipOpen h tag product grade maximum s
  | .shipAdd h tag lot => Sys2Proof.Machine.execShipAdd h tag lot s
  | .shipRemove h tag lot => Sys2Proof.Machine.execShipRemove h tag lot s
  | .shipSeal h tag => Sys2Proof.Machine.execShipSeal h tag s
  | .shipRelease h tag => Sys2Proof.Machine.execShipRelease h tag s
  | .shipCancel h tag => Sys2Proof.Machine.execShipCancel h tag s
  | .shipRetire h tag => Sys2Proof.Machine.execShipRetire h tag s
  | .shipQuery h tag => Sys2Proof.Machine.execShipQuery h tag s
  | .queueQuery h => Sys2Proof.Machine.execQueueQuery h s
  | .status h => Sys2Proof.Machine.execStatus h s
  | .floorReset h => Sys2Proof.Machine.execFloorReset h s
  | .unknownRequest h kind => Sys2Proof.Machine.execUnknownRequest h kind s
  | .heartbeatExpiry cell role => Sys2Proof.Machine.execHeartbeatExpiry cell role s
  | .stageDeadlineExpiry cell => Sys2Proof.Machine.execStageDeadlineExpiry cell s
  | .closingDeadlineExpiry cell => Sys2Proof.Machine.execClosingDeadlineExpiry cell s
  | .countsDeadlineExpiry cell => Sys2Proof.Machine.execCountsDeadlineExpiry cell s
  | .aging lot => Sys2Proof.Machine.execAging lot s
  | .transmitComplete port => Sys2Proof.Machine.execTransmitComplete port s

end Sys2Proof.Machine
end

