-- ==== Sys2Proof/Safety.lean ====
section
/-! DEFINITION. What the statements call a good state: the bounds that the manual gives the part's lists and the order of
its queue, each a decidable predicate on State. -/

namespace Sys2Proof.Machine

/-- The notices in the outbound list. -/
def noticesWaiting (s : State) : Nat := s.outbound.countP fun o => !o.isResponse

/-- The lists of the two ports hold no more than the manual allows, and the notice count counts the notices that wait
(Chapter 9, R170, R171, R173, R179). -/
def State.linksOk (s : State) : Prop :=
  s.fwdCF.length ≤ Config.forwardCapacity ∧ s.fwdFC.length ≤ Config.forwardCapacity
    ∧ s.orders.length ≤ Config.orderCapacity ∧ s.noticeCount = noticesWaiting s
    ∧ s.noticeCount ≤ Config.noticeCapacity ∧ responsesWaiting s ≤ Config.responseCapacity

/-- An idle transmitter leaves nothing waiting for its port (R172). -/
def State.portsBusy (s : State) : Prop :=
  (s.txF = none → s.outbound = [] ∧ s.fwdCF = []) ∧ (s.txC = none → s.orders = [] ∧ s.fwdFC = [])

/-- A route within the ranges that LOAD_ROUTE lets in (R30, R37). -/
def Step.inRange (st : Step) : Prop :=
  -55 ≤ st.setpoint ∧ st.setpoint ≤ 175 ∧ 1 ≤ st.siteCount ∧ st.siteCount ≤ 16 ∧ 1 ≤ st.minSites
    ∧ st.minSites ≤ st.siteCount ∧ 1 ≤ st.maxRuns ∧ st.maxRuns ≤ 4 ∧ st.maxRetest ≤ 3

/-- A limit set within the ranges that the clamps leave (R39, R40). -/
def LimitSet.inRange (x : LimitSet) : Prop :=
  x.ymin ≤ 10000 ∧ x.ywin ≤ 10000 ∧ x.dmax ≤ 10000 ∧ x.yfinal ≤ 10000 ∧ (∀ h : Fin 15, x.fmax[h] ≤ 10000)
    ∧ 1 ≤ x.nmin ∧ 1 ≤ x.nsite ∧ 4 ≤ x.w ∧ x.w ≤ 32

/-- Every route and every limit set is within its ranges (R30, R37, R39, R40). -/
def State.tablesOk (s : State) : Prop :=
  (∀ i, (s.route i).steps.length ≤ 6 ∧ ∀ st ∈ (s.route i).steps, st.inRange) ∧ ∀ i, (s.limit i).inRange

/-- The figures of a lot's step within their bounds (R57). -/
def StepFigures.bounded (f : StepFigures) : Prop :=
  f.good ≤ f.tested ∧ f.tested ≤ Config.max24 ∧ (∀ h : Fin 15, f.bins[h] ≤ f.tested)
    ∧ f.goodFinal ≤ Config.max24 ∧ f.fedSum ≤ Config.max24 ∧ ∀ g : Fin 4, f.gradeSums[g] ≤ Config.max24

/-- A site's figures within their bounds (R57). -/
def SiteFigures.bounded (f : SiteFigures) : Prop := f.fail ≤ f.tested ∧ f.tested ≤ Config.max24 ∧ f.streak ≤ 255

/-- A ring entry as R63 makes it: 1 to 16 tested units, the good among them. -/
def RingEntry.bounded (e : RingEntry) : Prop := 1 ≤ e.tested ∧ e.tested ≤ 16 ∧ e.good ≤ e.tested

/-- The figures of a run within their bounds (R57, R63, R69, Table 7-1). -/
def Run.bounded (x : Run) : Prop :=
  x.good ≤ x.tested ∧ x.tested ≤ Config.max24 ∧ (∀ i : Fin 16, x.sites[i].bounded)
    ∧ x.ring.length ≤ 32 ∧ (∀ e ∈ x.ring, e.bounded) ∧ (∀ t : Fin 8, x.ledger[t] ≤ Config.max24)
    ∧ x.outstanding ≤ Config.max24 ∧ x.shortfall ≤ Config.max24 ∧ x.surplus ≤ Config.max24
    ∧ x.recovered ≤ Config.max24 ∧ x.sinceGolden ≤ 65535 ∧ x.pass ≤ 3

/-- Every figure of every lot and run within its bounds (R57). -/
def State.figuresOk (s : State) : Prop := (∀ l, (s.lot l).figures.bounded) ∧ ∀ r, (s.run r).bounded

/-- A hold list as R7 keeps it: no two records of one kind and position, and a position exactly for the run-scope kinds
of Table 1-5. -/
def Lot.holdsOk (x : Lot) : Prop :=
  x.holds.Pairwise (fun a b => a.kind ≠ b.kind ∨ a.pos ≠ b.pos) ∧ ∀ h ∈ x.holds, h.pos.isNone = h.kind.isLot

/-- Every hold list is as R7 keeps it. -/
def State.holdsOk (s : State) : Prop := ∀ l, (s.lot l).holdsOk

/-- An accumulator set within 40 bits (R91). -/
def Accumulators.bounded (a : Accumulators) : Prop :=
  a.productive ≤ Config.max40 ∧ a.setup ≤ Config.max40 ∧ a.stopped ≤ Config.max40 ∧ a.down ≤ Config.max40
    ∧ a.idle ≤ Config.max40

/-- A cell's counters and temperature within their bounds (R79, R91, R100). -/
def Cell.bounded (k : Cell) : Prop :=
  k.downCount ≤ 15 ∧ k.acc.bounded ∧ ∀ t ∈ k.temp, -55 ≤ t ∧ t ≤ 175

/-- Every cell within its bounds. -/
def State.cellsOk (s : State) : Prop := ∀ c, (s.cell c).bounded

/-- The dispatch queue holds no lot twice, and no sequence reaches the value that is never given (R114, R115). -/
def State.queueOk (s : State) : Prop :=
  s.queue.Nodup ∧ s.seqCounter ≤ Config.maxSequence ∧ ∀ l, (s.lot l).queueSeq < Config.maxSequence

/-- A shipment whose quantity is the sum of its members' and within its maximum, with room for its members (R155). -/
def Shipment.balanced (x : Shipment) : Prop :=
  x.quantity = (x.members.map (·.quantity)).sum ∧ x.quantity ≤ x.maximum ∧ x.members.length ≤ Config.memberCapacity

/-- Every shipment balances, and no two that are not VACANT carry one tag (R154, R155). -/
def State.shipsOk (s : State) : Prop :=
  (∀ n, (s.ship n).balanced) ∧
    ∀ m n, (s.ship m).state ≠ .vacant → (s.ship n).state ≠ .vacant → (s.ship m).tag = (s.ship n).tag → m = n

/-- No station stands in the index twice, and each entry names a configured cell that holds the station in that role
(R73). -/
def State.stationsOk (s : State) : Prop :=
  (s.stations.map (·.station)).Nodup ∧
    ∀ e ∈ s.stations, (s.cell e.cell).configured = true ∧ (s.cell e.cell).station e.role = some e.station

/-- No two lot records that are not VACANT carry one tag (R1). -/
def State.lotTagsOk (s : State) : Prop :=
  ∀ i j, (s.lot i).state ≠ .vacant → (s.lot j).state ≠ .vacant → (s.lot i).tag = (s.lot j).tag → i = j

/-- WAITING, RUNNING, HELD or FINISHED: the lots that a route's reference count counts (R5). -/
def LotState.counted : LotState → Bool
  | .waiting | .running | .held | .finished => true
  | .vacant | .released | .scrapped => false

/-- Every route's reference count is the number of lot records in those states that use it (R5). -/
def State.refsOk (s : State) : Prop :=
  ∀ i, (s.route i).refs = (List.finRange 256).countP fun l => (s.lot l).state.counted && (s.lot l).route == i

/-- The answer of a step that is a next state. -/
def nextOf : Out → Option State
  | .next s => some s
  | .fault _ => none
  | .refused _ => none

/-! ## Words of the statements -/

/-- The header of a request; none for a report or an event. -/
def requestHead (i : Instr) : Option ReqHead := i.requestParts.map (·.1)

/-- A request that finds room for its response (R173) and passes orders 1 and 2 of R174. -/
def admitted (i : Instr) (h : ReqHead) (s : State) : Prop :=
  responsesWaiting s < 64 ∧ h.src = s.profile.floorHost ∧ i.wf = true

/-- A request that finds the part in OPERATE and passes orders 1 and 2 of R174. -/
def inOperate (i : Instr) (h : ReqHead) (s : State) : Prop := admitted i h s ∧ s.phase = .operate

/-- A well-formed report that arrives in OPERATE from the station of cell `c` in role `role` (R73, R167). -/
def fromStation (i : Instr) (e : Envelope) (c : CellIx) (role : Role) (s : State) : Prop :=
  i.wf = true ∧ s.phase = .operate ∧ findStation s e.src = some (c, role)

/-- The state in which such a report meets its owning block: queued for forwarding where R167 and R169 send it, and its
station heard (R73). -/
def metBy (i : Instr) (e : Envelope) (c : CellIx) (role : Role) (s : State) : State :=
  hear c role (forwardReport i e (i.kindCode == some 0x0106) s)

/-- A cell that, IDLE, is given no run: it is draining, or no queued lot is compatible with it (R118, R119). -/
def nothingFor (c : CellIx) (s : State) : Prop :=
  (s.cell c).draining = true ∨ ∀ l ∈ s.queue, compatible (s.cell c) (stepOf s (s.lot l)) = false

/-- No cell is eligible for a step (R118). -/
def noCellFor (st : Step) (s : State) : Prop :=
  ∀ c, eligible (s.cell c) = true → compatible (s.cell c) st = false

/-- A lot of this class and flag finds no cell to preempt (R124, R125). -/
def noCandidateFor (cls : Nat) (preempt : Bool) (st : Step) (s : State) : Prop :=
  cls = 0 → preempt = true → ∀ c, preemptable s st c = false

/-- A lot's place in or out of the dispatch queue is what R6 says. -/
def inPlace (l : LotSlot) (s : State) : Prop := s.queue.contains l = belongsInQueue (s.lot l)

/-- The run list of a lot names no open run. -/
def Lot.idle (x : Lot) : Prop := ∀ p, x.openAt p = none

/-- `r` is the one open run of lot `l`, at position `p`, and its record says so (R3). -/
def onlyRun (l : LotSlot) (p : RunPlace) (r : RunIx) (s : State) : Prop :=
  (∀ q, (s.lot l).openAt q = if q = p then some r else none) ∧ (s.run r).lot = l ∧ (s.run r).pos = p

/-- The record of a hold of this kind and position raised on a lot now (R8). -/
def newHold (s : State) (l : LotSlot) (k : HoldKind) (pos : Option RunPlace) (policy : Policy) (value : Option Nat) :
    Hold :=
  { kind := k, pos := pos, policy := policy, step := (s.lot l).step, floorTime := s.floorClock, value := value }

/-- A fault of a cell brings its down counter to the escalation limit (R79). -/
def escalates (k : Cell) (s : State) : Bool :=
  0 < s.profile.escalation && min 15 (k.downCount + 1) == s.profile.escalation

/-- The deadline that a discarded preparation leaves: the stage deadline is cancelled, a set-aside one armed again with
its remaining time (R107, R112). -/
def deadlineLeft (k : Cell) (s : State) : Option Deadline :=
  match k.prep.bind (·.setAside) with
  | some a => some ⟨a.kind, s.timer + a.remaining⟩
  | none => k.deadline.filter fun d => d.kind == .closing || d.kind == .counts

/-- The record of a cell with record `k` after a fault, where it has a preparation in hand other than a golden check, or
none and no stage deadline: DOWN with the fault's cause, or QUARANTINED when the fault escalates (R79, R80, R85, R112). -/
def faulted (k : Cell) (cause : Cause) (s : State) : Cell :=
  { k with
    downCount := min 15 (k.downCount + 1)
    state := if escalates k s then .quarantined else .down
    cause := some (if escalates k s then .escalation else cause)
    since := s.timer
    acc := k.accNow s.timer
    changed := true
    goldenValid := false
    prep := none
    deadline := deadlineLeft k s
    repTester := if cause.silences && !escalates k s then none else k.repTester
    repHandler := if cause.silences && !escalates k s then none else k.repHandler }

/-- The notice of such a fault (R93). -/
def faultNotice (c : CellIx) (k : Cell) (cause : Cause) (s : State) : Notice :=
  if escalates k s then .cellChanged c .quarantined (some .escalation) else .cellChanged c .down (some cause)

/-- A cell that a fault interrupts without a withdrawal: no run is reserved, and the current run, if any, is started. -/
def noWithdrawal (k : Cell) (s : State) : Prop :=
  k.reserved = none ∧ ∀ r ∈ k.current, (s.run r).state ≠ .assigned

/-- What a stage deadline sets aside: a deadline of RUN's that it finds active, with its remaining time (R107). -/
def setAsideOf (k : Cell) (s : State) : Option SetAside := k.deadline.map fun d => ⟨d.kind, d.expiry - s.timer⟩

/-- The context that a preparation for run `r` has in its first stage (R95, R97, R99, R103). -/
def firstContext (r : RunIx) (purpose : Purpose) (origin : Origin) (stage : Stage) (planned : Bool) (st : Step) (k : Cell)
    (s : State) : Prep where
  purpose := purpose
  origin := origin
  target := some r
  stage := stage
  goldenPlanned := planned
  goldenTaken := false
  orderedKit := if stage = .changeover then some st.kit else none
  orderedTemp := if stage = .changeover then some st.setpoint else none
  goldenSites := if stage = .golden then some st.siteCount else none
  goldenMin := if stage = .golden then some st.minSites else none
  setAside := setAsideOf k s

/-- Cell `k`, in another state, as a preparation leaves it that begins with a golden check (R97, R103, R107). -/
def checking (k : Cell) (r : RunIx) (purpose : Purpose) (origin : Origin) (st : Step) (s : State) : Cell :=
  { k with
    prep := some (firstContext r purpose origin .golden true st k s)
    deadline := some ⟨.golden, s.timer + 1000 * s.profile.golden⟩
    state := .golden, cause := none, since := s.timer, acc := k.accNow s.timer }

/-- Cell `k`, in another state, as a preparation leaves it that begins with a changeover (R97, R99, R107). -/
def changingOver (k : Cell) (r : RunIx) (origin : Origin) (planned : Bool) (st : Step) (s : State) : Cell :=
  { k with
    prep := some (firstContext r .return origin .changeover planned st k s)
    deadline := some ⟨.changeover, s.timer + 1000 * st.changeoverLimit⟩
    state := .changeover, cause := none, since := s.timer, acc := k.accNow s.timer }

/-- Cell `k`, in another state, gone RUNNING with no preparation in hand (R91, R109). -/
def backAtWork (k : Cell) (s : State) : Cell :=
  { k with prep := none, state := .running, cause := none, since := s.timer, acc := k.accNow s.timer }

/-- A deadline of a cell, if any, is one of RUN's (R107). -/
def runDeadline (k : Cell) : Prop := ∀ d ∈ k.deadline, d.kind = .closing ∨ d.kind = .counts

/-- The cell has the setup and the sites that the step asks for, so that only a golden check may be left to do (R96,
R97). -/
def setUpFor (k : Cell) (st : Step) : Prop := setupCost k st = 0 ∧ st.minSites ≤ siteNumber (usableSites k st)

/-- Aging is off, or gives a lot nothing at its entry to the queue (R117). -/
def notAging (x : Lot) (s : State) : Prop :=
  s.profile.aging = 0 ∨ x.cls ≤ 1 ∨ 4 ≤ x.cls ∨ s.timer < x.classSince + s.profile.aging * 60000

/-- No check of a limit set is made, and none is asked for by the golden interval (R41, R69). -/
def checksOff (x : LimitSet) (st : Step) : Prop :=
  x.cmax = 0 ∧ x.ywin = 0 ∧ x.dmax = 10000 ∧ (∀ h : Fin 15, x.fmax[h] = 10000) ∧ x.ymin = 0 ∧ st.goldenInterval = 0

end Sys2Proof.Machine
end

