-- ==== Sys2Proof/Certificates/Slice0/Obligations.lean ====
section
/-! DEFINITION. The statements for the provers, one Prop each. `respond h kind r` is the state in which the reply `r`
has been put on the outbound list (ListsTakeWhatIsMade says what it does); `metBy i e c role s` is the state in which
a report meets its owner (ReportsAreHeard): forwarded and heard first, which is the model's reading of what R170 and
R172 leave unordered (notes/assumptions/13.md), and every statement that speaks of `metBy` rests on it. An equation
`exec i s = .next t` says the whole of the next state: what `t` does not write is unchanged. -/

open Sys2Proof Sys2Proof.Machine

/-! ## The block -/

/-- A step takes the command at the front of the queue and runs it on the queue's rest. -/
def Obligations.StepRunsTheFrontCommand : Prop :=
  ∀ (i : Instr) (rest : List Instr) (s : State),
    step { s with pending := i :: rest } = exec i { s with pending := rest }

/-- THE MODEL'S CHOICE (notes/assumptions/1.md): a step on an empty queue is one millisecond of both clocks of R177,
the floor clock passing from 281,474,976,710,655 to 0; the 64-bit deadline timer stops the model at its end
(notes/assumptions/24.md). Events of the part's own that are not due, and a completion on an idle port, change
nothing. -/
def Obligations.IdleStepsTickTheClocks : Prop :=
  (∀ s : State, s.pending = [] → s.timer + 1 < 2 ^ 64 →
      step s = .next { s with floorClock := s.floorClock + 1, timer := s.timer + 1 })
    ∧ (∀ s : State, s.pending = [] → 2 ^ 64 ≤ s.timer + 1 → step s = .fault .deadlineTimerSpent)
    ∧ (∀ t : FloorTime, (t + 1).toNat = if t.toNat = 281474976710655 then 0 else t.toNat + 1)
    ∧ (∀ (c : CellIx) (role : Role) (s : State), heartbeatDue s c role = false →
      exec (.heartbeatExpiry c role) s = .next s)
    ∧ (∀ (c : CellIx) (s : State), (∀ d ∈ (s.cell c).deadline, s.timer < d.expiry) →
      exec (.stageDeadlineExpiry c) s = .next s ∧ exec (.closingDeadlineExpiry c) s = .next s
        ∧ exec (.countsDeadlineExpiry c) s = .next s)
    ∧ (∀ (l : LotSlot) (s : State), s.timer < (s.lot l).classSince + s.profile.aging * 60000 →
      exec (.aging l) s = .next s)
    ∧ (∀ s : State, s.txF = none → exec (.transmitComplete .f) s = .next s)
    ∧ ∀ s : State, s.txC = none → exec (.transmitComplete .c) s = .next s

/-- Every command, whatever its operands, completes in every state, and leaves the commands that wait behind it. -/
def Obligations.EveryCommandCompletes : Prop :=
  ∀ (i : Instr) (s : State), ∃ t, exec i s = .next t ∧ t.pending = s.pending

/-- A power-on reset gives every block the values that R181 lists: every record of the lots (R2), the runs (R135), the
cells (R72, R95), the routes (R29), the limit sets (R38) and the shipments (R154) whole, the profile of Table 10-4,
the clocks, the lists and the transmitters. -/
def Obligations.PowerOnResetValues : Prop :=
  ∀ s : State, ∃ t, exec .powerOnReset s = .next t
    ∧ t.phase = .config
    ∧ t.profile = { partStation := 65534, floorHost := 1, cellsInUse := 64, heartbeat := 10, load := 120, golden := 60,
                    closing := 5, counts := 60, goldenAfterDown := true, aging := 30, lookahead := 4, escalation := 3,
                    forwardResults := true }
    ∧ t.floorClock = 0 ∧ t.timer = 0 ∧ t.outbound = [] ∧ t.noticeCount = 0 ∧ t.gapFlag = false
    ∧ t.fwdCF = [] ∧ t.fwdFC = [] ∧ t.orders = [] ∧ t.txF = none ∧ t.txC = none
    ∧ t.queue = [] ∧ t.seqCounter = 0 ∧ t.stations = []
    ∧ (∀ i, t.route i = { product := 0, steps := [], refs := 0 })
    ∧ (∀ i, t.limit i =
        { loaded := false, ymin := 0, nmin := 1, fmax := Vector.replicate 15 10000, ywin := 0, w := 4, nsite := 1,
          dmax := 10000, cmax := 0, yfinal := 0, trayTol := 0, inputTol := 0, polYield := .stop, polBin := .stop,
          polWindow := .stop, polSite := .stop, polConsec := .stop })
    ∧ (∀ l, t.lot l =
        { tag := 0, route := 0, state := .vacant, step := 0, split := 0, runsPerStep := 0, cls := 0, classSince := 0
          preempt := false, queueSeq := 0, started := 0, q := 0, toAssign := 0, runs := Vector.replicate 4 .absent
          closedRuns := 0, stepStarted := false
          figures := { tested := 0, good := 0, bins := Vector.replicate 15 0, goodFinal := 0, fedSum := 0,
                       gradeSums := Vector.replicate 4 0 }
          yieldWaived := false, binWaived := false, stepClosed := false, routeComplete := false
          gradeQty := Vector.replicate 4 0, marks := Vector.replicate 4 .free, holds := [] })
    ∧ (∀ r, t.run r =
        { lot := 0, pos := 0, cell := 0, state := .free, stoppedFrom := none, suspendedFrom := none, pass := 0
          tested := 0, good := 0, recovered := 0, sites := Vector.replicate 16 ⟨0, 0, 0⟩, ring := []
          ledger := Vector.replicate 8 0, outstanding := 0, shortfall := 0, surplus := 0, handlerFed := none
          target := none, targetReached := false, sinceGolden := 0, startTime := none })
    ∧ (∀ c, t.cell c =
        { configured := false, tester := none, handler := none, cls := 0, state := .offline, cause := none, since := 0
          repTester := none, repHandler := none, heardTester := none, heardHandler := none, clearTime := none
          downCount := 0, draining := false, current := none, reserved := none, stack := [], changed := false
          kit := none, temp := none, program := none, golden := ⟨0, .none, 0⟩, goldenValid := false, enabled := 0
          deadline := none, expected := none, acc := ⟨0, 0, 0, 0, 0⟩, prep := none, lastLoad := none })
    ∧ ∀ n, t.ship n = { tag := 0, product := 0, grade := 0, maximum := 0, quantity := 0, state := .vacant, members := [] }

/-- The state after reset meets every invariant stated below. -/
def Obligations.ResetMeetsTheInvariants : Prop :=
  State.reset.linksOk ∧ State.reset.portsBusy ∧ State.reset.tablesOk ∧ State.reset.figuresOk ∧ State.reset.holdsOk
    ∧ State.reset.cellsOk ∧ State.reset.queueOk ∧ State.reset.shipsOk ∧ State.reset.stationsOk ∧ State.reset.lotTagsOk
    ∧ State.reset.refsOk

/-! ## The floor link (Chapters 9 and 11) -/

/-- R166, R167, R168, R185: an arriving frame is discarded, or queued whole for the other port, by its length, its
frame check, its type, its message check and its destination, whatever else it says. R183, R184, R186: an own order,
notice or response leaves as one frame that passes these checks: broadcast, from the port's address, of the
floor-message type, with version 1, its class, kind, stations, tag (0 but in a response) and body length, a notice's
body with its floor time and gap marker first and a response's with its status first, padded with zeros to 64 bytes.
(The frame check sequence is read and written most significant byte first: the model's reading,
notes/assumptions/4.md. A destination of 0 or 65535 counts as another station: its reading too,
notes/assumptions/34.md. The port's address is a free value: notes/assumptions/2.md.) -/
def Obligations.FramesGoByTheirChecks : Prop :=
  (∀ (port : Port) (b : List Byte) (s : State),
    let good : Prop := 64 ≤ b.length ∧ b.length ≤ 9018 ∧ crc32 (b.take (b.length - 4)) = fieldAt 32 b (b.length - 4) 4
    let m := payload b
    (¬ good → exec (.frameArrival port b) s = .next s)
    ∧ (good → fieldAt 16 b 12 2 ≠ 0x88B5 → exec (.frameArrival port b) s = .next (forwardFrom port b s))
    ∧ (good → fieldAt 16 b 12 2 = 0x88B5 → messageCheckOk m = false → exec (.frameArrival port b) s = .next s)
    ∧ (good → fieldAt 16 b 12 2 = 0x88B5 → messageCheckOk m = true →
        (fieldAt 16 m 4 2 ≠ s.profile.partStation →
          exec (.frameArrival .f b) s = .next (forwardFC b s)
          ∧ ((numAt m 0 1 ≠ 1 ∨ numAt m 1 1 ≠ 1 ∨ numAt m 2 2 < 0x0101 ∨ 0x0108 < numAt m 2 2) →
            exec (.frameArrival .c b) s = .next (forwardCF b s)))
        ∧ (fieldAt 16 m 4 2 = s.profile.partStation →
          ((numAt m 0 1 ≠ 1 ∨ numAt m 1 1 ≠ 3) → exec (.frameArrival .f b) s = .next s)
          ∧ ((numAt m 0 1 ≠ 1 ∨ numAt m 1 1 ≠ 1 ∨ numAt m 2 2 < 0x0101 ∨ 0x0108 < numAt m 2 2) →
            exec (.frameArrival .c b) s = .next s))))
  ∧ ∀ (port : Port) (f : TxFrame) (cls : Nat) (kind dst src tag : BitVec 16) (body : List Byte),
    (match f with
      | .order o => cls = 2 ∧ kind = o.order.kind ∧ dst = o.dst ∧ src = o.src ∧ tag = 0 ∧ body = o.order.body
      | .notice n gap => cls = 5 ∧ kind = n.notice.kind ∧ dst = n.dst ∧ src = n.src ∧ tag = 0
        ∧ numAt body 0 6 = n.floorTime.toNat ∧ numAt body 6 1 = (if gap then 1 else 0)
        ∧ body.drop 7 = n.notice.fields ∧ 7 ≤ body.length
      | .response r => cls = 4 ∧ kind = r.kind ∧ dst = r.dst ∧ src = r.src ∧ tag = r.tag
        ∧ body = BitVec.ofNat 8 r.status.code :: r.data
      | .forwarded _ => False) → body.length ≤ 4096 →
    let b := f.bytes port
    let m := payload b
    b.length = max 64 (34 + body.length)
    ∧ crc32 (b.take (b.length - 4)) = fieldAt 32 b (b.length - 4) 4
    ∧ numAt b 0 6 = 0xFFFFFFFFFFFF ∧ fieldAt 48 b 6 6 = Config.portAddress port ∧ numAt b 12 2 = 0x88B5
    ∧ messageCheckOk m = true
    ∧ numAt m 0 1 = 1 ∧ numAt m 1 1 = cls ∧ fieldAt 16 m 2 2 = kind ∧ fieldAt 16 m 4 2 = dst ∧ fieldAt 16 m 6 2 = src
    ∧ numAt m 8 2 = body.length ∧ fieldAt 16 m 10 2 = tag
    ∧ m.drop 16 = body ++ List.replicate (30 - body.length) 0

/-- R167, R183 to R185: the frame that carries a well-formed report, arriving on Port C, has exactly the effect of the
command that stands for the report, with every field of its body read back as it was written. (The check sequence of
the frame stands most significant byte first: the model's reading, notes/assumptions/4.md.) -/
def Obligations.ReportFramesCarryTheirReports : Prop :=
  ∀ (i : Instr) (b : List Byte) (s : State), i.wf = true → i.reportFrame = some b →
    exec (.frameArrival .c b) s = exec i s

/-- R168, R174, R183 to R185: a frame that carries a well-formed request to the part, arriving on Port F, has exactly
the effect of the command that stands for the request. (Of the frames that do, `Instr.requestFrame` writes one: the
model's choice, notes/assumptions/21.md; its check sequence stands most significant byte first: the model's reading,
notes/assumptions/4.md.) -/
def Obligations.RequestFramesCarryTheirRequests : Prop :=
  ∀ (i : Instr) (b : List Byte) (s : State), i.wf = true → i.requestFrame s.profile.partStation = some b →
    exec (.frameArrival .f b) s = exec i s

/-- R170, R171: a frame to forward joins its queue behind the others, or is dropped at 64; an order joins the order
list, or is not sent at 256; an order to both stations makes the tester's frame, then the handler's, each to the
station that the cell record holds. On an idle transmitter with nothing waiting the frame begins to leave at once.
R179: a posted notice is stamped with the floor clock and appended while fewer than 128 wait; at 128 it is lost and
the gap flag set, and nothing else changes. R173, R186: the response joins the outbound list behind everything in it,
to the request's source, from the part station, with the request's tag, and with the request's kind as received for
DENIED and BAD_ARG, the response kind otherwise; when Port F is idle and nothing waits, it begins to leave at once.
(The model's readings: a notice goes to the floor host station, notes/assumptions/6.md; the start on an idle port
falls within the command, notes/assumptions/13.md; DENIED and BAD_ARG carry the request's kind unchanged and every
other status the kind plus 0x0100, notes/assumptions/14.md.) -/
def Obligations.ListsTakeWhatIsMade : Prop :=
  ((∀ (b : List Byte) (s : State) (x : TxFrame), s.txF = some x →
      forwardCF b s = if s.fwdCF.length < 64 then { s with fwdCF := s.fwdCF ++ [b] } else s)
    ∧ (∀ (b : List Byte) (s : State) (x : TxFrame), s.txC = some x →
      forwardFC b s = if s.fwdFC.length < 64 then { s with fwdFC := s.fwdFC ++ [b] } else s)
    ∧ (∀ (b : List Byte) (s : State), s.txF = none → s.outbound = [] → s.fwdCF = [] →
      forwardCF b s = { s with txF := some (.forwarded b) })
    ∧ (∀ (b : List Byte) (s : State), s.txC = none → s.orders = [] → s.fwdFC = [] →
      forwardFC b s = { s with txC := some (.forwarded b) })
    ∧ (∀ (c : CellIx) (o : Order) (s : State) (x : TxFrame) (t h : Station), s.txC = some x →
      (s.cell c).tester = some t → (s.cell c).handler = some h →
      let toTester : OrderFrame := ⟨t, s.profile.partStation, o⟩
      let toHandler : OrderFrame := ⟨h, s.profile.partStation, o⟩
      sendOrder c .tester o s = (if s.orders.length < 256 then { s with orders := s.orders ++ [toTester] } else s)
      ∧ sendOrder c .handler o s = (if s.orders.length < 256 then { s with orders := s.orders ++ [toHandler] } else s)
      ∧ (s.orders.length < 255 → sendBoth c o s = { s with orders := s.orders ++ [toTester, toHandler] }))
    ∧ ∀ (o : OrderFrame) (s : State), s.txC = none → s.orders = [] →
      appendOrder o s = { s with txC := some (.order o) })
  ∧ (∀ (n : Notice) (s : State),
    let f : NoticeFrame :=
      { dst := s.profile.floorHost, src := s.profile.partStation, floorTime := s.floorClock, notice := n }
    (∀ x, s.noticeCount < 128 → s.txF = some x →
      postNotice n s = { s with outbound := s.outbound ++ [.notice f], noticeCount := s.noticeCount + 1 })
    ∧ (s.noticeCount < 128 → s.txF = none → s.outbound = [] →
      postNotice n s = { s with txF := some (.notice f s.gapFlag), gapFlag := false })
    ∧ (128 ≤ s.noticeCount → postNotice n s = { s with gapFlag := true }))
  ∧ (∀ (h : ReqHead) (kind : BitVec 16) (r : Reply),
    let t := r.state
    let made : Response :=
      { dst := h.src, src := t.profile.partStation,
        kind := if r.status = .denied ∨ r.status = .badArg then kind else kind + 0x0100,
        tag := h.tag, status := r.status, data := r.data }
    (∀ x, t.txF = some x → respond h kind r = { t with outbound := t.outbound ++ [.response made] })
    ∧ (t.txF = none → t.outbound = [] → respond h kind r = { t with txF := some (.response made) }))

/-- R172: a transmitter that finishes a frame takes the oldest own frame, else the oldest frame to forward, else stays
idle, and chooses again when a frame is made or appended; no frame that is made or appended interrupts one once begun.
R179, R180: a notice that begins to leave lowers the notice count, carries the gap flag as its marker and clears it; a
notice posted below 128 to an idle port with nothing waiting begins to leave with that marker. (That an idle port
begins the frame within the command that makes or appends it is the model's reading, notes/assumptions/13.md.) -/
def Obligations.TransmittersChooseTheNextFrame : Prop :=
  (∀ (s : State) (x : TxFrame), s.txF = some x →
      exec (.transmitComplete .f) s = .next
        (match s.outbound, s.fwdCF with
        | .response r :: rest, _ => { s with txF := some (.response r), outbound := rest }
        | .notice n :: rest, _ =>
            { s with txF := some (.notice n s.gapFlag), outbound := rest, noticeCount := s.noticeCount - 1,
                     gapFlag := false }
        | [], b :: rest => { s with txF := some (.forwarded b), fwdCF := rest }
        | [], [] => { s with txF := none }))
    ∧ (∀ (s : State) (x : TxFrame), s.txC = some x →
      exec (.transmitComplete .c) s = .next
        (match s.orders, s.fwdFC with
        | o :: rest, _ => { s with txC := some (.order o), orders := rest }
        | [], b :: rest => { s with txC := some (.forwarded b), fwdFC := rest }
        | [], [] => { s with txC := none }))
    ∧ (∀ (s : State) (b : List Byte), s.txF = none → s.outbound = [] → s.fwdCF = [] →
      (forwardCF b s).txF = some (.forwarded b)
        ∧ (∀ r, (appendResponse r s).txF = some (.response r))
        ∧ ∀ n, s.noticeCount < 128 → ∃ f, (postNotice n s).txF = some (.notice f s.gapFlag) ∧ f.notice = n)
    ∧ (∀ (s : State) (b : List Byte), s.txC = none → s.orders = [] → s.fwdFC = [] →
      (forwardFC b s).txC = some (.forwarded b) ∧ ∀ o, (appendOrder o s).txC = some (.order o))
    ∧ (∀ (s : State) (x : TxFrame) (b : List Byte), s.txF = some x →
      (forwardCF b s).txF = some x ∧ (∀ r, (appendResponse r s).txF = some x) ∧ ∀ n, (postNotice n s).txF = some x)
    ∧ ∀ (s : State) (x : TxFrame) (b : List Byte), s.txC = some x →
      (forwardFC b s).txC = some x ∧ ∀ o, (appendOrder o s).txC = some x

/-! ## Requests, the profile and the tables (Chapters 2, 4 and 10) -/

/-- R173, R174: a request that finds 64 responses waiting is discarded; else it is answered with the first refusal
that applies: DENIED for its source, BAD_ARG for its kind or length, WRONG_STATE and LOCKED for the phase; a refused
request changes nothing. (Some commands stand for no frame: an UNKNOWN_REQUEST of a known kind code, and arguments
that disagree with the length named. That they are answered BAD_ARG too is the model's choice,
notes/assumptions/20.md; the kind that `respond` gives the answer is notes/assumptions/14.md.) -/
def Obligations.RequestsAreJudgedInOrder : Prop :=
  ∀ (i : Instr) (h : ReqHead) (kind : BitVec 16) (s : State), requestHead i = some h → i.kindCode = some kind →
    (64 ≤ responsesWaiting s → exec i s = .next s)
    ∧ (responsesWaiting s < 64 → h.src ≠ s.profile.floorHost →
        exec i s = .next (respond h kind (refuse .denied s)))
    ∧ (responsesWaiting s < 64 → h.src = s.profile.floorHost → ((∃ k, i = .unknownRequest h k) ∨ i.wf = false) →
        exec i s = .next (respond h kind (refuse .badArg s)))
    ∧ (admitted i h s → (∀ k, i ≠ .unknownRequest h k) →
        (s.phase = .config → kind.toNat ∉ [0x0301, 0x0302, 0x0303, 0x0304, 0x0305, 0x0306, 0x0341] →
          exec i s = .next (respond h kind (refuse .wrongState s)))
        ∧ (s.phase = .operate → kind = 0x0301 → exec i s = .next (respond h kind (refuse .locked s))))

/-- R1, R154: where no two live records carry one tag, a tag finds the record that carries it and no other. -/
def Obligations.TagsFindTheirRecords : Prop :=
  (∀ (s : State) (t : Tag), s.lotTagsOk →
      (∀ l, findLot s t = some l ↔ (s.lot l).state ≠ .vacant ∧ (s.lot l).tag = t)
      ∧ (findLot s t = none ↔ ∀ l, (s.lot l).state = .vacant ∨ (s.lot l).tag ≠ t))
    ∧ ∀ (s : State) (t : Tag), s.shipsOk →
      (∀ n, findShip s t = some n ↔ (s.ship n).state ≠ .vacant ∧ (s.ship n).tag = t)
      ∧ (findShip s t = none ↔ ∀ n, (s.ship n).state = .vacant ∨ (s.ship n).tag ≠ t)

/-- R175: SET_PROFILE in CONFIG replaces every parameter at once. R177: SET_CLOCK sets the floor clock and answers its
former value; the deadline timer does not move. -/
def Obligations.ProfileAndClockAreSet : Prop :=
  (∀ (h : ReqHead) (a : ProfileArgs) (s : State), admitted (.setProfile h a) h s → s.phase = .config →
    let inRange : Prop :=
      a.partStation ≠ 0 ∧ a.partStation ≠ 65535 ∧ a.floorHost ≠ 0 ∧ a.floorHost ≠ 65535
        ∧ 1 ≤ a.cellsInUse.toNat ∧ a.cellsInUse.toNat ≤ 64 ∧ 1 ≤ a.heartbeat.toNat ∧ a.heartbeat.toNat ≤ 60
        ∧ 1 ≤ a.load.toNat ∧ a.load.toNat ≤ 600 ∧ 1 ≤ a.golden.toNat ∧ a.golden.toNat ≤ 600
        ∧ 1 ≤ a.closing.toNat ∧ a.closing.toNat ≤ 30 ∧ 1 ≤ a.counts.toNat ∧ a.counts.toNat ≤ 600
        ∧ a.goldenAfterDown.toNat ≤ 1 ∧ a.aging.toNat ≤ 240 ∧ 1 ≤ a.lookahead.toNat ∧ a.lookahead.toNat ≤ 16
        ∧ a.escalation.toNat ≤ 15 ∧ a.forwardResults.toNat ≤ 1
    (¬ inRange → exec (.setProfile h a) s = .next (respond h 0x0301 (refuse .range s)))
    ∧ (inRange → a.partStation = a.floorHost →
        exec (.setProfile h a) s = .next (respond h 0x0301 (refuse .conflict s)))
    ∧ (inRange → a.partStation ≠ a.floorHost →
        exec (.setProfile h a) s = .next (respond h 0x0301 (ok
          { s with profile :=
            { partStation := a.partStation, floorHost := a.floorHost, cellsInUse := a.cellsInUse.toNat,
              heartbeat := a.heartbeat.toNat, load := a.load.toNat, golden := a.golden.toNat,
              closing := a.closing.toNat, counts := a.counts.toNat, goldenAfterDown := a.goldenAfterDown == 1,
              aging := a.aging.toNat, lookahead := a.lookahead.toNat, escalation := a.escalation.toNat,
              forwardResults := a.forwardResults == 1 } }))))
  ∧ (∀ (h : ReqHead) (t : FloorTime) (s : State), admitted (.setClock h t) h s →
    exec (.setClock h t) s =
      .next (respond h 0x0303 (okWith (beBytes 6 s.floorClock.toNat) { s with floorClock := t })))

/-- R176: OPERATE in CONFIG enters the OPERATE phase and returns the configured cells out of use, with their stations,
to power-on values; in OPERATE it is refused WRONG_STATE. -/
def Obligations.OperateEntersThePhase : Prop :=
  ∀ (h : ReqHead) (s : State), admitted (.operate h) h s →
    let out : CellIx → Bool := fun c => (s.cell c).configured && decide (s.profile.cellsInUse ≤ c.val)
    (s.phase = .operate → exec (.operate h) s = .next (respond h 0x0302 (refuse .wrongState s)))
    ∧ (s.phase = .config → (∃ e ∈ s.stations, e.station = s.profile.partStation) →
        exec (.operate h) s = .next (respond h 0x0302 (refuse .conflict s)))
    ∧ (s.phase = .config → (∀ e ∈ s.stations, e.station ≠ s.profile.partStation) →
        exec (.operate h) s = .next (respond h 0x0302 (ok
          { s with
            phase := .operate
            cells := Vector.ofFn fun c => if out c then .powerOn else s.cell c
            stations := s.stations.filter fun e => !out e.cell })))

/-- R37, R29, R30: LOAD_ROUTE replaces a route whole, its setpoints clamped to -55 to 175, and answers the number
clamped; a load within range is refused NOT_FOUND for an unloaded limit set and IN_USE for a referenced route. -/
def Obligations.LoadRouteReplacesTheRoute : Prop :=
  (∀ (h : ReqHead) (route : Byte) (product : BitVec 32) (count : Byte) (steps : List StepArgs) (s : State),
    let i : Instr := .loadRoute h route product count steps
    admitted i h s →
    let good : Prop := route.toNat ≤ 47 ∧ count.toNat ≤ 6 ∧ ∀ a ∈ steps, stepInRange a = true
    (¬ good → exec i s = .next (respond h 0x0304 (refuse .range s)))
    ∧ (good → (∃ a ∈ steps, (s.limit (stepLimitIx a)).loaded = false) →
        exec i s = .next (respond h 0x0304 (refuse .notFound s)))
    ∧ (good → (∀ a ∈ steps, (s.limit (stepLimitIx a)).loaded = true) → ∀ x : RouteIx, x.val = route.toNat →
        (0 < (s.route x).refs →
          exec i s = .next (respond h 0x0304 (refuseWith .inUse (beBytes 2 (s.route x).refs) s)))
        ∧ ((s.route x).refs = 0 →
          exec i s = .next (respond h 0x0304 (okWith
            [BitVec.ofNat 8 (steps.countP fun a => a.setpoint.toInt < -55 || 175 < a.setpoint.toInt)]
            (s.setRoute x
              { product := if steps = [] then 0 else product, steps := steps.map stepStored, refs := 0 }))))))
  ∧ ∀ a : StepArgs,
    (stepStored a).setpoint = (if a.setpoint.toInt < -55 then -55 else if 175 < a.setpoint.toInt then 175
      else a.setpoint.toInt)
    ∧ (stepStored a).kit = a.kit.toNat ∧ (stepStored a).classMask = a.classMask
    ∧ (stepStored a).programId = a.programId ∧ (stepStored a).revision = a.revision
    ∧ (stepStored a).checksum = a.checksum ∧ (stepStored a).siteCount = a.siteCount.toNat
    ∧ (stepStored a).minSites = a.minSites.toNat ∧ (stepStored a).maxRuns = a.maxRuns.toNat
    ∧ (stepStored a).changeoverLimit = a.changeoverLimit.toNat
    ∧ (stepStored a).goldenInterval = a.goldenInterval.toNat ∧ (stepStored a).maxRetest = a.maxRetest.toNat
    ∧ (stepStored a).map = a.map
    ∧ (stepInRange a = true ↔ a.classMask ≠ 0 ∧ a.kit ≠ 0 ∧ a.limitSet.toNat ≤ 63 ∧ 1 ≤ a.siteCount.toNat
      ∧ a.siteCount.toNat ≤ 16 ∧ 1 ≤ a.minSites.toNat ∧ a.minSites.toNat ≤ a.siteCount.toNat ∧ 1 ≤ a.maxRuns.toNat
      ∧ a.maxRuns.toNat ≤ 4 ∧ 1 ≤ a.changeoverLimit.toNat ∧ a.changeoverLimit.toNat ≤ 7200 ∧ a.maxRetest.toNat ≤ 3
      ∧ (∀ b : Fin 16, b ≠ 0 → a.map[b].toNat ≤ 7)
      ∧ ∀ t : Fin 8, a.trayClasses[t].toNat / 16 ≤ 1
        ∨ (a.trayClasses[t].toNat / 16 = 2 ∧ 1 ≤ a.trayClasses[t].toNat % 16 ∧ a.trayClasses[t].toNat % 16 ≤ 4))
    ∧ (stepInRange a = true → (stepStored a).limitSet.val = a.limitSet.toNat
      ∧ ∀ t : Fin 8,
        ((stepStored a).trays[t] = .reject ↔ a.trayClasses[t].toNat / 16 = 0)
        ∧ ((stepStored a).trays[t] = .retest ↔ a.trayClasses[t].toNat / 16 = 1)
        ∧ ∀ g : Fin 4, (stepStored a).trays[t] = .good g ↔
          a.trayClasses[t].toNat / 16 = 2 ∧ a.trayClasses[t].toNat % 16 = g.val + 1)

/-- R40: the count fields and the policies of LOAD_LIMITS are clamped as the table says, other values are stored as
given, and each clamped field counts once toward the clamp count, 27 at most. -/
def Obligations.LimitCountsAndPoliciesClamp : Prop :=
  ∀ a : LimitArgs,
    let x := limitsStored a
    let policy : Byte → Policy := fun b => if b = 1 then .finish else if b = 2 then .mark else .stop
    let one : Prop → Nat := fun p => @ite Nat p (Classical.propDecidable p) 1 0
    x.nmin = (if a.nmin = 0 then 1 else a.nmin.toNat) ∧ x.nsite = (if a.nsite = 0 then 1 else a.nsite.toNat)
      ∧ x.w = (if a.w.toNat ≤ 3 then 4 else if 33 ≤ a.w.toNat then 32 else a.w.toNat)
      ∧ x.polYield = policy a.polYield ∧ x.polBin = policy a.polBin ∧ x.polWindow = policy a.polWindow
      ∧ x.polSite = policy a.polSite ∧ x.polConsec = policy a.polConsec
      ∧ x.cmax = a.cmax.toNat ∧ x.trayTol = a.trayTol.toNat ∧ x.inputTol = a.inputTol.toNat
      ∧ limitsClampCount a =
        one (10000 < a.ymin.toNat) + one (10000 < a.ywin.toNat) + one (10000 < a.dmax.toNat)
          + one (10000 < a.yfinal.toNat) + ((List.finRange 15).map fun h => one (10000 < (a.fmax.get h).toNat)).sum
          + one (a.nmin = 0) + one (a.nsite = 0) + one (a.w.toNat ≤ 3 ∨ 33 ≤ a.w.toNat)
          + one (2 < a.polYield.toNat) + one (2 < a.polBin.toNat) + one (2 < a.polWindow.toNat)
          + one (2 < a.polSite.toNat) + one (2 < a.polConsec.toNat)
      ∧ limitsClampCount a ≤ 27

/-- R42, R39: LOAD_LIMITS replaces every field of a set with the values as clamped, marks it loaded and answers the
clamp count; the basis-point fields are clamped to 10000. -/
def Obligations.LoadLimitsReplacesTheSet : Prop :=
  (∀ (h : ReqHead) (set : Byte) (a : LimitArgs) (s : State), admitted (.loadLimits h set a) h s →
      (63 < set.toNat → exec (.loadLimits h set a) s = .next (respond h 0x0305 (refuse .range s)))
      ∧ ∀ x : LimitIx, x.val = set.toNat →
        exec (.loadLimits h set a) s = .next (respond h 0x0305
          (okWith [BitVec.ofNat 8 (limitsClampCount a)] (s.setLimit x (limitsStored a)))))
    ∧ ∀ a : LimitArgs,
      (limitsStored a).loaded = true ∧ (limitsStored a).ymin = min 10000 a.ymin.toNat
        ∧ (limitsStored a).ywin = min 10000 a.ywin.toNat ∧ (limitsStored a).dmax = min 10000 a.dmax.toNat
        ∧ (limitsStored a).yfinal = min 10000 a.yfinal.toNat
        ∧ ∀ h : Fin 15, (limitsStored a).fmax[h] = min 10000 (a.fmax.get h).toNat

/-- R74: LOAD_CELL gives a cell its stations and its class, and forgets what was known of its equipment; it is refused
RANGE, CONFLICT and IN_USE in that order. (R74 does not name the golden result's floor time; that it is kept is the
model's reading, notes/assumptions/30.md.) -/
def Obligations.LoadCellConfiguresTheCell : Prop :=
  ∀ (h : ReqHead) (cell : Byte) (tester handler : Station) (cls : Byte) (s : State),
    let i : Instr := .loadCell h cell tester handler cls
    admitted i h s →
    let good : Prop := cell.toNat < s.profile.cellsInUse ∧ tester ≠ 0 ∧ tester ≠ 65535 ∧ handler ≠ 0
      ∧ handler ≠ 65535 ∧ cls.toNat ≤ 7
    (¬ good → exec i s = .next (respond h 0x0306 (refuse .range s)))
    ∧ ∀ (c : CellIx) (k : Fin 8), good → c.val = cell.toNat → k.val = cls.toNat →
      let clash : Prop := tester = handler
        ∨ ∃ e ∈ s.stations, e.cell ≠ c ∧ (e.station = tester ∨ e.station = handler)
      let working : Prop := s.phase = .operate ∧ ((s.cell c).state ≠ .offline ∨ (s.cell c).current ≠ none
        ∨ (s.cell c).reserved ≠ none ∨ (s.cell c).stack ≠ [])
      (clash → exec i s = .next (respond h 0x0306 (refuse .conflict s)))
      ∧ (¬ clash → working → exec i s = .next (respond h 0x0306 (refuse .inUse s)))
      ∧ (¬ clash → ¬ working → exec i s = .next (respond h 0x0306 (ok
          { s.setCell c
              { s.cell c with
                configured := true, tester := some tester, handler := some handler, cls := k
                repTester := none, repHandler := none, heardTester := none, heardHandler := none, clearTime := none
                kit := none, temp := none, program := none, golden := ⟨0, .none, (s.cell c).golden.floorTime⟩
                goldenValid := false, enabled := 0, downCount := 0, lastLoad := none } with
            stations := s.stations.filter (fun e => e.cell != c)
              ++ [⟨tester, c, .tester⟩, ⟨handler, c, .handler⟩] })))

/-! ## Lots (Chapter 1) -/

/-- R22, R5, R6, R115: LOT_ADD is refused in its order; accepted where no cell can take the lot and it cannot preempt,
it fills the lowest VACANT record, counts the route, gives the next sequence, queues the lot and answers its slot. -/
def Obligations.LotAddFillsARecord : Prop :=
  ∀ (h : ReqHead) (tag : Tag) (route : Byte) (quantity : BitVec 24) (cls split preempt : Byte) (s : State),
    let i : Instr := .lotAdd h tag route quantity cls split preempt
    inOperate i h s →
    let good : Prop := route.toNat ≤ 47 ∧ 1 ≤ quantity.toNat ∧ quantity.toNat ≤ 999999 ∧ cls.toNat ≤ 3
      ∧ 1 ≤ split.toNat ∧ split.toNat ≤ 4
    (¬ good → exec i s = .next (respond h 0x0310 (refuse .range s)))
    ∧ ∀ x : RouteIx, good → x.val = route.toNat →
      ((s.route x).steps = [] → exec i s = .next (respond h 0x0310 (refuse .notFound s)))
      ∧ ((s.route x).steps ≠ [] → findLot s tag ≠ none → exec i s = .next (respond h 0x0310 (refuse .duplicate s)))
      ∧ ((s.route x).steps ≠ [] → findLot s tag = none → (∀ l, (s.lot l).state ≠ .vacant) →
        exec i s = .next (respond h 0x0310 (refuse .noSlot s)))
      ∧ ∀ (l : LotSlot) (st : Step), (s.route x).steps.head? = some st → findLot s tag = none →
        (s.lot l).state = .vacant → (∀ m, m < l → (s.lot m).state ≠ .vacant) →
        1 ≤ st.maxRuns → s.seqCounter < 4294967295 → l ∉ s.queue → noCellFor st s →
        noCandidateFor cls.toNat (preempt != 0) st
          (s.setLot l { Lot.vacant with cls := cls.toNat }) →
        let t := s.setLot l
          { Lot.vacant with
            tag := tag, route := x, state := .waiting, split := split.toNat
            runsPerStep := min split.toNat st.maxRuns, toAssign := min split.toNat st.maxRuns
            cls := cls.toNat, classSince := s.timer, preempt := preempt != 0, queueSeq := s.seqCounter
            started := quantity.toNat, q := quantity.toNat }
        exec i s = .next (respond h 0x0310 (okWith [BitVec.ofNat 8 l.val]
          { t with
            routes := vset s.routes x { s.route x with refs := (s.route x).refs + 1 }
            queue := placeIn t l s.queue
            seqCounter := s.seqCounter + 1 }))

/-- R23, R116: LOT_PRIORITY changes a lot's class and restarts its class-since; a queued lot that no cell can take
moves to its new place with its sequence kept. (A class above 3 is refused before an unknown tag:
notes/assumptions/11.md.) R116, R117: the aging of a lot that is due lowers its class by one, restarts its
class-since, and moves its entry with its sequence kept; of a lot out of the queue, of class 0 or 1, or with aging
off, it changes nothing. -/
def Obligations.ClassChangesMoveTheLot : Prop :=
  (∀ (h : ReqHead) (tag : Tag) (cls : Byte) (s : State), inOperate (.lotPriority h tag cls) h s →
    (3 < cls.toNat → exec (.lotPriority h tag cls) s = .next (respond h 0x0311 (refuse .range s)))
    ∧ (cls.toNat ≤ 3 → findLot s tag = none →
        exec (.lotPriority h tag cls) s = .next (respond h 0x0311 (refuse .notFound s)))
    ∧ ∀ l : LotSlot, cls.toNat ≤ 3 → findLot s tag = some l →
      let live : Prop := (s.lot l).state = .waiting ∨ (s.lot l).state = .running ∨ (s.lot l).state = .held
      let t := s.setLot l { s.lot l with cls := cls.toNat, classSince := s.timer }
      (¬ live → exec (.lotPriority h tag cls) s = .next (respond h 0x0311 (refuse .wrongState s)))
      ∧ (live → (s.lot l).cls = cls.toNat → exec (.lotPriority h tag cls) s = .next (respond h 0x0311 (ok s)))
      ∧ (live → (s.lot l).cls ≠ cls.toNat → l ∉ s.queue →
          exec (.lotPriority h tag cls) s = .next (respond h 0x0311 (ok t)))
      ∧ (live → (s.lot l).cls ≠ cls.toNat → l ∈ s.queue → noCellFor (stepOf s (s.lot l)) s →
          noCandidateFor cls.toNat (s.lot l).preempt (stepOf s (s.lot l)) t →
          exec (.lotPriority h tag cls) s = .next (respond h 0x0311 (ok
            { t with queue := placeIn t l (s.queue.filter (· ≠ l)) }))))
  ∧ (∀ (l : LotSlot) (s : State),
    let x := s.lot l
    let t := s.setLot l { x with cls := x.cls - 1, classSince := s.timer }
    ((s.profile.aging = 0 ∨ l ∉ s.queue ∨ x.cls ≤ 1) → exec (.aging l) s = .next s)
    ∧ (s.profile.aging ≠ 0 → l ∈ s.queue → (x.cls = 2 ∨ x.cls = 3) →
        x.classSince + s.profile.aging * 60000 ≤ s.timer → noCellFor (stepOf s x) s →
        exec (.aging l) s = .next { t with queue := placeIn t l (s.queue.filter (· ≠ l)) }))

/-- R24, R8, R11, R14: LOT_HOLD adds an ENGINEER record with its notice. On a lot with no open run and no other
lot-scope STOP or FINISH hold, STOP and FINISH make a WAITING or RUNNING lot HELD and take it out of the queue, MARK
does neither, and any policy makes a FINISHED lot HELD. (A policy above 2 is refused before an unknown tag: the
model's reading, notes/assumptions/11.md.) R24, R8, R9, R14, R17: an ENGINEER record already there is refreshed in its
place, with the new policy, the present floor time and no measured value, and without a notice; the same policy does
nothing more; STOP to FINISH, MARK to FINISH and any change to STOP hold the lot, and a TESTING run is stopped by the
change to STOP; a change to MARK that leaves no lot-scope STOP or FINISH hold returns the lot to work. (Which tests a
change makes, and in which order, is the model's reading: notes/assumptions/29.md.) -/
def Obligations.LotHoldRaisesEngineer : Prop :=
  ∀ (h : ReqHead) (tag : Tag) (policy : Byte) (s : State), inOperate (.lotHold h tag policy) h s →
    (2 < policy.toNat → exec (.lotHold h tag policy) s = .next (respond h 0x0312 (refuse .range s)))
    ∧ (policy.toNat ≤ 2 → findLot s tag = none →
        exec (.lotHold h tag policy) s = .next (respond h 0x0312 (refuse .notFound s)))
    ∧ ∀ (l : LotSlot) (p : Policy), p.code = policy.toNat → findLot s tag = some l →
      let x := s.lot l
      ((x.state = .released ∨ x.state = .scrapped) →
        exec (.lotHold h tag policy) s = .next (respond h 0x0312 (refuse .wrongState s)))
      ∧ ((x.state = .waiting ∨ x.state = .running ∨ x.state = .held ∨ x.state = .finished) →
        x.holdsKind .engineer none = false → x.lotBlocked = false → x.idle → inPlace l s →
        let stops : Bool := p != .mark
        let t := s.setLot l
          { x with
            holds := x.holds ++ [newHold s l .engineer none p none]
            state := if x.state = .finished ∨ (stops ∧ (x.state = .waiting ∨ x.state = .running)) then .held
              else x.state }
        exec (.lotHold h tag policy) s = .next (respond h 0x0312 (ok
          (postNotice (.holdRaised x.tag .engineer none p none)
            { t with queue := if stops then s.queue.filter (· ≠ l) else s.queue }))))
      ∧ ∀ (before after : List Hold) (e : Hold), (x.state = .waiting ∨ x.state = .running ∨ x.state = .held) →
        x.holds = before ++ e :: after → e.kind = .engineer → e.pos = none →
        (∀ a ∈ before ++ after, a.kind ≠ .engineer) →
        let y : Lot := { x with
          holds := before ++ { e with floorTime := s.floorClock, value := none, policy := p } :: after }
        let stopped : State := { s.setLot l { y with state := .held } with queue := s.queue.filter (· ≠ l) }
        (e.policy = p → exec (.lotHold h tag policy) s = .next (respond h 0x0312 (ok (s.setLot l y))))
        ∧ (e.policy = .stop → p = .finish → x.idle →
          exec (.lotHold h tag policy) s = .next (respond h 0x0312 (ok (s.setLot l { y with state := .held }))))
        ∧ (e.policy ≠ p → e.policy = .mark ∨ p = .stop → p ≠ .mark → x.idle →
          exec (.lotHold h tag policy) s = .next (respond h 0x0312 (ok stopped)))
        ∧ (∀ (place : RunPlace) (r : RunIx), e.policy = .mark ∨ e.policy = .finish → p = .stop → onlyRun l place r s →
          (s.run r).state = .testing → (s.cell (s.run r).cell).state = .running →
          let c := (s.run r).cell
          exec (.lotHold h tag policy) s = .next (respond h 0x0312 (ok
            { sendOrder c .handler .stop s with
              lots := vset s.lots l { y with state := .held }
              runs := vset s.runs r { s.run r with state := .stopped, stoppedFrom := some .testing }
              cells := vset s.cells c { s.cell c with
                state := .stopped, cause := none, since := s.timer, acc := (s.cell c).accNow s.timer }
              queue := s.queue.filter (· ≠ l) })))
        ∧ (e.policy ≠ .mark → p = .mark → x.state = .held → x.stepClosed = false → x.routeComplete = false → x.idle →
          1 ≤ x.toAssign → (∀ a ∈ before ++ after, a.policy = .mark ∨ a.pos ≠ none) → l ∉ s.queue → notAging x s →
          noCellFor (stepOf s x) s → noCandidateFor x.cls x.preempt (stepOf s x) s →
          let t := s.setLot l { y with state := if x.stepStarted then .running else .waiting }
          exec (.lotHold h tag policy) s = .next (respond h 0x0312 (ok { t with queue := placeIn t l s.queue })))

/-- R9, R138, R14: a STOP hold on a lot whose one open run is TESTING on a RUNNING cell sends STOP to the cell's
handler, makes the run STOPPED and its cell STOPPED, the lot HELD and out of the queue; no other lot, run or cell
changes. R10, R9, R123: a STOP or FINISH hold on a lot whose one open run is ASSIGNED, current on its cell and the
target of the cell's preparation, withdraws the run: its record is FREE, its position absent, to-assign one higher,
the cell without it and its preparation without a target; the lot is HELD and out of the queue. -/
def Obligations.HoldsReachTheOpenRun : Prop :=
  (∀ (h : ReqHead) (tag : Tag) (l : LotSlot) (p : RunPlace) (r : RunIx) (s : State),
    inOperate (.lotHold h tag 0) h s → findLot s tag = some l →
    ((s.lot l).state = .waiting ∨ (s.lot l).state = .running) → (s.lot l).holdsKind .engineer none = false →
    onlyRun l p r s → (s.run r).state = .testing → (s.cell (s.run r).cell).state = .running →
    let c := (s.run r).cell
    let u := sendOrder c .handler .stop (postNotice (.holdRaised (s.lot l).tag .engineer none .stop none) s)
    exec (.lotHold h tag 0) s = .next (respond h 0x0312 (ok
      { u with
        lots := vset s.lots l { s.lot l with
          state := .held, holds := (s.lot l).holds ++ [newHold s l .engineer none .stop none] }
        runs := vset s.runs r { s.run r with state := .stopped, stoppedFrom := some .testing }
        cells := vset s.cells c { s.cell c with
          state := .stopped, cause := none, since := s.timer, acc := (s.cell c).accNow s.timer }
        queue := s.queue.filter (· ≠ l) })))
  ∧ (∀ (h : ReqHead) (tag : Tag) (policy : Byte) (pol : Policy) (l : LotSlot) (p : RunPlace) (r : RunIx) (j : Prep)
    (s : State), inOperate (.lotHold h tag policy) h s → findLot s tag = some l → pol.code = policy.toNat →
    pol ≠ .mark → ((s.lot l).state = .waiting ∨ (s.lot l).state = .running) →
    (s.lot l).holdsKind .engineer none = false → onlyRun l p r s → (s.run r).state = .assigned →
    let c := (s.run r).cell
    let k := s.cell c
    let x := s.lot l
    k.current = some r → k.reserved ≠ some r → r ∉ k.stack → k.prep = some j → j.target = some r →
    exec (.lotHold h tag policy) s = .next (respond h 0x0312 (ok
      { postNotice (.holdRaised x.tag .engineer none pol none) s with
        lots := vset s.lots l { x with
          state := .held, holds := x.holds ++ [newHold s l .engineer none pol none], toAssign := x.toAssign + 1
          runs := vset x.runs p .absent }
        runs := vset s.runs r .free
        cells := vset s.cells c { k with current := none, prep := some { j with target := none } }
        queue := s.queue.filter (· ≠ l) })))

/-- R25: LOT_RELEASE is refused BAD_ARG for an unknown kind, RANGE for a position that does not go with the kind's
scope, and NOT_FOUND for a record that the list does not hold. (An unknown tag is NOT_FOUND, judged after those two:
the model's reading, notes/assumptions/11.md.) R15, R17, R6: the release of the last lot-scope STOP or FINISH hold of
a lot HELD within a step, with no open run and runs still to assign that no cell can take, removes the record with its
notice, sets the waiver of its kind, returns the lot to RUNNING or WAITING by its step-started flag, and puts it back
in the queue with its kept sequence. R17, R21: the release of the last record of a lot HELD past its route makes it
FINISHED, with LOT_FINISHED behind HOLD_RELEASED, its grade quantities unchanged, and no second advance (the model's
reading of R17 case 4 beside R21: notes/assumptions/8.md). R15: of a lot with one open run, the release of WINDOW at
its position empties the run's ring, and that of SITE or CONSEC zeroes its site figures. R13, R17, R83, R137: a
release that leaves the run's STOPPED cell nothing to wait for resumes it at once where the setup matches, with RESUME
to both stations and a CLOSING deadline anew for a run that was CLOSING, and begins a golden check with GOLDEN to both
where golden-valid is clear. R133, R132: a release on the lot of the top run of a cell left STOPPED by a pop pops it.
R17, R20, R21: the release of the last STOP or FINISH hold of a lot HELD at step close advances it, with
HOLD_RELEASED, STEP_DONE and LOT_FINISHED in that order. -/
def Obligations.LotReleaseFreesTheLot : Prop :=
  (∀ (h : ReqHead) (tag : Tag) (kind pos : Byte) (s : State), inOperate (.lotRelease h tag kind pos) h s →
    (10 < kind.toNat → exec (.lotRelease h tag kind pos) s = .next (respond h 0x0313 (refuse .badArg s)))
    ∧ (kind.toNat ≤ 4 → pos ≠ 0xFF → exec (.lotRelease h tag kind pos) s = .next (respond h 0x0313 (refuse .range s)))
    ∧ (5 ≤ kind.toNat → kind.toNat ≤ 10 → 3 < pos.toNat →
        exec (.lotRelease h tag kind pos) s = .next (respond h 0x0313 (refuse .range s)))
    ∧ ∀ (k : HoldKind) (place : Option RunPlace), k.code = kind.toNat →
      (k.isLot = true ∧ place = none ∧ pos = 0xFF ∨ k.isLot = false ∧ place.map (·.val) = some pos.toNat) →
      (findLot s tag = none ∨ ∃ l, findLot s tag = some l ∧ (s.lot l).holdsKind k place = false) →
      exec (.lotRelease h tag kind pos) s = .next (respond h 0x0313 (refuse .notFound s)))
  ∧ (∀ (h : ReqHead) (tag : Tag) (kind : Byte) (k : HoldKind) (l : LotSlot) (s : State),
    inOperate (.lotRelease h tag kind 0xFF) h s → k.code = kind.toNat → k.isLot = true → findLot s tag = some l →
    let x := s.lot l
    let rest := x.holds.filter fun e => !(e.is k none)
    x.holdsKind k none = true → x.state = .held → x.stepClosed = false → x.routeComplete = false → x.idle →
    1 ≤ x.toAssign → (∀ e ∈ rest, e.policy = .mark ∨ e.pos ≠ none) → l ∉ s.queue →
    notAging x s →
    noCellFor (stepOf s x) s → noCandidateFor x.cls x.preempt (stepOf s x) s →
    let t := s.setLot l
      { x with
        holds := rest
        yieldWaived := x.yieldWaived || k == .yield
        binWaived := x.binWaived || k == .bin
        state := if x.stepStarted then .running else .waiting }
    exec (.lotRelease h tag kind 0xFF) s = .next (respond h 0x0313 (ok
      (postNotice (.holdReleased x.tag k none) { t with queue := placeIn t l s.queue }))))
  ∧ (∀ (h : ReqHead) (tag : Tag) (kind : Byte) (k : HoldKind) (l : LotSlot) (s : State),
    inOperate (.lotRelease h tag kind 0xFF) h s → k.code = kind.toNat → k.isLot = true → findLot s tag = some l →
    let x := s.lot l
    x.holdsKind k none = true → x.holds.filter (fun e => !(e.is k none)) = [] → x.state = .held →
    x.routeComplete = true → x.idle → l ∉ s.queue →
    exec (.lotRelease h tag kind 0xFF) s = .next (respond h 0x0313 (ok
      ((postNotice (.lotFinished x.tag x.gradeQty) (postNotice (.holdReleased x.tag k none) s)).setLot l
        { x with
          holds := [], state := .finished, yieldWaived := x.yieldWaived || k == .yield
          binWaived := x.binWaived || k == .bin }))))
  ∧ (∀ (h : ReqHead) (tag : Tag) (kind pos : Byte) (k : HoldKind) (place : Option RunPlace) (l : LotSlot) (p : RunPlace)
    (r : RunIx) (s : State), inOperate (.lotRelease h tag kind pos) h s → k.code = kind.toNat →
    (k.isLot = true ∧ place = none ∧ pos = 0xFF ∨ k.isLot = false ∧ place.map (·.val) = some pos.toNat) →
    findLot s tag = some l →
    let x := s.lot l
    let run := s.run r
    let c := run.cell
    let kc := s.cell c
    let st := stepOf s x
    let rest := x.holds.filter fun e => !(e.is k place)
    let y : Lot := { x with
      holds := rest, yieldWaived := x.yieldWaived || k == .yield, binWaived := x.binWaived || k == .bin
      state := if x.state = .held then (if x.stepStarted then .running else .waiting) else x.state }
    let emptied : Run := { run with
      ring := if k = .window ∧ place = some p then [] else run.ring
      sites := if (k = .site ∨ k = .consec) ∧ place = some p then Vector.replicate 16 ⟨0, 0, 0⟩ else run.sites }
    let resumed : Option ActiveState → Run := fun was => { emptied with
      state := if was = some .closing then .closing else .testing, stoppedFrom := none, suspendedFrom := none }
    let rearmed : Option ActiveState → Option Deadline := fun was =>
      if was = some .closing then some ⟨.closing, s.timer + 1000 * s.profile.closing⟩ else none
    let u := postNotice (.holdReleased x.tag k place) s
    let resume := sendBoth c (.resume x.tag p run.pass (usableSites kc st)) u
    x.holdsKind k place = true → onlyRun l p r s → x.stepClosed = false → x.routeComplete = false →
    (x.state = .waiting ∨ x.state = .running ∨ x.state = .held) → x.toAssign = 0 → l ∉ s.queue →
    (kc.state ≠ .stopped → x.state ≠ .held →
      exec (.lotRelease h tag kind pos) s = .next (respond h 0x0313 (ok
        { u with lots := vset s.lots l y, runs := vset s.runs r emptied })))
    ∧ ((∀ e ∈ rest, e.policy = .mark ∨ (e.pos ≠ none ∧ e.pos ≠ some p)) → kc.state = .stopped → kc.prep = none →
      setUpFor kc st →
      (kc.current = some r → run.state = .stopped → kc.goldenValid = true → kc.deadline = none →
        (run.stoppedFrom = some .testing ∨ (run.stoppedFrom = some .closing ∧ run.targetReached = false)) →
        exec (.lotRelease h tag kind pos) s = .next (respond h 0x0313 (ok
          { resume with
            lots := vset s.lots l y, runs := vset s.runs r (resumed run.stoppedFrom)
            cells := vset s.cells c { backAtWork kc s with deadline := rearmed run.stoppedFrom } })))
      ∧ (kc.current = some r → run.state = .stopped → kc.goldenValid = false → runDeadline kc →
        exec (.lotRelease h tag kind pos) s = .next (respond h 0x0313 (ok
          { sendBoth c (.golden st.siteCount) u with
            lots := vset s.lots l y, runs := vset s.runs r emptied
            cells := vset s.cells c (checking kc r .return .stopped st s) })))
      ∧ ∀ below, kc.current = none → kc.stack = r :: below → run.state = .suspended → kc.goldenValid = true →
        kc.deadline = none →
        (run.suspendedFrom = some .testing ∨ (run.suspendedFrom = some .closing ∧ run.targetReached = false)) →
        exec (.lotRelease h tag kind pos) s = .next (respond h 0x0313 (ok
          { resume with
            lots := vset s.lots l y, runs := vset s.runs r (resumed run.suspendedFrom)
            cells := vset s.cells c { backAtWork kc s with
              stack := below, current := some r, deadline := rearmed run.suspendedFrom } }))))
  ∧ (∀ (h : ReqHead) (tag : Tag) (kind pos : Byte) (k : HoldKind) (place : Option RunPlace) (l : LotSlot) (s : State),
    inOperate (.lotRelease h tag kind pos) h s → k.code = kind.toNat →
    (k.isLot = true ∧ place = none ∧ pos = 0xFF ∨ k.isLot = false ∧ place.map (·.val) = some pos.toNat) →
    findLot s tag = some l →
    let x := s.lot l
    let f := x.figures
    let steps := (s.route x.route).steps
    let rest := x.holds.filter fun e => !(e.is k place)
    let v := postNotice (.stepDone x.tag x.step f.tested f.goodFinal) (postNotice (.holdReleased x.tag k place) s)
    x.holdsKind k place = true → (∀ e ∈ rest, e.policy = .mark) → x.state = .held → x.stepClosed = true →
    x.routeComplete = false → x.idle → l ∉ s.queue →
    (∀ st, 0 < f.goodFinal → steps[x.step + 1]? = some st → s.seqCounter < 4294967295 → 1 ≤ st.maxRuns → 1 ≤ x.split →
      notAging x s → noCellFor st s → noCandidateFor x.cls x.preempt st s →
      let t := s.setLot l
        { x with
          holds := rest, q := f.goodFinal, step := x.step + 1, runsPerStep := min x.split st.maxRuns
          toAssign := min x.split st.maxRuns, runs := Vector.replicate 4 .absent, closedRuns := 0
          figures := ⟨0, 0, Vector.replicate 15 0, 0, 0, Vector.replicate 4 0⟩, yieldWaived := false
          binWaived := false, stepStarted := false, stepClosed := false, state := .waiting, queueSeq := s.seqCounter }
      exec (.lotRelease h tag kind pos) s = .next (respond h 0x0313 (ok
        { v with lots := t.lots, seqCounter := s.seqCounter + 1, queue := placeIn t l s.queue })))
    ∧ ((f.goodFinal = 0 ∨ steps.length ≤ x.step + 1) →
      let y : Lot := { x with
        holds := rest, yieldWaived := x.yieldWaived || k == .yield, binWaived := x.binWaived || k == .bin
        gradeQty := if f.goodFinal = 0 then Vector.replicate 4 0 else f.gradeSums
        marks := Vector.replicate 4 .free, routeComplete := true, state := if rest = [] then .finished else .held }
      exec (.lotRelease h tag kind pos) s = .next (respond h 0x0313 (ok
        ((if rest = [] then postNotice (.lotFinished x.tag y.gradeQty) v else v).setLot l y)))))

/-- R26, R5: LOT_SCRAP is refused for a RELEASED lot and for one with a portion in a shipment, does not change a
SCRAPPED lot, and takes any other lot out of the queue, empties its hold list, and lowers its route's count. R26,
R149: LOT_SCRAP of a lot with one open run, TESTING on a RUNNING cell with nothing to pop or match, sends STOP to the
handler and frees the run without its figures; no hold is raised, to-assign does not rise (notes/assumptions/12.md:
the position becomes absent), and the cell goes IDLE. -/
def Obligations.LotScrapScrapsTheLot : Prop :=
  (∀ (h : ReqHead) (tag : Tag) (s : State), inOperate (.lotScrap h tag) h s →
    (findLot s tag = none → exec (.lotScrap h tag) s = .next (respond h 0x0314 (refuse .notFound s)))
    ∧ ∀ l : LotSlot, findLot s tag = some l →
      let x := s.lot l
      let shipped : Prop := ∃ (g : Fin 4) (n : ShipSlot), x.marks[g] = .inShipment n
      (x.state = .released → exec (.lotScrap h tag) s = .next (respond h 0x0314 (refuse .wrongState s)))
      ∧ (x.state ≠ .released → shipped → exec (.lotScrap h tag) s = .next (respond h 0x0314 (refuse .inUse s)))
      ∧ (x.state = .scrapped → ¬ shipped → exec (.lotScrap h tag) s = .next (respond h 0x0314 (ok s)))
      ∧ (x.state ≠ .released → x.state ≠ .scrapped → ¬ shipped → x.idle →
        exec (.lotScrap h tag) s = .next (respond h 0x0314 (ok
          { s with
            lots := vset s.lots l { x with state := .scrapped, holds := [] }
            queue := s.queue.filter (· ≠ l)
            routes := vset s.routes x.route { s.route x.route with refs := (s.route x.route).refs - 1 } }))))
  ∧ (∀ (h : ReqHead) (tag : Tag) (p : RunPlace) (l : LotSlot) (r : RunIx) (s : State),
    inOperate (.lotScrap h tag) h s → findLot s tag = some l →
    ((s.lot l).state = .waiting ∨ (s.lot l).state = .running ∨ (s.lot l).state = .held) →
    (∀ g : Fin 4, (s.lot l).marks[g] = .free) → onlyRun l p r s → (s.run r).state = .testing →
    let c := (s.run r).cell
    let k := s.cell c
    let x := s.lot l
    k.state = .running → k.current = some r → k.stack = [] → k.deadline = none → k.prep = none → k.changed = false →
    (k.draining = true ∨ ∀ m ∈ s.queue, m ≠ l → compatible k (stepOf s (s.lot m)) = false) →
    exec (.lotScrap h tag) s = .next (respond h 0x0314 (ok
      { sendOrder c .handler .stop s with
        lots := vset s.lots l { x with state := .scrapped, holds := [], runs := vset x.runs p .absent }
        runs := vset s.runs r .free
        cells := vset s.cells c { k with
          state := .idle, cause := none, since := s.timer, acc := k.accNow s.timer, current := none
          reserved := if k.reserved = some r then none else k.reserved }
        routes := vset s.routes x.route { s.route x.route with refs := (s.route x.route).refs - 1 }
        queue := s.queue.filter (· ≠ l) })))

/-- R27: LOT_RETIRE is accepted for a lot that is RELEASED, SCRAPPED, or FINISHED with all four grade quantities 0,
and refused WRONG_STATE in any other state; it returns the record to the VACANT values, lowers the route's count if
the lot was FINISHED, touches no shipment, and frees the tag. -/
def Obligations.LotRetireVacatesTheRecord : Prop :=
  ∀ (h : ReqHead) (tag : Tag) (s : State), inOperate (.lotRetire h tag) h s →
    (findLot s tag = none → exec (.lotRetire h tag) s = .next (respond h 0x0315 (refuse .notFound s)))
    ∧ ∀ l : LotSlot, findLot s tag = some l →
      let x := s.lot l
      let accepted : Prop := x.state = .released ∨ x.state = .scrapped
        ∨ (x.state = .finished ∧ ∀ g : Fin 4, x.gradeQty[g] = 0)
      let t := { s with
        lots := vset s.lots l .vacant
        routes := if x.state = .finished then
            vset s.routes x.route { s.route x.route with refs := (s.route x.route).refs - 1 } else s.routes }
      (¬ accepted → exec (.lotRetire h tag) s = .next (respond h 0x0315 (refuse .wrongState s)))
      ∧ (accepted → exec (.lotRetire h tag) s = .next (respond h 0x0315 (ok t)) ∧ t.ships = s.ships
        ∧ (s.lotTagsOk → findLot t tag = none))

/-- R28, R90, R164, R178: LOT_QUERY, CELL_QUERY, SHIP_QUERY, QUEUE_QUERY and STATUS change nothing but the outbound
list, and each of the first three is refused for what is not there. R186: the bodies of query responses have the
lengths their fields add up to: QUEUE_QUERY two bytes and fifteen for each entry, SHIP_QUERY 22 bytes and twelve for
each member, CELL_QUERY 101 bytes and one for each run of the stack, and a LOT_QUERY with 29 holds and four open runs
stays below 2,048 bytes with its status. R178: STATUS holds its items in their order, each at its place. R28, R136,
R186: LOT_QUERY holds the slot, the fields of Table 1-1, the in-queue flag, the hold records and the open runs in
position order, and a run record the fields of Table 7-1. (The model's readings of what the layouts leave open:
notes/assumptions/17.md, 18.md, 19.md and 33.md.) -/
def Obligations.QueriesChangeNothing : Prop :=
  (∀ (h : ReqHead) (tag : Tag) (cell : Byte) (s : State),
    (inOperate (.lotQuery h tag) h s → exec (.lotQuery h tag) s = .next (respond h 0x0316
        (match findLot s tag with
        | some l => okWith (lotData s l) s
        | none => refuse .notFound s)))
    ∧ (inOperate (.shipQuery h tag) h s → exec (.shipQuery h tag) s = .next (respond h 0x0337
        (match findShip s tag with
        | some n => okWith (shipData s n) s
        | none => refuse .notFound s)))
    ∧ (inOperate (.cellQuery h cell) h s →
      (s.profile.cellsInUse ≤ cell.toNat →
        exec (.cellQuery h cell) s = .next (respond h 0x0324 (refuse .range s)))
      ∧ ∀ c : CellIx, c.val = cell.toNat → c.val < s.profile.cellsInUse →
        exec (.cellQuery h cell) s = .next (respond h 0x0324 (okWith ((s.cell c).bytes s.timer) s)))
    ∧ (inOperate (.queueQuery h) h s → exec (.queueQuery h) s = .next (respond h 0x0340 (okWith (queueData s) s)))
    ∧ (admitted (.status h) h s → exec (.status h) s = .next (respond h 0x0341 (okWith (statusData s) s))))
  ∧ ((∀ s : State, (queueData s).length = 2 + 15 * s.queue.length)
    ∧ (∀ (s : State) (n : ShipSlot), (shipData s n).length = 22 + 12 * (s.ship n).members.length)
    ∧ (∀ (s : State) (c : CellIx), ((s.cell c).bytes s.timer).length = 101 + (s.cell c).stack.length)
    ∧ ∀ (s : State) (l : LotSlot), (s.lot l).holds.length ≤ 29 → (∀ r, (s.run r).ring.length ≤ 32) →
      (lotData s l).length + 1 < 2048)
  ∧ (∀ s : State,
    let b := statusData s
    let lots : LotState → Nat := fun x => (List.finRange 256).countP fun l => (s.lot l).state = x
    let cells : CellState → Nat := fun x => (List.finRange 64).countP fun c =>
      (s.cell c).configured = true ∧ (s.cell c).state = x
    let ships : ShipState → Nat := fun x => (List.finRange 64).countP fun n => (s.ship n).state = x
    let p := s.profile
    b.length = 59
    ∧ numAt b 0 1 = (if s.phase = .config then 0 else 1)
    ∧ (numAt b 1 2 = p.partStation.toNat ∧ numAt b 3 2 = p.floorHost.toNat ∧ numAt b 5 1 = p.cellsInUse % 256
      ∧ numAt b 6 1 = p.heartbeat % 256 ∧ numAt b 7 2 = p.load % 65536 ∧ numAt b 9 2 = p.golden % 65536
      ∧ numAt b 11 1 = p.closing % 256 ∧ numAt b 12 2 = p.counts % 65536
      ∧ numAt b 14 1 = (if p.goldenAfterDown then 1 else 0) ∧ numAt b 15 1 = p.aging % 256
      ∧ numAt b 16 1 = p.lookahead % 256 ∧ numAt b 17 1 = p.escalation % 256
      ∧ numAt b 18 1 = (if p.forwardResults then 1 else 0))
    ∧ numAt b 19 6 = s.floorClock.toNat
    ∧ (∀ n : Fin 6, numAt b (25 + 2 * n.val) 2 =
      lots (#v[LotState.waiting, .running, .held, .finished, .released, .scrapped][n]))
    ∧ numAt b 37 1 = ((List.finRange 192).countP fun r => (s.run r).state ≠ .free)
    ∧ numAt b 38 2 = s.queue.length % 65536
    ∧ numAt b 40 1 = ((List.finRange 64).countP fun c => (s.cell c).configured = true)
    ∧ (∀ n : Fin 11, numAt b (41 + n.val) 1 = cells (#v[CellState.offline, .idle, .changeover, .loading, .golden,
      .running, .pausing, .stopped, .down, .lost, .quarantined][n]))
    ∧ (∀ n : Fin 3, numAt b (52 + n.val) 1 = ships (#v[ShipState.opened, .sealed, .released][n]))
    ∧ numAt b 55 1 = s.noticeCount % 256 ∧ numAt b 56 1 = (if s.gapFlag then 1 else 0)
    ∧ numAt b 57 1 = ((List.finRange 48).countP fun i => (s.route i).steps ≠ [])
    ∧ numAt b 58 1 = ((List.finRange 64).countP fun i => (s.limit i).loaded = true))
  ∧ (∀ (s : State) (l : LotSlot),
    let b := lotData s l
    let x := s.lot l
    let f := x.figures
    let open' := (List.finRange 4).filterMap x.openAt
    let flag : Bool → Nat := fun c => if c then 1 else 0
    numAt b 0 1 = l.val ∧ numAt b 1 8 = x.tag.toNat ∧ numAt b 9 1 = x.route.val ∧ numAt b 10 1 = x.state.code
    ∧ numAt b 11 1 = x.step % 256 ∧ numAt b 12 1 = x.split % 256 ∧ numAt b 13 1 = x.runsPerStep % 256
    ∧ numAt b 14 1 = x.cls % 256 ∧ numAt b 15 4 = min 4294967295 (s.timer - x.classSince)
    ∧ numAt b 19 1 = flag x.preempt ∧ numAt b 20 4 = x.queueSeq % 4294967296
    ∧ numAt b 24 3 = x.started % 16777216 ∧ numAt b 27 3 = x.q % 16777216 ∧ numAt b 30 1 = x.toAssign % 256
    ∧ (∀ p : Fin 4, numAt b (31 + p.val) 1 = match x.runs[p] with
      | .run r => r.val
      | .closed => 0xFE
      | .absent => 0xFF)
    ∧ numAt b 35 1 = x.closedRuns % 256 ∧ numAt b 36 1 = flag x.stepStarted
    ∧ numAt b 37 3 = f.tested % 16777216 ∧ numAt b 40 3 = f.good % 16777216
    ∧ (∀ h : Fin 15, numAt b (43 + 3 * h.val) 3 = f.bins[h] % 16777216)
    ∧ numAt b 88 3 = f.goodFinal % 16777216 ∧ numAt b 91 3 = f.fedSum % 16777216
    ∧ (∀ g : Fin 4, numAt b (94 + 3 * g.val) 3 = f.gradeSums[g] % 16777216)
    ∧ numAt b 106 1 = flag x.yieldWaived ∧ numAt b 107 1 = flag x.binWaived ∧ numAt b 108 1 = flag x.stepClosed
    ∧ numAt b 109 1 = flag x.routeComplete
    ∧ (∀ g : Fin 4, numAt b (110 + 3 * g.val) 3 = x.gradeQty[g] % 16777216)
    ∧ (∀ g : Fin 4, numAt b (122 + g.val) 1 = match x.marks[g] with
      | .inShipment n => n.val
      | .free => 0x40
      | .released => 0x41)
    ∧ numAt b 126 1 = flag (s.queue.contains l) ∧ numAt b 127 1 = x.holds.length % 256
    ∧ (∀ (n : Nat) (h : Hold), x.holds[n]? = some h →
      let at' := 128 + 13 * n
      numAt b at' 1 = h.kind.code ∧ numAt b (at' + 1) 1 = (match h.pos with
        | some p => p.val
        | none => 0xFF)
      ∧ numAt b (at' + 2) 1 = h.policy.code ∧ numAt b (at' + 3) 1 = h.step % 256
      ∧ numAt b (at' + 4) 6 = h.floorTime.toNat
      ∧ numAt b (at' + 10) 1 = (if h.value.isSome then 1 else 0)
      ∧ numAt b (at' + 11) 2 = h.value.getD 0 % 65536)
    ∧ b.drop (128 + 13 * x.holds.length) = BitVec.ofNat 8 open'.length :: open'.flatMap fun r => (s.run r).bytes)
  ∧ ∀ run : Run,
    let b := run.bytes
    let after := 131 + 2 * run.ring.length
    let tail := b.drop after
    let from' : Option ActiveState → Nat := fun o => match o with
      | some .testing => 0x0102
      | some .closing => 0x0103
      | none => 0
    b.length = after + 50
    ∧ numAt b 0 1 = run.lot.val ∧ numAt b 1 1 = run.pos.val ∧ numAt b 2 1 = run.cell.val ∧ numAt b 3 1 = run.state.code
    ∧ numAt b 4 2 = from' run.stoppedFrom ∧ numAt b 6 2 = from' run.suspendedFrom ∧ numAt b 8 1 = run.pass % 256
    ∧ numAt b 9 3 = run.tested % 16777216 ∧ numAt b 12 3 = run.good % 16777216
    ∧ numAt b 15 3 = run.recovered % 16777216
    ∧ (∀ a : Fin 16, numAt b (18 + 3 * a.val) 3 = run.sites[a].tested % 16777216
      ∧ numAt b (66 + 3 * a.val) 3 = run.sites[a].fail % 16777216
      ∧ numAt b (114 + a.val) 1 = run.sites[a].streak % 256)
    ∧ numAt b 130 1 = run.ring.length % 256
    ∧ (∀ (n : Nat) (e : RingEntry), run.ring[n]? = some e →
      numAt b (131 + 2 * n) 1 = e.tested % 256 ∧ numAt b (132 + 2 * n) 1 = e.good % 256)
    ∧ (∀ t : Fin 8, numAt tail (3 * t.val) 3 = run.ledger[t] % 16777216)
    ∧ numAt tail 24 3 = run.outstanding % 16777216 ∧ numAt tail 27 3 = run.shortfall % 16777216
    ∧ numAt tail 30 3 = run.surplus % 16777216
    ∧ numAt tail 33 1 = (if run.handlerFed.isSome then 1 else 0)
    ∧ numAt tail 34 3 = run.handlerFed.getD 0 % 16777216
    ∧ numAt tail 37 1 = (if run.target.isSome then 1 else 0) ∧ numAt tail 38 2 = (run.target.getD 0).toNat
    ∧ numAt tail 40 1 = (if run.targetReached then 1 else 0) ∧ numAt tail 41 2 = run.sinceGolden % 65536
    ∧ numAt tail 43 1 = (if run.startTime.isSome then 1 else 0) ∧ numAt tail 44 6 = (run.startTime.getD 0).toNat

/-- R151, R149, R18, R14: RUN_ABORT of the one open run of a lot, TESTING on a RUNNING cell with nothing to pop or
match, when the step has further positions and no RECON hold: STOP goes to the handler, RECON is raised, the run's
figures join the lot's, its position closes, the record is FREE, the lot is HELD and out of the queue, and the cell
goes IDLE. -/
def Obligations.RunAbortClosesTheRun : Prop :=
  (∀ (h : ReqHead) (tag : Tag) (pos : Byte) (s : State), inOperate (.runAbort h tag pos) h s →
    (3 < pos.toNat → exec (.runAbort h tag pos) s = .next (respond h 0x0317 (refuse .range s)))
    ∧ (pos.toNat ≤ 3 → findLot s tag = none →
        exec (.runAbort h tag pos) s = .next (respond h 0x0317 (refuse .notFound s)))
    ∧ ∀ (p : RunPlace) (l : LotSlot), p.val = pos.toNat → findLot s tag = some l → (s.lot l).openAt p = none →
        exec (.runAbort h tag pos) s = .next (respond h 0x0317 (refuse .notFound s)))
  ∧ ∀ (h : ReqHead) (tag : Tag) (pos : Byte) (p : RunPlace) (l : LotSlot) (r : RunIx) (s : State),
    inOperate (.runAbort h tag pos) h s → p.val = pos.toNat → findLot s tag = some l →
    ((s.lot l).state = .waiting ∨ (s.lot l).state = .running) → (s.lot l).holdsKind .recon none = false →
    onlyRun l p r s → (s.run r).state = .testing → (s.lot l).closedRuns + 1 < (s.lot l).runsPerStep →
    let c := (s.run r).cell
    let k := s.cell c
    k.state = .running → k.current = some r → k.stack = [] → k.deadline = none → k.prep = none → k.changed = false →
    (k.draining = true ∨ ∀ m ∈ s.queue, m ≠ l → compatible k (stepOf s (s.lot m)) = false) →
    let u := postNotice (.holdRaised (s.lot l).tag .recon none .finish none) (sendOrder c .handler .stop s)
    exec (.runAbort h tag pos) s = .next (respond h 0x0317 (ok
      { u with
        lots := vset s.lots l { s.lot l with
          state := .held
          holds := (s.lot l).holds ++ [newHold s l .recon none .finish none]
          figures := (s.lot l).figures.withRun (stepOfRun s r) (s.run r)
          runs := vset (s.lot l).runs p .closed
          closedRuns := (s.lot l).closedRuns + 1 }
        runs := vset s.runs r .free
        cells := vset s.cells c { k with
          state := .idle, cause := none, since := s.timer, acc := k.accNow s.timer, current := none
          reserved := if k.reserved = some r then none else k.reserved }
        queue := s.queue.filter (· ≠ l) }))

/-! ## Cells (Chapter 4) -/

/-- R87, R81: CELL_CLEAR is refused RANGE, and WRONG_STATE with the cell's states for a cell that is not QUARANTINED
or whose stations are not both READY; accepted for a cell with no run, it zeroes the down counter, restarts the
heartbeat watch and returns the cell to IDLE, with CELL_CHANGED when the marker is set; with a STOPPED current run
that a hold still holds back, the cell goes STOPPED. R87, R82, R97, R99, R103: a cell whose current run is TESTING,
CLOSING or SUSPENDED is prepared for it, always with a golden check: by a changeover with SETUP when kit or
temperature differ, by GOLDEN to both stations at once when nothing differs. (A reported state of none reads as a
presence byte and zeros: notes/assumptions/33.md.) -/
def Obligations.CellClearRecoversTheCell : Prop :=
  ∀ (h : ReqHead) (cell : Byte) (s : State), inOperate (.cellClear h cell) h s →
    (s.profile.cellsInUse ≤ cell.toNat →
      exec (.cellClear h cell) s = .next (respond h 0x0320 (refuse .range s)))
    ∧ ∀ c : CellIx, c.val = cell.toNat → c.val < s.profile.cellsInUse →
      let k := s.cell c
      let ready : Prop := k.state = .quarantined ∧ k.repTester = some .ready ∧ k.repHandler = some .ready
      let t := s.setCell c { k with
        downCount := 0, clearTime := some s.timer, cause := none, state := .idle, since := s.timer
        acc := k.accNow s.timer, changed := false }
      (¬ ready → exec (.cellClear h cell) s = .next (respond h 0x0320 (refuseWith .wrongState
          ([BitVec.ofNat 8 k.state.code] ++ optBytes 1 (k.repTester.map StationReport.code)
            ++ optBytes 1 (k.repHandler.map StationReport.code)) s)))
      ∧ (ready → k.current = none → k.stack = [] → nothingFor c s →
        exec (.cellClear h cell) s = .next (respond h 0x0320 (ok
          (if k.changed then postNotice (.cellChanged c .idle none) t else t))))
      ∧ (∀ r, ready → k.current = some r → (s.run r).state = .stopped → runBlocked s r = true →
        exec (.cellClear h cell) s = .next (respond h 0x0320 (ok (s.setCell c { k with
          downCount := 0, clearTime := some s.timer, cause := none, state := .stopped, since := s.timer
          acc := k.accNow s.timer }))))
      ∧ ∀ r, ready → k.current = some r →
        ((s.run r).state = .testing ∨ (s.run r).state = .closing ∨ (s.run r).state = .suspended) → runDeadline k →
        let st := stepOfRun s r
        let cleared : Cell := { k with downCount := 0, clearTime := some s.timer }
        (setupCost k st = 0 → exec (.cellClear h cell) s = .next (respond h 0x0320 (ok
          ((sendBoth c (.golden st.siteCount) s).setCell c (checking cleared r .return .clear st s)))))
        ∧ ((k.kit ≠ some st.kit ∨ k.temp ≠ some st.setpoint) → exec (.cellClear h cell) s = .next (respond h 0x0320 (ok
          ((sendOrder c .handler (.setup st.kit st.setpoint) s).setCell c
            (changingOver cleared r .clear true st s)))))

/-- R88, R93: CELL_RESET is refused WRONG_STATE for a QUARANTINED cell; a cell with no run and no preparation goes
OFFLINE with its program, reports, expectation and down counter cleared, its notice posted when it was not OFFLINE,
and its equipment, accumulators and configuration kept. R112, R107: a preparation in hand without a run is discarded
first, a golden check in flight recorded ABORTED with its notice, its deadline cancelled and one set aside armed
again. R88, R12, R138: a TESTING current run is held last by LOST at its position, sent STOP and becomes STOPPED,
bound to the cell. (That a cell already OFFLINE keeps its accumulators and its state-since time is the model's
reading, notes/assumptions/16.md.) -/
def Obligations.CellResetTakesTheCellOffline : Prop :=
  ∀ (h : ReqHead) (cell : Byte) (s : State), inOperate (.cellReset h cell) h s →
    (s.profile.cellsInUse ≤ cell.toNat →
      exec (.cellReset h cell) s = .next (respond h 0x0321 (refuse .range s)))
    ∧ ∀ c : CellIx, c.val = cell.toNat → c.val < s.profile.cellsInUse →
      let k := s.cell c
      let reset : Cell → Cell := fun k => { k with
        repTester := none, repHandler := none, expected := none, program := none, downCount := 0, lastLoad := none
        goldenValid := false }
      (k.state = .quarantined → exec (.cellReset h cell) s = .next (respond h 0x0321 (refuse .wrongState s)))
      ∧ (k.state = .offline → k.current = none → k.reserved = none → k.prep = none →
        exec (.cellReset h cell) s = .next (respond h 0x0321 (ok (s.setCell c (reset k)))))
      ∧ (k.state ≠ .quarantined → k.state ≠ .offline → k.current = none → k.reserved = none → k.prep = none →
        exec (.cellReset h cell) s = .next (respond h 0x0321 (ok (postNotice (.cellChanged c .offline none)
          (s.setCell c { reset k with
            state := .offline, cause := none, since := s.timer, acc := k.accNow s.timer, changed := true })))))
      ∧ (∀ j, k.state ≠ .quarantined → k.state ≠ .offline → k.current = none → k.reserved = none → k.prep = some j →
        let checked := j.stage = .golden
        let u := if checked then postNotice (.goldenDone c 0 k.enabled .aborted) s else s
        exec (.cellReset h cell) s = .next (respond h 0x0321 (ok (postNotice (.cellChanged c .offline none)
          (u.setCell c { reset k with
            prep := none, deadline := deadlineLeft k s
            golden := if checked then ⟨0, .aborted, s.floorClock⟩ else k.golden
            state := .offline, cause := none, since := s.timer, acc := k.accNow s.timer, changed := true })))))
      ∧ ∀ (l : LotSlot) (p : RunPlace) (r : RunIx), k.state ≠ .quarantined → k.current = some r → k.reserved = none →
        k.prep = none → onlyRun l p r s → (s.run r).cell = c → (s.run r).state = .testing → (s.lot l).state = .running →
        (s.lot l).holdsKind .lost (some p) = false → (s.lot l).lotBlocked = false → inPlace l s →
        let x := s.lot l
        let u := if k.state = .offline then s else postNotice (.cellChanged c .offline none) s
        exec (.cellReset h cell) s = .next (respond h 0x0321 (ok
          { sendOrder c .handler .stop (postNotice (.holdRaised x.tag .lost (some p) .stop none) u) with
            lots := vset s.lots l { x with holds := x.holds ++ [newHold s l .lost (some p) .stop none] }
            runs := vset s.runs r { s.run r with state := .stopped, stoppedFrom := some .testing }
            cells := vset s.cells c (if k.state = .offline then reset k else { reset k with
              state := .offline, cause := none, since := s.timer, acc := k.accNow s.timer, changed := true }) }))

/-- R89, R92, R118: CELL_DRAIN sets or clears the draining flag of any cell, and CELL_COUNTERS_CLEAR zeroes its five
accumulators and restarts its open period; both are refused RANGE for a cell out of use, CELL_DRAIN for a setting that
is neither. A cell that the cleared flag leaves eligible stays IDLE where no queued lot is compatible with it. -/
def Obligations.DrainAndCountersClear : Prop :=
  ∀ (h : ReqHead) (cell setting : Byte) (s : State),
    (inOperate (.cellDrain h cell setting) h s →
      ((s.profile.cellsInUse ≤ cell.toNat ∨ 1 < setting.toNat) →
        exec (.cellDrain h cell setting) s = .next (respond h 0x0322 (refuse .range s)))
      ∧ ∀ c : CellIx, c.val = cell.toNat → c.val < s.profile.cellsInUse →
        (setting = 1 → exec (.cellDrain h cell setting) s =
          .next (respond h 0x0322 (ok (s.setCell c { s.cell c with draining := true }))))
        ∧ (setting = 0 → ((s.cell c).state ≠ .idle ∨ (s.cell c).stack ≠ []
            ∨ ∀ l ∈ s.queue, compatible (s.cell c) (stepOf s (s.lot l)) = false) →
          exec (.cellDrain h cell setting) s =
            .next (respond h 0x0322 (ok (s.setCell c { s.cell c with draining := false })))))
    ∧ (inOperate (.cellCountersClear h cell) h s →
      (s.profile.cellsInUse ≤ cell.toNat →
        exec (.cellCountersClear h cell) s = .next (respond h 0x0323 (refuse .range s)))
      ∧ ∀ c : CellIx, c.val = cell.toNat → c.val < s.profile.cellsInUse →
        exec (.cellCountersClear h cell) s = .next (respond h 0x0323 (ok
          (s.setCell c { s.cell c with acc := ⟨0, 0, 0, 0, 0⟩, since := s.timer }))))

/-! ## Shipments (Chapter 8) -/

/-- R156: SHIP_OPEN is refused in its order, and fills the lowest VACANT record and answers its slot. -/
def Obligations.ShipOpenFillsARecord : Prop :=
  ∀ (h : ReqHead) (tag : Tag) (product : BitVec 32) (grade : Byte) (maximum : BitVec 24) (s : State),
    let i : Instr := .shipOpen h tag product grade maximum
    inOperate i h s →
    let good : Prop := 1 ≤ grade.toNat ∧ grade.toNat ≤ 4 ∧ 1 ≤ maximum.toNat ∧ maximum.toNat ≤ 999999
    (¬ good → exec i s = .next (respond h 0x0330 (refuse .range s)))
    ∧ (good → findShip s tag ≠ none → exec i s = .next (respond h 0x0330 (refuse .duplicate s)))
    ∧ (good → findShip s tag = none → (∀ n, (s.ship n).state ≠ .vacant) →
      exec i s = .next (respond h 0x0330 (refuse .noSlot s)))
    ∧ ∀ n : ShipSlot, good → findShip s tag = none → (s.ship n).state = .vacant →
      (∀ m, m < n → (s.ship m).state ≠ .vacant) →
      exec i s = .next (respond h 0x0330 (okWith [BitVec.ofNat 8 n.val] (s.setShip n
        { tag := tag, product := product, grade := grade.toNat, maximum := maximum.toNat, quantity := 0,
          state := .opened, members := [] })))

/-- R157: SHIP_ADD is refused with the first of its eight conditions that applies, and appends a member with the
portion's quantity, adds the quantity, marks the portion, and answers the new quantity and member count. R158:
SHIP_REMOVE takes the member that carries the lot's tag out of an OPEN shipment, those behind it closing up, frees its
portion, and answers the new quantity and member count. -/
def Obligations.MembersComeAndGo : Prop :=
  (∀ (h : ReqHead) (tag lot : Tag) (s : State), inOperate (.shipAdd h tag lot) h s →
    ((findShip s tag = none ∨ findLot s lot = none) →
      exec (.shipAdd h tag lot) s = .next (respond h 0x0331 (refuse .notFound s)))
    ∧ ∀ (n : ShipSlot) (l : LotSlot) (g : Fin 4), findShip s tag = some n → findLot s lot = some l →
      (s.ship n).grade = g.val + 1 →
      let x := s.ship n
      let y := s.lot l
      let q := y.gradeQty[g]
      let reply := exec (.shipAdd h tag lot) s
      (x.state ≠ .opened → reply = .next (respond h 0x0331 (refuse .wrongState s)))
      ∧ (x.state = .opened → (y.state ≠ .finished → reply = .next (respond h 0x0331 (refuse .wrongState s)))
      ∧ (y.state = .finished →
        ((s.route y.route).product ≠ x.product → reply = .next (respond h 0x0331 (refuse .conflict s)))
      ∧ ((s.route y.route).product = x.product →
        (q = 0 → reply = .next (respond h 0x0331 (refuse .notFound s)))
      ∧ (q ≠ 0 → (y.marks[g] ≠ .free → reply = .next (respond h 0x0331 (refuse .inUse s)))
      ∧ (y.marks[g] = .free → (8 ≤ x.members.length → reply = .next (respond h 0x0331 (refuse .noSlot s)))
      ∧ (x.members.length < 8 →
        (x.maximum < x.quantity + q → reply = .next (respond h 0x0331 (refuse .range s)))
      ∧ (x.quantity + q ≤ x.maximum → reply = .next (respond h 0x0331 (okWith
          (beBytes 3 (x.quantity + q) ++ [BitVec.ofNat 8 (x.members.length + 1)])
          { s with
            ships := vset s.ships n
              { x with members := x.members ++ [⟨y.tag, l, q⟩], quantity := x.quantity + q }
            lots := vset s.lots l { y with marks := vset y.marks g (.inShipment n) } }))))))))))
  ∧ (∀ (h : ReqHead) (tag lot : Tag) (s : State), inOperate (.shipRemove h tag lot) h s →
    (findShip s tag = none → exec (.shipRemove h tag lot) s = .next (respond h 0x0332 (refuse .notFound s)))
    ∧ ∀ (n : ShipSlot) (g : Fin 4), findShip s tag = some n → (s.ship n).grade = g.val + 1 →
      let x := s.ship n
      (x.state ≠ .opened → exec (.shipRemove h tag lot) s = .next (respond h 0x0332 (refuse .wrongState s)))
      ∧ (x.state = .opened → (∀ m ∈ x.members, m.tag ≠ lot) →
        exec (.shipRemove h tag lot) s = .next (respond h 0x0332 (refuse .notFound s)))
      ∧ ∀ (before after : List Member) (m : Member), x.state = .opened → x.members = before ++ m :: after →
        m.tag = lot → (∀ a ∈ before, a.tag ≠ lot) →
        exec (.shipRemove h tag lot) s = .next (respond h 0x0332 (okWith
          (beBytes 3 (x.quantity - m.quantity) ++ [BitVec.ofNat 8 (before ++ after).length])
          { s with
            ships := vset s.ships n { x with members := before ++ after, quantity := x.quantity - m.quantity }
            lots := vset s.lots m.slot
              { s.lot m.slot with marks := vset (s.lot m.slot).marks g .free } })))

/-- R159: SHIP_SEAL seals an OPEN shipment that has members; a shipment that is not OPEN takes no SHIP_ADD and no
SHIP_REMOVE. R162: SHIP_CANCEL frees the portion of every member of an OPEN or SEALED shipment, posts no notice,
changes no lot's state and empties the record; it is refused WRONG_STATE for a RELEASED one. -/
def Obligations.ShipmentsSealAndCancel : Prop :=
  ((∀ (h : ReqHead) (tag : Tag) (s : State), inOperate (.shipSeal h tag) h s →
    (findShip s tag = none → exec (.shipSeal h tag) s = .next (respond h 0x0333 (refuse .notFound s)))
    ∧ ∀ n : ShipSlot, findShip s tag = some n →
      (((s.ship n).state ≠ .opened ∨ (s.ship n).members = []) →
        exec (.shipSeal h tag) s = .next (respond h 0x0333 (refuse .wrongState s)))
      ∧ ((s.ship n).state = .opened → (s.ship n).members ≠ [] →
        exec (.shipSeal h tag) s = .next (respond h 0x0333 (ok (s.setShip n { s.ship n with state := .sealed })))))
  ∧ ∀ (h : ReqHead) (tag lot : Tag) (n : ShipSlot) (s : State), findShip s tag = some n → (s.ship n).state = .sealed →
    (inOperate (.shipAdd h tag lot) h s → findLot s lot ≠ none →
      exec (.shipAdd h tag lot) s = .next (respond h 0x0331 (refuse .wrongState s)))
    ∧ (inOperate (.shipRemove h tag lot) h s →
      exec (.shipRemove h tag lot) s = .next (respond h 0x0332 (refuse .wrongState s))))
  ∧ (∀ (h : ReqHead) (tag : Tag) (s : State), inOperate (.shipCancel h tag) h s →
    (findShip s tag = none → exec (.shipCancel h tag) s = .next (respond h 0x0335 (refuse .notFound s)))
    ∧ ∀ (n : ShipSlot) (g : Fin 4), findShip s tag = some n → (s.ship n).grade = g.val + 1 →
      ((s.ship n).state = .released →
        exec (.shipCancel h tag) s = .next (respond h 0x0335 (refuse .wrongState s)))
      ∧ ((s.ship n).state ≠ .released →
        exec (.shipCancel h tag) s = .next (respond h 0x0335 (ok
          { s with
            ships := vset s.ships n .vacant
            lots := Vector.ofFn fun l =>
              if (s.ship n).members.any fun m => m.slot == l then
                { s.lot l with marks := vset (s.lot l).marks g .free } else s.lot l }))))

/-- R160, R161, R5: SHIP_RELEASE of a SEALED shipment whose members' lots are all FINISHED, in slots of their own,
releases the shipment, marks every member's portion released, posts SHIPMENT_RELEASED, and makes RELEASED each
member's lot that has no portion left, lowering its route's count; it is refused MEMBER_HELD, with the tag, for the
first member that is not FINISHED. -/
def Obligations.ShipReleaseReleasesThePortions : Prop :=
  ∀ (h : ReqHead) (tag : Tag) (s : State), inOperate (.shipRelease h tag) h s →
    (findShip s tag = none → exec (.shipRelease h tag) s = .next (respond h 0x0334 (refuse .notFound s)))
    ∧ ∀ (n : ShipSlot) (g : Fin 4), findShip s tag = some n → (s.ship n).grade = g.val + 1 →
      let x := s.ship n
      (x.state ≠ .sealed → exec (.shipRelease h tag) s = .next (respond h 0x0334 (refuse .wrongState s)))
      ∧ (∀ (before after : List Member) (m : Member), x.state = .sealed → x.members = before ++ m :: after →
        (∀ a ∈ before, (s.lot a.slot).state = .finished) → (s.lot m.slot).state ≠ .finished →
        exec (.shipRelease h tag) s = .next (respond h 0x0334 (refuseWith .memberHeld (beBytes 8 m.tag.toNat) s)))
      ∧ (x.state = .sealed → (∀ m ∈ x.members, (s.lot m.slot).state = .finished) →
        (x.members.map (·.slot)).Nodup →
        ∃ t, exec (.shipRelease h tag) s = .next (respond h 0x0334 (ok t))
          ∧ t.ship n = { x with state := .released } ∧ (∀ m, m ≠ n → t.ship m = s.ship m)
          ∧ (∀ l, (∀ m ∈ x.members, m.slot ≠ l) → t.lot l = s.lot l)
          ∧ (∀ m ∈ x.members,
            let y := { s.lot m.slot with marks := vset (s.lot m.slot).marks g .released }
            let gone : Prop := ∀ f : Fin 4, y.gradeQty[f] ≠ 0 → y.marks[f] = .released
            (gone → t.lot m.slot = { y with state := .released }) ∧ (¬ gone → t.lot m.slot = y))
          ∧ (∀ i, (t.route i).steps = (s.route i).steps ∧ (t.route i).product = (s.route i).product
            ∧ (t.route i).refs = (s.route i).refs - x.members.countP fun m =>
              (s.lot m.slot).route == i && decide ((t.lot m.slot).state = .released))
          ∧ t = { postNotice (.shipmentReleased x.tag x.grade x.quantity x.members.length) s with
              ships := t.ships, lots := t.lots, routes := t.routes })

/-- R163: SHIP_RETIRE returns a RELEASED shipment's record to the VACANT values, touches no lot, and frees the tag; it
is refused NOT_FOUND for an unknown tag and WRONG_STATE for a shipment that is not RELEASED. -/
def Obligations.ShipRetireVacatesTheRecord : Prop :=
  ∀ (h : ReqHead) (tag : Tag) (s : State), inOperate (.shipRetire h tag) h s →
    (findShip s tag = none → exec (.shipRetire h tag) s = .next (respond h 0x0336 (refuse .notFound s)))
    ∧ ∀ n : ShipSlot, findShip s tag = some n →
      ((s.ship n).state ≠ .released → exec (.shipRetire h tag) s = .next (respond h 0x0336 (refuse .wrongState s)))
      ∧ ((s.ship n).state = .released →
        exec (.shipRetire h tag) s = .next (respond h 0x0336 (ok (s.setShip n
          { tag := 0, product := 0, grade := 0, maximum := 0, quantity := 0, state := .vacant, members := [] })))
        ∧ (s.setShip n .vacant).lots = s.lots
        ∧ (s.shipsOk → findShip (s.setShip n .vacant) tag = none))

/-- R182, R94, R2, R135, R154, R36: FLOOR_RESET empties the lots, runs, shipments, queue, orders and notices, takes
every cell OFFLINE with the fields of R94, zeroes the route counts, keeps the configuration, the equipment, the
clocks, the responses and both forward queues, and answers OK. -/
def Obligations.FloorResetEmptiesTheFloor : Prop :=
  ∀ (h : ReqHead) (s : State), inOperate (.floorReset h) h s →
    exec (.floorReset h) s = .next (respond h 0x0342 (ok
      { s with
        lots := Vector.replicate 256 .vacant
        runs := Vector.replicate 192 .free
        ships := Vector.replicate 64 .vacant
        routes := Vector.ofFn fun i => { s.route i with refs := 0 }
        cells := Vector.ofFn fun c =>
          { Cell.powerOn with
            configured := (s.cell c).configured, tester := (s.cell c).tester, handler := (s.cell c).handler
            cls := (s.cell c).cls, since := s.timer, heardTester := (s.cell c).heardTester
            heardHandler := (s.cell c).heardHandler, kit := (s.cell c).kit, temp := (s.cell c).temp
            golden := (s.cell c).golden, enabled := (s.cell c).enabled }
        queue := []
        seqCounter := 0
        orders := []
        outbound := s.outbound.filter fun o => match o with
          | .response _ => true
          | .notice _ => false
        noticeCount := 0
        gapFlag := false }))

/-! ## Reports and expiries (Chapters 4, 5, 6, 9) -/

/-- R167, R169, R73: a report that is not well formed changes nothing; a well-formed one addressed elsewhere is queued
for forwarding, a TOUCHDOWN in OPERATE only while results are forwarded; in CONFIG, or from a station that the index
does not hold, it does nothing more; from a station of the index in OPERATE it sets that station's last-heard time,
whatever its owner does with it, and no other. (That the report is forwarded, and begins to leave on an idle port,
before its owner handles it is the model's reading, notes/assumptions/13.md: `metBy`. A destination of 0 or 65535
counts as elsewhere: its reading too, notes/assumptions/34.md.) -/
def Obligations.ReportsAreHeard : Prop :=
  ∀ (i : Instr) (e : Envelope) (body b : List Byte) (s : State), i.reportParts = some (e, body) → i.reportFrame = some b →
    let sent : State :=
      if e.dst = s.profile.partStation
        ∨ (i.kindCode = some 0x0106 ∧ s.phase = .operate ∧ s.profile.forwardResults = false) then s
      else forwardCF b s
    (i.wf = false → exec i s = .next s)
    ∧ (i.wf = true → (s.phase = .config ∨ findStation s e.src = none) → exec i s = .next sent)
    ∧ ∀ (c : CellIx) (role : Role), fromStation i e c role s →
      metBy i e c role s = sent.setCell c (match role with
        | .tester => { s.cell c with heardTester := some s.timer }
        | .handler => { s.cell c with heardHandler := some s.timer })
      ∧ ∃ t, exec i s = .next t ∧ (t.cell c).heard role = some s.timer
        ∧ ∀ d other, (d ≠ c ∨ other ≠ role) → (t.cell d).heard other = (s.cell d).heard other

/-- R75, R184: a STATE report names a state of its station's role by its code, and any other code is heard only; a
valid report that starts nothing in the cell's state is recorded as the station's reported state, and nothing else
changes. (`metBy` stands on notes/assumptions/13.md.) -/
def Obligations.StateReportsAreRecorded : Prop :=
  (∀ (role : Role) (code : Byte) (rep : StationReport), stationReportOf role code = some rep ↔
      rep.code = code.toNat ∧ rep ∈ (match role with
        | .tester => [StationReport.ready, .busy, .alarm]
        | .handler => [StationReport.ready, .running, .paused, .jam, .setup]))
    ∧ ∀ (e : Envelope) (code : Byte) (c : CellIx) (role : Role) (s : State), fromStation (.state e code) e c role s →
      let u := metBy (.state e code) e c role s
      let k := u.cell c
      let told : StationReport → Cell := fun rep => match role with
        | .tester => { k with repTester := some rep }
        | .handler => { k with repHandler := some rep }
      (stationReportOf role code = none → exec (.state e code) s = .next u)
      ∧ ∀ rep, stationReportOf role code = some rep →
        (rep = .busy ∨ rep = .running ∨ rep = .setup
          ∨ (rep = .ready ∧ (k.state ∉ [CellState.offline, .lost, .down] ∨ (told rep).bothReady = false))
          ∨ ((rep = .jam ∨ rep = .alarm) ∧ k.state ∈ [CellState.offline, .lost, .down, .quarantined])
          ∨ (rep = .paused ∧ k.state ≠ .pausing)) →
        exec (.state e code) s = .next (u.setCell c (told rep))

/-- R79, R80, R85, R93, R108, R112: a handler's JAM or a tester's ALARM on an operational cell with no preparation,
and the expiry of a stage deadline, put a cell whose interruption withdraws no run DOWN with its cause, or QUARANTINED
with ESCALATION when the down counter reaches the limit; a golden check in flight is recorded ABORTED, with its notice
first. R77, R78, R93, R12, R138: the expiry of a station's heartbeat, due when the station has been silent for the
limit since the later of its last-heard time and the clear time, puts a cell with no preparation in LOST, its reports,
expectation and golden-valid flag cleared, with CELL_CHANGED; a TESTING current run is stopped by a LOST hold at its
position. R80, R123, R112, R6: a JAM on a cell in preparation for an ASSIGNED run withdraws the run before
CELL_CHANGED: its record is FREE, its position absent, to-assign one higher, and its lot back in the queue, where no
cell can take it, with its kept sequence. (`metBy` stands on notes/assumptions/13.md.) -/
def Obligations.FaultsTakeTheCellOut : Prop :=
  ((∀ (e : Envelope) (code : Byte) (c : CellIx) (role : Role) (s : State), fromStation (.state e code) e c role s →
    let u := metBy (.state e code) e c role s
    let k : Cell := match role with
      | .tester => { u.cell c with repTester := some .alarm }
      | .handler => { u.cell c with repHandler := some .jam }
    let cause : Cause := match role with
      | .tester => .alarm
      | .handler => .jam
    code = (match role with
      | .tester => 2
      | .handler => 5) →
    k.state.operational = true → k.prep = none → (∀ d ∈ k.deadline, d.kind = .closing ∨ d.kind = .counts) →
    noWithdrawal k s →
    exec (.state e code) s = .next (postNotice (faultNotice c k cause s) (u.setCell c (faulted k cause s))))
  ∧ ∀ (c : CellIx) (d : Deadline) (p : Prep) (s : State),
    let k := s.cell c
    k.deadline = some d → d.kind ∈ [DeadlineKind.changeover, .load, .golden] → d.expiry ≤ s.timer → k.prep = some p →
    k.state ≠ .down → k.state ≠ .quarantined → noWithdrawal k s →
    let j : Cell := if p.stage = .golden then { k with golden := ⟨0, .aborted, s.floorClock⟩ } else k
    let u : State := if p.stage = .golden then postNotice (.goldenDone c 0 k.enabled .aborted) s else s
    exec (.stageDeadlineExpiry c) s =
      .next (postNotice (faultNotice c k .timeout s) (u.setCell c (faulted j .timeout s))))
  ∧ (∀ (c : CellIx) (role : Role) (t : Nat) (s : State),
    let k := s.cell c
    k.state ∉ [CellState.offline, .lost, .quarantined] → (k.heard role = some t ∨ k.clearTime = some t) →
    (∀ u ∈ k.heard role, u ≤ t) → (∀ u ∈ k.clearTime, u ≤ t) → t + 1000 * s.profile.heartbeat ≤ s.timer →
    k.prep = none → k.reserved = none →
    let lost : Cell := { k with
      state := .lost, cause := none, since := s.timer, acc := k.accNow s.timer, changed := true, goldenValid := false
      repTester := none, repHandler := none, expected := none }
    let u := postNotice (.cellChanged c .lost none) s
    (k.current = none → exec (.heartbeatExpiry c role) s = .next (u.setCell c lost))
    ∧ ∀ (l : LotSlot) (p : RunPlace) (r : RunIx), k.current = some r → onlyRun l p r s → (s.run r).cell = c →
      (s.run r).state = .testing → (s.lot l).state = .running → (s.lot l).holdsKind .lost (some p) = false →
      (s.lot l).lotBlocked = false → inPlace l s →
      let x := s.lot l
      exec (.heartbeatExpiry c role) s = .next
        { sendOrder c .handler .stop (postNotice (.holdRaised x.tag .lost (some p) .stop none) u) with
          lots := vset s.lots l { x with holds := x.holds ++ [newHold s l .lost (some p) .stop none] }
          runs := vset s.runs r { s.run r with state := .stopped, stoppedFrom := some .testing }
          cells := vset s.cells c lost })
  ∧ (∀ (e : Envelope) (c : CellIx) (l : LotSlot) (p : RunPlace) (r : RunIx) (j : Prep) (s : State),
    fromStation (.state e 5) e c .handler s →
    let u := metBy (.state e 5) e c .handler s
    let k : Cell := { u.cell c with repHandler := some .jam }
    let x := s.lot l
    let checked := j.stage = .golden
    let v := if checked then postNotice (.goldenDone c 0 k.enabled .aborted) u else u
    let y : Lot := { x with toAssign := x.toAssign + 1, runs := vset x.runs p .absent }
    k.state ∈ [CellState.changeover, .loading, .golden] → k.prep = some j → k.current = some r → k.reserved = none →
    r ∉ k.stack → onlyRun l p r s → (s.run r).cell = c → (s.run r).state = .assigned →
    (x.state = .waiting ∨ x.state = .running) → x.lotBlocked = false → l ∉ s.queue → notAging x s →
    noCellFor (stepOf s x) s → noCandidateFor x.cls x.preempt (stepOf s x) s →
    exec (.state e 5) s = .next { postNotice (faultNotice c k .jam s) v with
      lots := vset s.lots l y, runs := vset s.runs r .free, queue := placeIn (s.setLot l y) l s.queue
      cells := vset u.cells c { faulted k .jam s with
        current := none, golden := if checked then ⟨0, .aborted, s.floorClock⟩ else k.golden } })

/-- R81, R84, R93: the READY that makes both stations ready brings a cell with no run and nothing to pop or match from
OFFLINE, LOST or DOWN to IDLE, with CELL_CHANGED when its marker is set; a cell whose current run is ENDING goes
RUNNING and sends no order, and one whose STOPPED run a hold holds back goes STOPPED. R81, R82, R97, R109, R137: a
cell whose current run is TESTING, CLOSING or SUSPENDED is prepared for it: by a changeover with SETUP when kit or
temperature differ; where nothing differs, by a golden check with GOLDEN to both stations, always after LOST or
OFFLINE, and after DOWN as the profile says or with too few sites; with none planned it resumes the run at once with
RESUME to both stations, a deadline of RUN's running on. (`metBy` stands on notes/assumptions/13.md.) -/
def Obligations.ReadyRecoversTheCell : Prop :=
  ∀ (e : Envelope) (c : CellIx) (role : Role) (s : State), fromStation (.state e 0) e c role s →
    let u := metBy (.state e 0) e c role s
    let k : Cell := match role with
      | .tester => { u.cell c with repTester := some .ready }
      | .handler => { u.cell c with repHandler := some .ready }
    k.state ∈ [CellState.offline, .lost, .down] → k.repTester = some .ready → k.repHandler = some .ready →
    (k.current = none → k.stack = [] → nothingFor c s →
      let t := u.setCell c { k with
        cause := none, state := .idle, since := s.timer, acc := k.accNow s.timer, changed := false }
      exec (.state e 0) s = .next (if k.changed then postNotice (.cellChanged c .idle none) t else t))
    ∧ (∀ r, k.current = some r → (s.run r).state = .ending →
      exec (.state e 0) s = .next (u.setCell c { k with
        cause := none, state := .running, since := s.timer, acc := k.accNow s.timer }))
    ∧ (∀ r, k.current = some r → (s.run r).state = .stopped → runBlocked s r = true →
      exec (.state e 0) s = .next (u.setCell c { k with
        cause := none, state := .stopped, since := s.timer, acc := k.accNow s.timer }))
    ∧ ∀ r, k.current = some r →
      let run := s.run r
      let st := stepOfRun s r
      let planned : Bool := k.state != .down || s.profile.goldenAfterDown || tooFewSites k st
      let origin : Origin := if k.state = .down then .fromDown else .fromLostOrOffline
      (run.state = .testing ∨ run.state = .closing ∨ run.state = .suspended) → runDeadline k →
      ((k.kit ≠ some st.kit ∨ k.temp ≠ some st.setpoint) →
        exec (.state e 0) s = .next ((sendOrder c .handler (.setup st.kit st.setpoint) u).setCell c
          (changingOver k r origin planned st s)))
      ∧ (setupCost k st = 0 → planned = true →
        exec (.state e 0) s = .next ((sendBoth c (.golden st.siteCount) u).setCell c
          (checking k r .return origin st s)))
      ∧ (setupCost k st = 0 → planned = false → run.cell = c →
        (run.state = .testing
          ∨ (run.state = .closing ∧ run.targetReached = false ∧ k.deadline.map (·.kind) = some .closing)
          ∨ (run.state = .suspended ∧ run.suspendedFrom = some .testing ∧ runBlocked s r = false)) →
        exec (.state e 0) s = .next
          { sendBoth c (.resume (lotOfRun s r).tag run.pos run.pass (usableSites k st)) u with
            runs := vset s.runs r { run with
              state := if run.state = .closing then .closing else .testing
              stoppedFrom := none, suspendedFrom := none }
            cells := vset u.cells c (backAtWork k s) })

/-- R127, R128, R97, R99: the handler's PAUSED on a PAUSING cell suspends its TESTING run onto the stack and begins
the preparation of the reserved run, by a changeover when the kit differs; with no run reserved it resumes the TESTING
run with RESUME to both stations, and leaves an ENDING run waiting on a RUNNING cell. R132, R133, R97, R109: a cell
that takes the next run of its stack leaves STOPPED while a hold holds the top back; else the top becomes current, and
where the equipment matches and no golden check is due it is resumed at once with RESUME to both stations. R84, R149:
the RUN_COUNTS that closes the current run of a RUNNING cell with runs on its stack does just that, to the STOPPED
state or to the RESUME of the top run. (That a cell RUNNING before and after keeps its state-since time and its
accumulators is the model's reading, notes/assumptions/16.md. `metBy` stands on notes/assumptions/13.md.) -/
def Obligations.PreemptionsSuspendAndPop : Prop :=
  (∀ (e : Envelope) (c : CellIx) (r : RunIx) (s : State), fromStation (.state e 4) e c .handler s →
    let u := metBy (.state e 4) e c .handler s
    let k : Cell := { u.cell c with repHandler := some .paused }
    k.state = .pausing → k.current = some r →
    (∀ h : RunIx, k.reserved = some h → h ≠ r → (s.run r).state = .testing → (lotOfRun s r).lotBlocked = false →
      k.deadline = none → kitDiffers k (stepOfRun s h) = true →
      let st := stepOfRun s h
      exec (.state e 4) s = .next
        { sendOrder c .handler (.setup st.kit st.setpoint) u with
          runs := vset s.runs r { s.run r with state := .suspended, suspendedFrom := some .testing }
          cells := vset u.cells c { k with
            stack := r :: k.stack, current := some h, reserved := none
            prep := some
              { purpose := .new, origin := .assignment, target := some h, stage := .changeover
                goldenPlanned := !k.goldenValid || tooFewSites k st, goldenTaken := false
                orderedKit := some st.kit, orderedTemp := some st.setpoint, goldenSites := none, goldenMin := none
                setAside := none }
            deadline := some ⟨.changeover, s.timer + 1000 * st.changeoverLimit⟩
            state := .changeover, cause := none, since := s.timer, acc := k.accNow s.timer } })
    ∧ (k.reserved = none → (s.run r).state = .testing →
      exec (.state e 4) s = .next
        { sendBoth c (.resume (lotOfRun s r).tag (s.run r).pos (s.run r).pass (usableSites k (stepOfRun s r))) u with
          runs := vset s.runs r { s.run r with stoppedFrom := none, suspendedFrom := none }
          cells := vset u.cells c { k with
            state := .running, cause := none, since := s.timer, acc := k.accNow s.timer } })
    ∧ (k.reserved = none → (s.run r).state = .ending →
      exec (.state e 4) s = .next (u.setCell c { k with
        state := .running, cause := none, since := s.timer, acc := k.accNow s.timer })))
  ∧ (∀ (c : CellIx) (r : RunIx) (rest : List RunIx) (s : State),
    let k := s.cell c
    let st := stepOfRun s r
    k.stack = r :: rest →
    (runBlocked s r = true → k.state ≠ .stopped → popOrIdle c s = s.setCell c { k with
      state := .stopped, cause := none, since := s.timer, acc := k.accNow s.timer })
    ∧ (runBlocked s r = false → (s.run r).state = .suspended → (s.run r).suspendedFrom = some .testing →
      setupCost k st = 0 → k.goldenValid = true → st.minSites ≤ siteNumber (usableSites k st) → k.state ≠ .running →
      popOrIdle c s =
        { sendBoth c (.resume (lotOfRun s r).tag (s.run r).pos (s.run r).pass (usableSites k st)) s with
          runs := vset s.runs r { s.run r with state := .testing, stoppedFrom := none, suspendedFrom := none }
          cells := vset s.cells c { k with
            stack := rest, current := some r, prep := none, state := .running, cause := none, since := s.timer
            acc := k.accNow s.timer } }))
  ∧ (∀ (e : Envelope) (fed : BitVec 24) (trays : Vector (BitVec 24) 8) (c : CellIx) (l : LotSlot) (p : RunPlace)
    (r next : RunIx) (rest : List RunIx) (s : State),
    let i : Instr := .runCounts e fed trays
    fromStation i e c .handler s →
    let u := metBy i e c .handler s
    let k := u.cell c
    let x := s.lot l
    let run := { s.run r with handlerFed := some fed.toNat }
    let lim := limitsOf s x
    let st := stepOfRun s next
    let near : Nat → Nat → Nat → Prop := fun tol a b => a ≤ b + tol ∧ b ≤ a + tol
    let closed : Lot := { x with
      figures := x.figures.withRun (stepOf s x) run, runs := vset x.runs p .closed, closedRuns := x.closedRuns + 1 }
    let freed : Cell := { k with
      cause := none, current := none, deadline := none, reserved := if k.reserved = some r then none else k.reserved }
    near lim.inputTol fed.toNat run.tested → (∀ t : Fin 8, near lim.trayTol trays[t].toNat run.ledger[t]) →
    run.shortfall ≤ lim.trayTol → run.surplus ≤ lim.trayTol → onlyRun l p r s → (s.run r).state = .ending →
    (s.run r).cell = c → x.state = .running → x.lotBlocked = false → x.closedRuns + 1 < x.runsPerStep →
    k.state = .running → k.current = some r → k.stack = next :: rest → r ∉ k.stack → (s.run next).lot ≠ l →
    k.prep = none → (∀ d ∈ k.deadline, d.kind = .counts) →
    (runBlocked s next = true → exec i s = .next { u with
      lots := vset s.lots l closed, runs := vset s.runs r .free
      cells := vset u.cells c { freed with state := .stopped, since := s.timer, acc := k.accNow s.timer } })
    ∧ (runBlocked s next = false → (s.run next).state = .suspended → (s.run next).suspendedFrom = some .testing →
      setUpFor k st → k.goldenValid = true → exec i s = .next
        { sendBoth c (.resume (lotOfRun s next).tag (s.run next).pos (s.run next).pass (usableSites k st)) u with
          lots := vset s.lots l closed
          runs := vset (vset s.runs r .free) next
            { s.run next with state := .testing, stoppedFrom := none, suspendedFrom := none }
          cells := vset u.cells c { freed with stack := rest, current := some next } }))

/-- R100, R98, R101: a tester's SETUP_DONE is heard only; a handler's is recorded as the cell's kit and temperature,
the temperature brought to -55 to 175, and outside CHANGEOVER nothing else changes; in CHANGEOVER one that matches the
order ends the stage, and with the program still to load begins LOADING with a LOAD order; one that does not match is
a fault of cause SETUP. (The model's choices: a temperature is matched as reported, notes/assumptions/9.md; a reported
kit of 0 is recorded as the value 0, notes/assumptions/15.md. `metBy` stands on notes/assumptions/13.md.) -/
def Obligations.SetupDoneEndsTheChangeover : Prop :=
  ∀ (e : Envelope) (kit : Byte) (temp : BitVec 16) (c : CellIx) (s : State),
    (fromStation (.setupDone e kit temp) e c .tester s →
      exec (.setupDone e kit temp) s = .next (metBy (.setupDone e kit temp) e c .tester s))
    ∧ (fromStation (.setupDone e kit temp) e c .handler s →
      let u := metBy (.setupDone e kit temp) e c .handler s
      let k : Cell := { u.cell c with
        kit := some kit.toNat
        temp := some (if temp.toInt < -55 then -55 else if 175 < temp.toInt then 175 else temp.toInt) }
      (k.state ≠ .changeover → exec (.setupDone e kit temp) s = .next (u.setCell c k))
      ∧ ∀ p, k.state = .changeover → k.prep = some p → p.stage = .changeover →
        (∀ r : RunIx, p.target = some r → p.purpose ≠ .periodic → p.orderedKit = some kit.toNat →
          p.orderedTemp = some temp.toInt → -55 ≤ temp.toInt → temp.toInt ≤ 175 →
          (∀ d ∈ k.deadline, d.kind = .changeover) →
          let st := stepOfRun s r
          st.kit = kit.toNat → st.setpoint = temp.toInt → programDiffers k st = true →
          exec (.setupDone e kit temp) s = .next
            ((sendOrder c .tester (.load st.programId st.revision) u).setCell c { k with
              prep := some { p with stage := .loading, goldenPlanned := true, goldenTaken := false }
              lastLoad := some ⟨st.programId, st.revision, st.checksum⟩
              deadline := some ⟨.load, s.timer + 1000 * s.profile.load⟩
              state := .loading, cause := none, since := s.timer, acc := k.accNow s.timer }))
        ∧ ((p.orderedKit ≠ some kit.toNat ∨ p.orderedTemp ≠ some temp.toInt) → noWithdrawal k s →
          exec (.setupDone e kit temp) s =
            .next (postNotice (faultNotice c k .setup s) (u.setCell c (faulted k .setup s)))))

/-- R101 to R103: a handler's LOAD_DONE or LOAD_FAIL is heard only; a tester's LOAD_DONE sets the cell's program to
what it names when that is the last load order, to none otherwise, and a LOAD_FAIL to none; outside LOADING nothing
else changes; in LOADING a match ends the stage and the golden check begins with GOLDEN to both stations, and anything
else is a fault of cause LOAD. (`metBy` stands on notes/assumptions/13.md.) -/
def Obligations.LoadReportsEndTheLoading : Prop :=
  ∀ (e : Envelope) (id : BitVec 16) (rev : Byte) (sum : BitVec 32) (c : CellIx) (s : State),
    (fromStation (.loadDone e id rev sum) e c .handler s →
      exec (.loadDone e id rev sum) s = .next (metBy (.loadDone e id rev sum) e c .handler s))
    ∧ (fromStation (.loadFail e id rev) e c .handler s →
      exec (.loadFail e id rev) s = .next (metBy (.loadFail e id rev) e c .handler s))
    ∧ (fromStation (.loadDone e id rev sum) e c .tester s →
      let u := metBy (.loadDone e id rev sum) e c .tester s
      let hit : Prop := (u.cell c).lastLoad = some ⟨id, rev, sum⟩
      let loaded : Cell := { u.cell c with program := some ⟨id, rev, sum⟩ }
      let failed : Cell := { u.cell c with program := none }
      (hit → loaded.state ≠ .loading → exec (.loadDone e id rev sum) s = .next (u.setCell c loaded))
      ∧ (¬ hit → failed.state ≠ .loading → exec (.loadDone e id rev sum) s = .next (u.setCell c failed))
      ∧ ∀ p, loaded.state = .loading → loaded.prep = some p → p.stage = .loading →
        (∀ r : RunIx, hit → p.target = some r → p.purpose ≠ .periodic → (∀ d ∈ loaded.deadline, d.kind = .load) →
          let st := stepOfRun s r
          loaded.kit = some st.kit → loaded.temp = some st.setpoint → id = st.programId → rev = st.revision →
          exec (.loadDone e id rev sum) s = .next
            ((sendBoth c (.golden st.siteCount) u).setCell c { loaded with
              prep := some { p with
                stage := .golden, goldenPlanned := true, goldenTaken := false, goldenSites := some st.siteCount
                goldenMin := some st.minSites }
              deadline := some ⟨.golden, s.timer + 1000 * s.profile.golden⟩
              state := .golden, cause := none, since := s.timer, acc := loaded.accNow s.timer }))
        ∧ (¬ hit → noWithdrawal failed s →
          exec (.loadDone e id rev sum) s =
            .next (postNotice (faultNotice c failed .load s) (u.setCell c (faulted failed .load s)))))
    ∧ (fromStation (.loadFail e id rev) e c .tester s →
      let u := metBy (.loadFail e id rev) e c .tester s
      let failed : Cell := { u.cell c with program := none }
      (failed.state ≠ .loading → exec (.loadFail e id rev) s = .next (u.setCell c failed))
      ∧ ∀ p, failed.state = .loading → failed.prep = some p → p.stage = .loading → noWithdrawal failed s →
        exec (.loadFail e id rev) s =
          .next (postNotice (faultNotice c failed .load s) (u.setCell c (faulted failed .load s))))

/-- R104, R105, R109, R137, R4: a GOLDEN_DONE outside GOLDEN, or from the handler, is heard only; a PASS of a
preparation of an ASSIGNED run whose equipment matches its step records the result and the enabled sites, posts
GOLDEN_DONE, zeroes the down counter, sends START to both stations, and makes the run TESTING, the cell RUNNING and
the lot RUNNING. R104, R106, R85, R8, R12, R138: a golden FAIL of a periodic check quarantines the cell with cause
SITES and raises GOLDEN, with the number of enabled sites, at the position of the TESTING run, which is sent STOP and
becomes STOPPED. R16, R15, R70, R107, R109, R113: a PASS of a periodic check releases the SITE and then the CONSEC
hold at its run's position, each if present, with its notice and with the run's site figures zeroed, restarts the
count since golden, arms a CLOSING deadline set aside again, and sends RESUME to both stations. (`metBy` stands on
notes/assumptions/13.md.) -/
def Obligations.GoldenChecksPassAndFail : Prop :=
  (∀ (e : Envelope) (mask : SiteMask) (c : CellIx) (s : State),
    (fromStation (.goldenDone e mask) e c .handler s →
      exec (.goldenDone e mask) s = .next (metBy (.goldenDone e mask) e c .handler s))
    ∧ (fromStation (.goldenDone e mask) e c .tester s → (s.cell c).state ≠ .golden →
      exec (.goldenDone e mask) s = .next (metBy (.goldenDone e mask) e c .tester s))
    ∧ ∀ (p : Prep) (sites least : Nat) (l : LotSlot) (place : RunPlace) (r : RunIx),
      fromStation (.goldenDone e mask) e c .tester s →
      let u := metBy (.goldenDone e mask) e c .tester s
      let k := u.cell c
      let x := s.lot l
      let st := stepOf s x
      let enabled := mask &&& BitVec.ofNat 16 (2 ^ sites - 1)
      k.state = .golden → k.prep = some p → p.goldenSites = some sites → p.goldenMin = some least →
      least ≤ siteNumber enabled → p.target = some r → k.current = some r → p.setAside = none →
      (∀ d ∈ k.deadline, d.kind = .golden) → setupCost k st = 0 →
      onlyRun l place r s → (s.run r).cell = c → (s.run r).state = .assigned → x.state = .waiting → inPlace l s →
      x.holdsKind .site (some place) = false → x.holdsKind .consec (some place) = false →
      exec (.goldenDone e mask) s = .next
        { sendBoth c (.start x.tag place (enabled &&& BitVec.ofNat 16 (2 ^ st.siteCount - 1)) st.map)
            (postNotice (.goldenDone c mask enabled .pass) u) with
          lots := vset s.lots l { x with state := .running, stepStarted := true }
          runs := vset s.runs r { s.run r with state := .testing, startTime := some s.floorClock, sinceGolden := 0 }
          cells := vset u.cells c { k with
            golden := ⟨mask, .pass, s.floorClock⟩, enabled := enabled, goldenValid := true, downCount := 0
            deadline := none, prep := none, state := .running, cause := none, since := s.timer
            acc := k.accNow s.timer } })
  ∧ (∀ (e : Envelope) (mask : SiteMask) (c : CellIx) (p : Prep) (sites least : Nat) (l : LotSlot) (place : RunPlace)
    (r : RunIx) (s : State), fromStation (.goldenDone e mask) e c .tester s →
    let u := metBy (.goldenDone e mask) e c .tester s
    let k := u.cell c
    let x := s.lot l
    let enabled := mask &&& BitVec.ofNat 16 (2 ^ sites - 1)
    let n := siteNumber enabled
    k.state = .golden → k.prep = some p → p.goldenSites = some sites → p.goldenMin = some least → n < least →
    k.current = some r → k.reserved = none → p.setAside = none → (∀ d ∈ k.deadline, d.kind = .golden) →
    onlyRun l place r s → (s.run r).state = .testing → (s.run r).cell = c → x.state = .running →
    x.holdsKind .golden (some place) = false → x.lotBlocked = false → inPlace l s →
    exec (.goldenDone e mask) s = .next
      { sendOrder c .handler .stop
          (postNotice (.holdRaised x.tag .golden (some place) .stop (some n))
            (postNotice (.cellChanged c .quarantined (some .sites))
              (postNotice (.goldenDone c mask enabled .fail) u))) with
        lots := vset s.lots l { x with holds := x.holds ++ [newHold s l .golden (some place) .stop (some n)] }
        runs := vset s.runs r { s.run r with state := .stopped, stoppedFrom := some .testing }
        cells := vset u.cells c { k with
          golden := ⟨mask, .fail, s.floorClock⟩, enabled := enabled, goldenValid := false, deadline := none
          prep := none, state := .quarantined, cause := some .sites, since := s.timer, acc := k.accNow s.timer
          changed := true } })
  ∧ (∀ (e : Envelope) (mask : SiteMask) (c : CellIx) (p : Prep) (sites least : Nat) (l : LotSlot) (place : RunPlace)
    (r : RunIx) (s : State), fromStation (.goldenDone e mask) e c .tester s →
    let u := metBy (.goldenDone e mask) e c .tester s
    let k := u.cell c
    let x := s.lot l
    let run := s.run r
    let enabled := mask &&& BitVec.ofNat 16 (2 ^ sites - 1)
    let freed : HoldKind → State → State := fun kind v =>
      if x.holdsKind kind (some place) then postNotice (.holdReleased x.tag kind (some place)) v else v
    k.state = .golden → k.prep = some p → p.goldenSites = some sites → p.goldenMin = some least →
    least ≤ siteNumber enabled → p.purpose = .periodic → p.target = some r → k.current = some r →
    (∀ d ∈ k.deadline, d.kind = .golden) → onlyRun l place r s → run.cell = c → x.state = .running → inPlace l s →
    (run.state = .testing ∧ p.setAside = none
      ∨ run.state = .closing ∧ run.targetReached = false ∧ p.setAside.map (·.kind) = some .closing) →
    exec (.goldenDone e mask) s = .next
      { sendBoth c
          (.resume x.tag place run.pass (enabled &&& BitVec.ofNat 16 (2 ^ (stepOf s x).siteCount - 1)))
          (freed .consec (freed .site (postNotice (.goldenDone c mask enabled .pass) u))) with
        lots := vset s.lots l { x with
          holds := x.holds.filter fun g => !(g.is .site (some place)) && !(g.is .consec (some place)) }
        runs := vset s.runs r { run with
          stoppedFrom := none, suspendedFrom := none, sinceGolden := 0
          sites := if x.holdsKind .site (some place) || x.holdsKind .consec (some place) then
            Vector.replicate 16 ⟨0, 0, 0⟩ else run.sites }
        cells := vset u.cells c { k with
          golden := ⟨mask, .pass, s.floorClock⟩, enabled := enabled, goldenValid := true, downCount := 0
          deadline := p.setAside.map fun a => ⟨a.kind, s.timer + a.remaining⟩
          prep := none, state := .running, cause := none, since := s.timer, acc := k.accNow s.timer } })

/-! ## Touchdowns (Chapter 3) -/

/-- R50: the judgement of the number of a touchdown that belongs to a started run, a late one's included: accepted,
with the expectation one past it; a gap raises DATA with its size first; a duplicate or a stale number changes
nothing. (`metBy` stands on notes/assumptions/13.md.) -/
def Obligations.TouchdownNumbersAreJudged : Prop :=
  ∀ (e : Envelope) (q : Seq) (es : List SiteEntry) (c : CellIx) (r : RunIx) (s : State),
    let i : Instr := .touchdown e q es
    fromStation i e c .tester s →
    let u := metBy i e c .tester s
    let k := u.cell c
    k.state ∉ [CellState.offline, .lost, .quarantined] → k.current = some r → (s.run r).state ≠ .free →
    (s.run r).state ≠ .assigned →
    let accepted : State → Prop := fun v =>
      exec i s = .next (acceptTouchdown c r q es v)
        ∧ ((acceptTouchdown c r q es v).cell c).expected = some (BitVec.ofNat 16 ((q.toNat + 1) % 65536))
    (k.expected = none → accepted u)
    ∧ ∀ x : Seq, k.expected = some x →
      let d := (q.toNat + 65536 - x.toNat) % 65536
      (d = 0 → accepted u)
      ∧ (1 ≤ d → d ≤ 32767 →
        accepted (raiseOnRun r .data (some d) (u.setCell c { k with expected := some (q + 1) })))
      ∧ (d = 65535 → exec i s = .next u)
      ∧ (32768 ≤ d → d ≤ 65534 → exec i s = .next u)

/-- R46 to R48: a touchdown is heard only from a handler's station, and on a cell that is OFFLINE, LOST or
QUARANTINED, or DOWN with no started run; on an operational cell with no started run it quarantines the cell with
cause FOREIGN and leaves it unsynchronised; a late touchdown in sequence moves the expectation and counts nothing.
R53: the tested units of a touchdown are, in its order, the entries whose site lies below the site count and in the
enabled mask, whose bin is not 0, and whose site no earlier entry named. R47, R85, R80, R112, R123: a foreign start on
a cell in preparation for an ASSIGNED run discards the preparation and withdraws the run before CELL_CHANGED, its lot
back in the queue where no cell can take it. (`metBy` stands on notes/assumptions/13.md.) -/
def Obligations.TouchdownsAreSorted : Prop :=
  (∀ (e : Envelope) (q : Seq) (es : List SiteEntry) (c : CellIx) (s : State),
    let i : Instr := .touchdown e q es
    (fromStation i e c .handler s → exec i s = .next (metBy i e c .handler s))
    ∧ (fromStation i e c .tester s →
      let u := metBy i e c .tester s
      let k := u.cell c
      let unstarted : Prop := ∀ r ∈ k.current, (s.run r).state = .free ∨ (s.run r).state = .assigned
      (k.state ∈ [CellState.offline, .lost, .quarantined] → exec i s = .next u)
      ∧ (k.state = .down → unstarted → exec i s = .next u)
      ∧ (k.state.operational = true → k.current = none → k.reserved = none → k.prep = none →
        exec i s = .next (postNotice (.cellChanged c .quarantined (some .foreign)) (u.setCell c { k with
          expected := none, state := .quarantined, cause := some .foreign, since := s.timer, acc := k.accNow s.timer
          changed := true, goldenValid := false })))
      ∧ ∀ r, k.state ∉ [CellState.offline, .lost, .quarantined] → k.current = some r → (s.run r).state = .ending →
        (k.expected = none ∨ k.expected = some q) →
        exec i s = .next (u.setCell c { k with expected := some (q + 1) })))
  ∧ (∀ (count : Nat) (enabled : SiteMask) (es : List SiteEntry),
    ((testedUnits count enabled 0 es).map fun u => (u.site.val, u.bin.val + 1)) =
      (es.zipIdx.filter fun p => decide (p.1.site.toNat < count) && enabled.getLsbD p.1.site.toNat
        && p.1.bin.toNat != 0 && (es.take p.2).all fun a => a.site != p.1.site).map
        fun p => (p.1.site.toNat, p.1.bin.toNat))
  ∧ (∀ (e : Envelope) (q : Seq) (es : List SiteEntry) (c : CellIx) (l : LotSlot) (p : RunPlace) (r : RunIx) (j : Prep)
    (s : State),
    let i : Instr := .touchdown e q es
    fromStation i e c .tester s →
    let u := metBy i e c .tester s
    let k := u.cell c
    let x := s.lot l
    let checked := j.stage = .golden
    let v := if checked then postNotice (.goldenDone c 0 k.enabled .aborted) u else u
    let y : Lot := { x with toAssign := x.toAssign + 1, runs := vset x.runs p .absent }
    k.state ∈ [CellState.changeover, .loading, .golden] → k.prep = some j → k.current = some r → k.reserved = none →
    r ∉ k.stack → onlyRun l p r s → (s.run r).cell = c → (s.run r).state = .assigned →
    (x.state = .waiting ∨ x.state = .running) → x.lotBlocked = false → l ∉ s.queue → notAging x s →
    noCellFor (stepOf s x) s → noCandidateFor x.cls x.preempt (stepOf s x) s →
    exec i s = .next { postNotice (.cellChanged c .quarantined (some .foreign)) v with
      lots := vset s.lots l y, runs := vset s.runs r .free, queue := placeIn (s.setLot l y) l s.queue
      cells := vset u.cells c { k with
        expected := none, current := none, prep := none, deadline := deadlineLeft k s
        golden := if checked then ⟨0, .aborted, s.floorClock⟩ else k.golden
        state := .quarantined, cause := some .foreign, since := s.timer, acc := k.accNow s.timer, changed := true
        goldenValid := false } })

/-- R55, R57, R63, R69: an accepted touchdown of pass 0, with the checks off and no closing target, adds its tested
units to the run's and the lot's counters, each stopping at its maximum, appends to the window ring, counts toward the
golden interval, moves the expectation, and changes nothing else. R56: an accepted touchdown of a retest pass, with no
closing target, adds its units to the tray ledger, takes them from outstanding, counts as surplus what outstanding no
longer holds and as recovered what is good, and changes no first-pass figure and no lot. (`metBy` stands on
notes/assumptions/13.md.) -/
def Obligations.TouchdownsAreCounted : Prop :=
  (∀ (e : Envelope) (q : Seq) (es : List SiteEntry) (c : CellIx) (l : LotSlot) (r : RunIx) (s : State),
    let i : Instr := .touchdown e q es
    fromStation i e c .tester s →
    let u := metBy i e c .tester s
    let k := u.cell c
    let run := s.run r
    let x := s.lot l
    let st := stepOf s x
    let us := testedUnits st.siteCount k.enabled 0 es
    let good : TestedUnit → Bool := fun t => st.goodBin t.bin
    k.state ∉ [CellState.offline, .lost, .quarantined] → k.current = some r → run.lot = l →
    (run.state = .testing ∨ run.state = .closing ∨ run.state = .stopped) → run.pass = 0 → run.target = none →
    (k.expected = none ∨ k.expected = some q) → checksOff (limitsOf s x) st → run.bounded → x.figures.bounded →
    ∃ run' f, exec i s = .next { u with
        lots := vset s.lots l { x with figures := f }
        runs := vset s.runs r run'
        cells := vset u.cells c { k with expected := some (q + 1) } }
      ∧ f = { x.figures with tested := f.tested, good := f.good, bins := f.bins }
      ∧ f.tested = min 16777215 (x.figures.tested + us.length)
      ∧ f.good = min 16777215 (x.figures.good + us.countP good)
      ∧ (∀ h : Fin 15, f.bins[h] = min 16777215 (x.figures.bins[h] + us.countP fun t => t.bin == h))
      ∧ run' = { run with
          tested := run'.tested, good := run'.good, sites := run'.sites, ledger := run'.ledger, ring := run'.ring
          sinceGolden := min 65535 (run.sinceGolden + 1) }
      ∧ run'.tested = min 16777215 (run.tested + us.length)
      ∧ run'.good = min 16777215 (run.good + us.countP good)
      ∧ (∀ t : Fin 8, run'.ledger[t] = min 16777215 (run.ledger[t] + us.countP fun v => st.trayOf v.bin == t))
      ∧ (∀ a : Fin 16,
        run'.sites[a].tested = min 16777215 (run.sites[a].tested + us.countP fun v => v.site == a)
        ∧ run'.sites[a].fail = min 16777215 (run.sites[a].fail + us.countP fun v => v.site == a && !good v)
        ∧ run'.sites[a].streak =
          (if ∃ v ∈ us, v.site = a ∧ good v = true then 0
          else min 255 (run.sites[a].streak + us.countP fun v => v.site == a)))
      ∧ run'.ring = (if us = [] then run.ring
          else
            let grown := run.ring ++ [⟨us.length, us.countP good⟩]
            grown.drop (grown.length - (limitsOf s x).w)))
  ∧ (∀ (e : Envelope) (q : Seq) (es : List SiteEntry) (c : CellIx) (r : RunIx) (s : State),
    let i : Instr := .touchdown e q es
    fromStation i e c .tester s →
    let u := metBy i e c .tester s
    let k := u.cell c
    let run := s.run r
    let st := stepOfRun s r
    let us := testedUnits st.siteCount k.enabled 0 es
    k.state ∉ [CellState.offline, .lost, .quarantined] → k.current = some r →
    (run.state = .testing ∨ run.state = .closing ∨ run.state = .stopped) → run.pass ≠ 0 → run.target = none →
    (k.expected = none ∨ k.expected = some q) → run.bounded →
    ∃ run', exec i s = .next { u with
        runs := vset s.runs r run'
        cells := vset u.cells c { k with expected := some (q + 1) } }
      ∧ run' = { run with
          ledger := run'.ledger, outstanding := run.outstanding - us.length
          surplus := min 16777215 (run.surplus + (us.length - run.outstanding))
          recovered := min 16777215 (run.recovered + us.countP fun t => st.goodBin t.bin) }
      ∧ ∀ t : Fin 8, run'.ledger[t] = min 16777215 (run.ledger[t] + us.countP fun v => st.trayOf v.bin == t))

/-- R61 to R67: each check of a first-pass touchdown asks LOT for its hold, with the measured value that its rule
gives, exactly when its limits turn it on and are breached; the quotients are rounded down, and under a limit set
within the ranges of its clamps and figures within their bounds no check that is made divides by 0. R60, R71, R48,
R56: a touchdown that TouchdownNumbersAreJudged accepts has its expectation moved and its units counted; in pass 0 the
five checks then follow in their order, under one limit set, then the request for a periodic golden check, and in any
pass the closing-target report last; an ENDING run's counts nothing. R69, R113: the golden request is made when the
count has reached the interval on a RUNNING cell with a TESTING run, restarts the count and begins the check with
GOLDEN to both stations. R71, R142, R144: the report of a number at or past the target marks a parked run and closes
the pass of a CLOSING run, its deadline cancelled. -/
def Obligations.ChecksRaiseAtTheBreach : Prop :=
  (∀ (n d y : Nat), 0 < d → (basisPoints n d = y ↔ y * d ≤ n * 10000 ∧ n * 10000 < (y + 1) * d))
    ∧ (∀ (lim : LimitSet) (before : Vector SiteFigures 16) (r : RunIx) (s : State),
      let reached : Prop := ∃ a : Fin 16, before[a].streak + 1 = lim.cmax ∧ (s.run r).sites[a].streak = lim.cmax
      (0 < lim.cmax → reached → checkConsec lim before r s = raiseOnRun r .consec (some lim.cmax) s)
      ∧ ((lim.cmax = 0 ∨ ¬ reached) → checkConsec lim before r s = s))
    ∧ (∀ (lim : LimitSet) (appended : Bool) (r : RunIx) (s : State),
      let ring := (s.run r).ring
      let y := (ring.map (·.good)).sum * 10000 / (ring.map (·.tested)).sum
      let made : Prop := appended = true ∧ 0 < lim.ywin ∧ ring.length = lim.w
      (made → y < lim.ywin → checkWindow lim appended r s = raiseOnRun r .window (some y) s)
      ∧ ((¬ made ∨ lim.ywin ≤ y) → checkWindow lim appended r s = s))
    ∧ (∀ (lim : LimitSet) (c : CellIx) (r : RunIx) (s : State),
      let sites := (s.run r).sites
      let on : Fin 16 → Prop := fun a => (s.cell c).enabled.getLsbD a.val = true ∧ lim.nsite ≤ sites[a].tested
      let rate : Fin 16 → Nat := fun a => sites[a].fail * 10000 / sites[a].tested
      (∀ a : Fin 16, sites[a].bounded) → 1 ≤ lim.nsite →
      (∀ a b : Fin 16, a ≠ b → on a → on b → (∀ m, on m → rate m ≤ rate a ∧ rate b ≤ rate m) →
        lim.dmax < 10000 → lim.dmax < rate a - rate b →
        checkSites lim c r s = raiseOnRun r .site (some (rate a - rate b)) s)
      ∧ ((10000 ≤ lim.dmax ∨ (∀ a b, on a → on b → rate a ≤ rate b + lim.dmax)) → checkSites lim c r s = s))
    ∧ (∀ (lim : LimitSet) (l : LotSlot) (s : State),
      let f := (s.lot l).figures
      let made : Prop := lim.nmin ≤ f.tested ∧ (s.lot l).binWaived = false
      let breach : Fin 15 → Prop := fun h => lim.fmax[h] < 10000 ∧ lim.fmax[h] < f.bins[h] * 10000 / f.tested
      (∀ h, made → breach h → (∀ g, g < h → ¬ breach g) →
        checkBins lim l s = raiseOnLot l .bin (some (f.bins[h] * 10000 / f.tested)) s)
      ∧ ((¬ made ∨ ∀ h, ¬ breach h) → checkBins lim l s = s))
    ∧ (∀ (lim : LimitSet) (l : LotSlot) (s : State),
      let f := (s.lot l).figures
      let y := f.good * 10000 / f.tested
      let made : Prop := 0 < lim.ymin ∧ lim.nmin ≤ f.tested ∧ (s.lot l).yieldWaived = false
      (made → y < lim.ymin → checkYield lim l s = raiseOnLot l .yield (some y) s)
      ∧ ((¬ made ∨ lim.ymin ≤ y) → checkYield lim l s = s))
    ∧ (∀ (lim : LimitSet) (run : Run) (x : Lot) (a : Fin 16), lim.inRange → run.bounded →
      (run.ring.length = lim.w → 0 < (run.ring.map (·.tested)).sum)
      ∧ (lim.nsite ≤ run.sites[a].tested → 0 < run.sites[a].tested)
      ∧ (lim.nmin ≤ x.figures.tested → 0 < x.figures.tested))
    ∧ (∀ (c : CellIx) (r : RunIx) (q : Seq) (es : List SiteEntry) (s : State),
      let run := s.run r
      let l := run.lot
      let lim := limitsOf s (s.lot l)
      let us := testedUnits (stepOfRun s r).siteCount (s.cell c).enabled 0 es
      let taken := s.setCell c { s.cell c with expected := some (q + 1) }
      (run.state = .ending → acceptTouchdown c r q es s = taken)
      ∧ (run.state ≠ .ending → run.pass ≠ 0 →
        acceptTouchdown c r q es s = askTarget q r (countRetestPass r us taken))
      ∧ (run.state ≠ .ending → run.pass = 0 →
        acceptTouchdown c r q es s = askTarget q r (askGolden c r
          (checkYield lim l (checkBins lim l (checkSites lim c r (checkWindow lim (decide (us ≠ [])) r
            (checkConsec lim run.sites r (countFirstPass r us taken)))))))))
    ∧ (∀ (c : CellIx) (r : RunIx) (s : State),
      let st := stepOfRun s r
      let due : Prop := 0 < st.goldenInterval ∧ st.goldenInterval ≤ (s.run r).sinceGolden
        ∧ (s.cell c).state = .running ∧ (s.run r).state = .testing
      (¬ due → askGolden c r s = s)
      ∧ (due → runDeadline (s.cell c) → askGolden c r s =
        { sendBoth c (.golden st.siteCount) s with
          runs := vset s.runs r { s.run r with sinceGolden := 0 }
          cells := vset s.cells c (checking (s.cell c) r .periodic .periodic st s) }))
    ∧ ∀ (q : Seq) (r : RunIx) (s : State),
      let run := s.run r
      let k := s.cell run.cell
      (run.target = none → askTarget q r s = s)
      ∧ ∀ t, run.target = some t →
        let d := (q.toNat + 65536 - t.toNat) % 65536
        (32768 ≤ d → askTarget q r s = s)
        ∧ (d ≤ 32767 → run.state = .stopped ∨ run.state = .suspended →
          askTarget q r s = s.setRun r { run with targetReached := true })
        ∧ (d ≤ 32767 → run.state = .testing ∨ run.state = .ending → askTarget q r s = s)
        ∧ (d ≤ 32767 → run.state = .closing → k.prep = none → k.deadline.map (·.kind) = some .closing →
          let st := stepOfRun s r
          let sum := (((List.finRange 8).filter fun t => st.trays[t] == .retest).map fun t => run.ledger[t]).sum
          let closed : Run := { run with
            target := none, targetReached := false
            outstanding := if run.pass = 0 then run.outstanding else 0
            shortfall := if run.pass = 0 then run.shortfall else min 16777215 (run.shortfall + run.outstanding) }
          (run.pass < st.maxRetest → 0 < sum → sum ≤ 16777215 → askTarget q r s =
            { sendOrder run.cell .handler (.retest (run.pass + 1) sum st.retestMask) s with
              runs := vset s.runs r { closed with
                outstanding := sum, pass := run.pass + 1, state := .testing
                ledger := Vector.ofFn fun t => if st.trays[t] = .retest then 0 else run.ledger[t] }
              cells := vset s.cells run.cell { k with deadline := none } })
          ∧ ((st.maxRetest ≤ run.pass ∨ sum = 0) → askTarget q r s =
            { sendOrder run.cell .handler (.unload (lotOfRun s r).tag run.pos) s with
              runs := vset s.runs r { closed with state := .ending }
              cells := vset s.cells run.cell { k with
                deadline := some ⟨.counts, s.timer + 1000 * s.profile.counts⟩ } }))

/-! ## Passes, run ends and steps (Chapters 1 and 7) -/

/-- R140, R141, R143, R144, R153: a PASS_END from a tester, or that no run takes, is heard only; for a TESTING run of
its pass it records the target (and for pass 0 the fed count), and makes the run CLOSING under the CLOSING deadline
while the target has not been taken; when it has, or when the deadline expires (which first raises DATA), the pass
closes: by a RETEST order and a further pass while the step allows one and its RETEST trays hold units, else by
UNLOAD, ENDING and the COUNTS deadline; the close of a pass of 1 to 3 moves what is outstanding to shortfall. R139,
R141: a run STOPPED from TESTING takes the PASS_END of its pass, is STOPPED from CLOSING, arms no deadline, and is
marked when its target has been taken. R107: while a stage deadline is active, CLOSING and COUNTS are set aside with
their full limits. (`metBy` stands on notes/assumptions/13.md.) -/
def Obligations.PassEndsCloseThePass : Prop :=
  (∀ (e : Envelope) (pass : Byte) (fed : BitVec 24) (last : Seq) (c : CellIx) (s : State),
    let i : Instr := .passEnd e pass fed last
    (fromStation i e c .tester s → exec i s = .next (metBy i e c .tester s))
    ∧ (fromStation i e c .handler s →
      let u := metBy i e c .handler s
      let k := u.cell c
      (k.current = none → exec i s = .next u)
      ∧ ∀ r, k.current = some r →
        let run := s.run r
        ((pass.toNat ≠ run.pass ∨ (run.state ≠ .testing ∧ run.state ≠ .stopped)
            ∨ (run.state = .stopped ∧ run.stoppedFrom ≠ some .testing)) → exec i s = .next u)
        ∧ (run.state = .testing → pass.toNat = run.pass →
          (k.expected = none ∨ ∃ x, k.expected = some x ∧ 32768 ≤ (x.toNat + 131071 - last.toNat) % 65536) →
          (∀ d ∈ k.deadline, d.kind = .closing ∨ d.kind = .counts) →
          exec i s = .next { u with
            runs := vset s.runs r { run with
              state := .closing, target := some last
              handlerFed := if run.pass = 0 then some fed.toNat else run.handlerFed }
            cells := vset u.cells c { k with deadline := some ⟨.closing, s.timer + 1000 * s.profile.closing⟩ } })
        ∧ (∀ (d : Deadline) (j : Prep), run.state = .testing → pass.toNat = run.pass →
          (k.expected = none ∨ ∃ x, k.expected = some x ∧ 32768 ≤ (x.toNat + 131071 - last.toNat) % 65536) →
          k.deadline = some d → d.kind ∈ [DeadlineKind.changeover, .load, .golden] → k.prep = some j →
          exec i s = .next { u with
            runs := vset s.runs r { run with
              state := .closing, target := some last
              handlerFed := if run.pass = 0 then some fed.toNat else run.handlerFed }
            cells := vset u.cells c { k with
              prep := some { j with setAside := some ⟨.closing, 1000 * s.profile.closing⟩ } } })
        ∧ (run.state = .stopped → run.stoppedFrom = some .testing → pass.toNat = run.pass →
          let ended : Run := { run with
            stoppedFrom := some .closing, target := some last
            handlerFed := if run.pass = 0 then some fed.toNat else run.handlerFed }
          ((k.expected = none ∨ ∃ x, k.expected = some x ∧ 32768 ≤ (x.toNat + 131071 - last.toNat) % 65536) →
            exec i s = .next { u with runs := vset s.runs r ended })
          ∧ ∀ x, k.expected = some x → (x.toNat + 131071 - last.toNat) % 65536 ≤ 32767 →
            exec i s = .next { u with runs := vset s.runs r { ended with targetReached := true } })
        ∧ (∀ x, run.state = .testing → pass.toNat = run.pass → k.expected = some x →
          (x.toNat + 131071 - last.toNat) % 65536 ≤ 32767 → run.cell = c →
          let st := stepOfRun s r
          let sum := (((List.finRange 8).filter fun t => st.trays[t] == .retest).map fun t => run.ledger[t]).sum
          let closed : Run := { run with
            handlerFed := if run.pass = 0 then some fed.toNat else run.handlerFed
            target := none, targetReached := false
            outstanding := if run.pass = 0 then run.outstanding else 0
            shortfall := if run.pass = 0 then run.shortfall else min 16777215 (run.shortfall + run.outstanding) }
          (run.pass < st.maxRetest → 0 < sum → sum ≤ 16777215 →
            exec i s = .next { sendOrder c .handler (.retest (run.pass + 1) sum st.retestMask) u with
              runs := vset s.runs r { closed with
                outstanding := sum, pass := run.pass + 1, state := .testing
                ledger := Vector.ofFn fun t => if st.trays[t] = .retest then 0 else run.ledger[t] } })
          ∧ ((st.maxRetest ≤ run.pass ∨ sum = 0) →
            let ended := { sendOrder c .handler (.unload (lotOfRun s r).tag run.pos) u with
              runs := vset s.runs r { closed with state := .ending } }
            (runDeadline k → exec i s = .next { ended with
              cells := vset u.cells c { k with deadline := some ⟨.counts, s.timer + 1000 * s.profile.counts⟩ } })
            ∧ ∀ (d : Deadline) (j : Prep), k.deadline = some d → d.kind ∈ [DeadlineKind.changeover, .load, .golden] →
              k.prep = some j → exec i s = .next { ended with
                cells := vset u.cells c { k with
                  prep := some { j with setAside := some ⟨.counts, 1000 * s.profile.counts⟩ } } }))))
  ∧ ∀ (c : CellIx) (d : Deadline) (l : LotSlot) (p : RunPlace) (r : RunIx) (s : State),
    let k := s.cell c
    let x := s.lot l
    k.deadline = some d → d.kind = .closing → d.expiry ≤ s.timer → k.current = some r → onlyRun l p r s →
    (s.run r).state = .closing → (s.run r).cell = c → x.state = .running → x.holdsKind .data (some p) = false →
    x.lotBlocked = false → inPlace l s →
    ((stepOf s x).maxRetest ≤ (s.run r).pass ∨ ∀ t : Fin 8, (stepOf s x).trays[t] = .retest → (s.run r).ledger[t] = 0) →
    exec (.closingDeadlineExpiry c) s = .next
      { sendOrder c .handler (.unload x.tag p) (postNotice (.holdRaised x.tag .data (some p) .finish none) s) with
        lots := vset s.lots l { x with holds := x.holds ++ [newHold s l .data (some p) .finish none] }
        runs := vset s.runs r { s.run r with
          target := none, targetReached := false, state := .ending
          outstanding := if (s.run r).pass = 0 then (s.run r).outstanding else 0
          shortfall := if (s.run r).pass = 0 then (s.run r).shortfall
            else min 16777215 ((s.run r).shortfall + (s.run r).outstanding) }
        cells := vset s.cells c { k with deadline := some ⟨.counts, s.timer + 1000 * s.profile.counts⟩ } }

/-- R147 to R150, R18, R84: a RUN_COUNTS from a tester, or on a cell whose current run is not ENDING, is heard only;
for the one open run of a lot with further positions, ENDING on a RUNNING cell with nothing to pop or match, it closes
the run: the handler's fed count is recorded, the figures join the lot's, the position closes, the record is FREE and
the cell IDLE. Counts that differ by more than the tolerances, and the expiry of the COUNTS deadline, first raise
RECON, which leaves the lot HELD and out of the queue. (`metBy` stands on notes/assumptions/13.md.) -/
def Obligations.CountsCloseTheRun : Prop :=
  (∀ (e : Envelope) (fed : BitVec 24) (trays : Vector (BitVec 24) 8) (c : CellIx) (s : State),
    let i : Instr := .runCounts e fed trays
    (fromStation i e c .tester s → exec i s = .next (metBy i e c .tester s))
    ∧ (fromStation i e c .handler s →
      let u := metBy i e c .handler s
      let k := u.cell c
      ((∀ r ∈ k.current, (s.run r).state ≠ .ending) → exec i s = .next u)
      ∧ ∀ (l : LotSlot) (p : RunPlace) (r : RunIx),
        let x := s.lot l
        let run := { s.run r with handlerFed := some fed.toNat }
        let lim := limitsOf s x
        let near : Nat → Nat → Nat → Prop := fun tol a b => a ≤ b + tol ∧ b ≤ a + tol
        let agrees : Prop := near lim.inputTol fed.toNat run.tested
          ∧ (∀ t : Fin 8, near lim.trayTol trays[t].toNat run.ledger[t]) ∧ run.shortfall ≤ lim.trayTol
          ∧ run.surplus ≤ lim.trayTol
        let closed : Lot := { x with
          figures := x.figures.withRun (stepOf s x) run, runs := vset x.runs p .closed, closedRuns := x.closedRuns + 1 }
        let freed : Cell := { k with
          state := .idle, cause := none, since := s.timer, acc := k.accNow s.timer, current := none, deadline := none
          reserved := if k.reserved = some r then none else k.reserved }
        onlyRun l p r s → (s.run r).state = .ending → (s.run r).cell = c → x.state = .running → x.lotBlocked = false →
        x.closedRuns + 1 < x.runsPerStep → k.state = .running → k.current = some r → k.stack = [] →
        k.prep = none → (∀ d ∈ k.deadline, d.kind = .counts) → k.changed = false → nothingFor c s →
        (agrees → exec i s = .next { u with
          lots := vset s.lots l closed, runs := vset s.runs r .free, cells := vset u.cells c freed })
        ∧ (¬ agrees → x.holdsKind .recon none = false →
          exec i s = .next { postNotice (.holdRaised x.tag .recon none .finish none) u with
            lots := vset s.lots l { closed with
              state := .held, holds := x.holds ++ [newHold s l .recon none .finish none] }
            runs := vset s.runs r .free, cells := vset u.cells c freed, queue := s.queue.filter (· ≠ l) })))
  ∧ ∀ (c : CellIx) (d : Deadline) (l : LotSlot) (p : RunPlace) (r : RunIx) (s : State),
    let k := s.cell c
    let x := s.lot l
    k.deadline = some d → d.kind = .counts → d.expiry ≤ s.timer → k.current = some r → onlyRun l p r s →
    (s.run r).state = .ending → (s.run r).cell = c → x.state = .running → x.holdsKind .recon none = false →
    x.closedRuns + 1 < x.runsPerStep → k.state = .running → k.stack = [] → k.prep = none → k.changed = false →
    nothingFor c s →
    exec (.countsDeadlineExpiry c) s = .next
      { postNotice (.holdRaised x.tag .recon none .finish none) s with
        lots := vset s.lots l { x with
          state := .held, holds := x.holds ++ [newHold s l .recon none .finish none]
          figures := x.figures.withRun (stepOf s x) (s.run r)
          runs := vset x.runs p .closed, closedRuns := x.closedRuns + 1 }
        runs := vset s.runs r .free
        cells := vset s.cells c { k with
          state := .idle, cause := none, since := s.timer, acc := k.accNow s.timer, current := none, deadline := none
          reserved := if k.reserved = some r then none else k.reserved }
        queue := s.queue.filter (· ≠ l) }

/-- R152, R19, R20, R21: the close of a step makes the final-yield check and then the input check, each by its FINISH
hold; a lot that a STOP or FINISH hold then holds stays HELD at its step; any other advances, with STEP_DONE, to the
next step with its figures cleared and a new queue sequence, or past its route with its grade quantities, FINISHED
with LOT_FINISHED when no hold is left. The counts of the last run of the last step do the last of these within their
event. (`metBy` stands on notes/assumptions/13.md.) -/
def Obligations.StepsCloseByTheirChecks : Prop :=
  (∀ (l : LotSlot) (s : State),
    let x := s.lot l
    let f := x.figures
    let lim := limitsOf s x
    let steps := (s.route x.route).steps
    let yf := min f.goodFinal f.tested * 10000 / f.tested
    let low : Prop := 0 < lim.yfinal ∧ 0 < f.tested ∧ yf < lim.yfinal
    let near : Prop := f.fedSum ≤ x.q + lim.inputTol ∧ x.q ≤ f.fedSum + lim.inputTol
    let final := newHold s l .final none .finish (some yf)
    let recon := newHold s l .recon none .finish none
    let heldWith : List Hold → Lot := fun hs => { x with holds := x.holds ++ hs, stepClosed := true, state := .held }
    let v := postNotice (.stepDone x.tag x.step f.tested f.goodFinal) s
    (x.state = .waiting ∨ x.state = .running ∨ x.state = .held) →
    (¬ low → near → (∃ h ∈ x.holds, h.policy ≠ .mark) → closeChecks l s = s.setLot l (heldWith []))
    ∧ (x.idle → l ∉ s.queue → (low → near → x.holdsKind .final none = false →
        closeChecks l s = (postNotice (.holdRaised x.tag .final none .finish (some yf)) s).setLot l (heldWith [final]))
      ∧ (¬ low → ¬ near → x.holdsKind .recon none = false →
        closeChecks l s = (postNotice (.holdRaised x.tag .recon none .finish none) s).setLot l (heldWith [recon]))
      ∧ (low → ¬ near → x.holdsKind .final none = false → x.holdsKind .recon none = false →
        closeChecks l s = (postNotice (.holdRaised x.tag .recon none .finish none)
          (postNotice (.holdRaised x.tag .final none .finish (some yf)) s)).setLot l (heldWith [final, recon])))
    ∧ (¬ low → near → (∀ h ∈ x.holds, h.policy = .mark) →
      (∀ st, 0 < f.goodFinal → steps[x.step + 1]? = some st → l ∉ s.queue → s.seqCounter < 4294967295 →
        1 ≤ st.maxRuns → 1 ≤ x.split →
        notAging x s →
        noCellFor st s → noCandidateFor x.cls x.preempt st s →
        let t := s.setLot l
          { x with
            q := f.goodFinal, step := x.step + 1, runsPerStep := min x.split st.maxRuns
            toAssign := min x.split st.maxRuns, runs := Vector.replicate 4 .absent, closedRuns := 0
            figures := ⟨0, 0, Vector.replicate 15 0, 0, 0, Vector.replicate 4 0⟩, yieldWaived := false
            binWaived := false, stepStarted := false, stepClosed := false, state := .waiting
            queueSeq := s.seqCounter }
        closeChecks l s = { v with
          lots := t.lots, seqCounter := s.seqCounter + 1, queue := placeIn t l s.queue })
      ∧ ((f.goodFinal = 0 ∨ steps.length ≤ x.step + 1) →
        let y : Lot :=
          { x with
            gradeQty := if f.goodFinal = 0 then Vector.replicate 4 0 else f.gradeSums
            marks := Vector.replicate 4 .free, routeComplete := true, stepClosed := true
            state := if x.holds = [] then .finished else .held }
        closeChecks l s =
          (if x.holds = [] then postNotice (.lotFinished x.tag y.gradeQty) v else v).setLot l y)))
  ∧ ∀ (e : Envelope) (fed : BitVec 24) (trays : Vector (BitVec 24) 8) (c : CellIx) (l : LotSlot) (p : RunPlace)
    (r : RunIx) (s : State),
    let i : Instr := .runCounts e fed trays
    fromStation i e c .handler s →
    let u := metBy i e c .handler s
    let k := u.cell c
    let x := s.lot l
    let run := { s.run r with handlerFed := some fed.toNat }
    let lim := limitsOf s x
    let f := x.figures.withRun (stepOf s x) run
    let near : Nat → Nat → Nat → Prop := fun tol a b => a ≤ b + tol ∧ b ≤ a + tol
    near lim.inputTol fed.toNat run.tested → (∀ t : Fin 8, near lim.trayTol trays[t].toNat run.ledger[t]) →
    run.shortfall ≤ lim.trayTol → run.surplus ≤ lim.trayTol →
    onlyRun l p r s → (s.run r).state = .ending → (s.run r).cell = c → x.state = .running → x.holds = [] →
    x.closedRuns + 1 = x.runsPerStep → (s.route x.route).steps.length ≤ x.step + 1 →
    near lim.inputTol f.fedSum x.q → lim.yfinal = 0 → k.state = .running → k.current = some r → k.stack = [] →
    k.prep = none → (∀ d ∈ k.deadline, d.kind = .counts) → k.changed = false → nothingFor c s →
    let grades := if f.goodFinal = 0 then Vector.replicate 4 0 else f.gradeSums
    exec i s = .next
      { postNotice (.lotFinished x.tag grades) (postNotice (.stepDone x.tag x.step f.tested f.goodFinal) u) with
        lots := vset s.lots l { x with
          figures := f, runs := vset x.runs p .closed, closedRuns := x.closedRuns + 1, gradeQty := grades
          marks := Vector.replicate 4 .free, routeComplete := true, stepClosed := true, state := .finished }
        runs := vset s.runs r .free
        cells := vset u.cells c { k with
          state := .idle, cause := none, since := s.timer, acc := k.accNow s.timer, current := none, deadline := none
          reserved := if k.reserved = some r then none else k.reserved } }

/-- R146, R144: the ledger's sum with outstanding and shortfall equals first-pass tested with surplus in a FREE
record, and stays equal through the units of a first pass and of a retest pass and through a pass close, while no
counter meets its maximum. -/
def Obligations.LedgersBalance : Prop :=
  let balanced : Run → Prop := fun x => x.ledger.toList.sum + x.outstanding + x.shortfall = x.tested + x.surplus
  balanced .free
  ∧ (∀ (st : Step) (us : List TestedUnit) (x : Run), balanced x → x.tested + us.length ≤ 16777215 →
    (∀ t : Fin 8, x.ledger[t] + us.length ≤ 16777215) → balanced (us.foldl (Run.countFirst st) x))
  ∧ (∀ (st : Step) (us : List TestedUnit) (x : Run), balanced x → x.surplus + us.length ≤ 16777215 →
    (∀ t : Fin 8, x.ledger[t] + us.length ≤ 16777215) → balanced (us.foldl (Run.countRetest st) x))
  ∧ ∀ (r : RunIx) (s : State), balanced (s.run r) → ((s.run r).pass = 0 → (s.run r).outstanding = 0) →
    (s.run r).shortfall + (s.run r).outstanding ≤ 16777215 → (s.run r).ledger.toList.sum ≤ 16777215 →
    balanced ((passClose r s).run r)

/-! ## Dispatch (Chapters 5 and 6) -/

/-- R96: the setup cost of a step on a cell adds 4 for the kit, 2 for the temperature and 1 for the program that is
none or not the step's; it is 7 for a cell of no setup and 0 for a match. R118, R119, R120, R125, R31: an eligible
cell takes the first compatible class-0 entry of the queue, else the entry of least setup cost among the first L
compatible ones, the earlier of equals; a lot takes the eligible cell of least cost, then of least PRODUCTIVE time,
then of lowest index; a hot lot takes the candidate of least cost, then of largest class, then of lowest index.
CELL_DRAIN that makes a cell eligible gives it the lot chosen. -/
def Obligations.DispatchChoosesByItsKeys : Prop :=
  (∀ (k : Cell) (st : Step),
    let one : Prop → Nat → Nat := fun p n => @ite Nat p (Classical.propDecidable p) n 0
    let kit : Prop := k.kit = none ∨ ∃ x, k.kit = some x ∧ x ≠ st.kit
    let temp : Prop := k.temp = none ∨ ∃ x, k.temp = some x ∧ x ≠ st.setpoint
    let program : Prop :=
      k.program = none ∨ ∃ x, k.program = some x ∧ (x.id ≠ st.programId ∨ x.revision ≠ st.revision)
    setupCost k st = one kit 4 + one temp 2 + one program 1 ∧ setupCost k st ≤ 7
      ∧ (setupCost k st = 0 ↔ k.kit = some st.kit ∧ k.temp = some st.setpoint
        ∧ ∃ x, k.program = some x ∧ x.id = st.programId ∧ x.revision = st.revision)
      ∧ (k.kit = none → k.temp = none → k.program = none → setupCost k st = 7))
  ∧ ((∀ (k : Cell) (st : Step),
    (eligible k = true ↔ k.state = .idle ∧ k.draining = false ∧ k.stack = [])
    ∧ compatible k st = st.classMask.getLsbD k.cls.val)
  ∧ (∀ (c : CellIx) (l : LotSlot) (s : State),
    let fits : LotSlot → Prop := fun m => compatible (s.cell c) (stepOf s (s.lot m)) = true
    let hot : LotSlot → Prop := fun m => fits m ∧ (s.lot m).cls = 0
    let cost : LotSlot → Nat := fun m => setupCost (s.cell c) (stepOf s (s.lot m))
    let first := (s.queue.filter fun m => compatible (s.cell c) (stepOf s (s.lot m))).take s.profile.lookahead
    (∀ before after, s.queue = before ++ l :: after → hot l → (∀ m ∈ before, ¬ hot m) → chooseLot s c = some l)
    ∧ (∀ before after, (∀ m ∈ s.queue, ¬ hot m) → first = before ++ l :: after → (∀ m ∈ before, cost l < cost m) →
      (∀ m ∈ after, cost l ≤ cost m) → chooseLot s c = some l)
    ∧ ((∀ m ∈ s.queue, ¬ fits m) → chooseLot s c = none))
  ∧ (∀ (l : LotSlot) (c : CellIx) (s : State),
    let takes : CellIx → Prop := fun d => eligible (s.cell d) = true ∧ compatible (s.cell d) (stepOf s (s.lot l)) = true
    let cost : CellIx → Nat := fun d => setupCost (s.cell d) (stepOf s (s.lot l))
    let time : CellIx → Nat := fun d => ((s.cell d).accNow s.timer).productive
    (bestCell s l = some c ↔ takes c ∧ ∀ d, takes d → d ≠ c →
      cost c < cost d ∨ (cost c = cost d ∧ (time c < time d ∨ (time c = time d ∧ c < d))))
    ∧ (bestCell s l = none ↔ ∀ d, ¬ takes d))
  ∧ (∀ (l : LotSlot) (c : CellIx) (s : State),
    let st := stepOf s (s.lot l)
    let takes : CellIx → Prop := fun d =>
      (s.cell d).state = .running ∧ (s.cell d).draining = false ∧ (s.cell d).stack.length < 2
        ∧ compatible (s.cell d) st = true
        ∧ ∃ r, (s.cell d).current = some r ∧ (s.run r).state = .testing
          ∧ ((lotOfRun s r).cls = 2 ∨ (lotOfRun s r).cls = 3)
    let cost : CellIx → Nat := fun d => setupCost (s.cell d) st
    (bestCandidate s l = some c ↔ takes c ∧ ∀ d, takes d → d ≠ c →
      cost c < cost d ∨ (cost c = cost d ∧
        (currentClass s d < currentClass s c ∨ (currentClass s c = currentClass s d ∧ c < d))))
    ∧ (bestCandidate s l = none ↔ ∀ d, ¬ takes d))
  ∧ ∀ (h : ReqHead) (cell : Byte) (c : CellIx) (l : LotSlot) (s : State), inOperate (.cellDrain h cell 0) h s →
    c.val = cell.toNat → c.val < s.profile.cellsInUse →
    let t := s.setCell c { s.cell c with draining := false }
    (s.cell c).state = .idle → (s.cell c).stack = [] → chooseLot t c = some l →
    exec (.cellDrain h cell 0) s = .next (respond h 0x0322 (ok (assignRun l c t))))

/-- R114, R115: the queue's order is by class, then sequence, then slot, and an entry placed in an ordered queue
leaves it ordered; a lot that asks for a sequence gets the counter's value, which rises by one, and at 4,294,967,295
the queue is first renumbered from 0 in its order. -/
def Obligations.QueueKeepsItsOrder : Prop :=
  (∀ (a b : LotSlot) (s : State), queueBefore s a b = true ↔
      (s.lot a).cls < (s.lot b).cls ∨ ((s.lot a).cls = (s.lot b).cls ∧
        ((s.lot a).queueSeq < (s.lot b).queueSeq ∨ ((s.lot a).queueSeq = (s.lot b).queueSeq ∧ a < b))))
  ∧ (∀ (l : LotSlot) (q : List LotSlot) (s : State), (placeIn s l q).Perm (l :: q)
    ∧ (l ∉ q → q.Pairwise (fun a b => queueBefore s a b = true) →
      (placeIn s l q).Pairwise fun a b => queueBefore s a b = true))
  ∧ (∀ (l : LotSlot) (s : State), s.seqCounter < 4294967295 →
    takeSequence l s = { s.setLot l { s.lot l with queueSeq := s.seqCounter } with seqCounter := s.seqCounter + 1 })
  ∧ ∀ (l : LotSlot) (s : State), s.seqCounter = 4294967295 → s.queue.Nodup →
    let t := takeSequence l s
    t = { s with lots := t.lots, seqCounter := s.queue.length + 1 }
    ∧ t.lot l = { s.lot l with queueSeq := s.queue.length }
    ∧ (∀ m, m ≠ l → m ∉ s.queue → t.lot m = s.lot m)
    ∧ ∀ (n : Nat) (m : LotSlot), m ≠ l → s.queue[n]? = some m → t.lot m = { s.lot m with queueSeq := n }

/-- R121, R134, R97, R99, R109, R126, R120, R124: an assignment takes the lowest FREE run record and the lowest absent
position, with DISPATCHED; the cell's preparation begins with a changeover when the kit or the temperature differs,
and a cell that matches starts the run at once; a reservation binds the run as reserved, sends PAUSE and leaves the
cell PAUSING. A lot's match and its search go on until its runs or its cells are used up. R123, R3, R6: a withdrawal
of the ASSIGNED run of a lot that no hold holds frees the record, takes the run from its cell, makes its position
absent and to-assign one higher; a lot out of the queue that no cell can take enters it with its kept sequence. (Under
a hold: HoldsReachTheOpenRun.) -/
def Obligations.AssignmentsBindARun : Prop :=
  (∀ (l : LotSlot) (p : RunPlace) (r : RunIx) (c : CellIx) (s : State), (s.run r).state = .free →
    (∀ q, q < r → (s.run q).state ≠ .free) → (s.lot l).runs[p] = .absent →
    (∀ q : RunPlace, q < p → (s.lot l).runs[q] ≠ .absent) →
    let x := s.lot l
    let k := s.cell c
    let st := stepOf s x
    let new : Run := { Run.free with lot := l, pos := p, cell := c, state := .assigned }
    let y : Lot := { x with toAssign := x.toAssign - 1, runs := vset x.runs p (.run r) }
    let u := postNotice (.dispatched x.tag x.step p c (setupCost k st)) s
    let queue := if x.toAssign ≤ 1 then s.queue.filter (· ≠ l) else s.queue
    (k.state = .idle → k.deadline = none → (k.kit ≠ some st.kit ∨ k.temp ≠ some st.setpoint) →
      assignRun l c s =
        { sendOrder c .handler (.setup st.kit st.setpoint) u with
          lots := vset s.lots l y, runs := vset s.runs r new, queue := queue
          cells := vset s.cells c { k with
            current := some r
            prep := some
              { purpose := .new, origin := .assignment, target := some r, stage := .changeover
                goldenPlanned := !k.goldenValid || tooFewSites k st, goldenTaken := false
                orderedKit := some st.kit, orderedTemp := some st.setpoint, goldenSites := none, goldenMin := none
                setAside := none }
            deadline := some ⟨.changeover, s.timer + 1000 * st.changeoverLimit⟩
            state := .changeover, cause := none, since := s.timer, acc := k.accNow s.timer } })
    ∧ (k.state = .idle → setupCost k st = 0 → k.goldenValid = true → st.minSites ≤ siteNumber (usableSites k st) →
      assignRun l c s =
        { sendBoth c (.start x.tag p (usableSites k st) st.map) u with
          lots := vset s.lots l { y with
            state := if x.state = .waiting then .running else x.state, stepStarted := true }
          runs := vset s.runs r { new with state := .testing, startTime := some s.floorClock }, queue := queue
          cells := vset s.cells c { k with
            current := some r, prep := none, state := .running, cause := none, since := s.timer
            acc := k.accNow s.timer } })
    ∧ (k.state = .running →
      reserveRun l c s =
        { sendOrder c .handler .pause u with
          lots := vset s.lots l y, runs := vset s.runs r new, queue := queue
          cells := vset s.cells c { k with
            reserved := some r, state := .pausing, cause := none, since := s.timer, acc := k.accNow s.timer } })
    ∧ ((x.toAssign = 0 ∨ bestCell s l = none) → matchLot l s = s)
    ∧ (0 < x.toAssign → bestCell s l = some c → matchLot l s = matchLot l (assignRun l c s))
    ∧ ((x.cls ≠ 0 ∨ x.preempt = false ∨ x.toAssign = 0 ∨ bestCandidate s l = none) → preemptSearch l s = s)
    ∧ (x.cls = 0 → x.preempt = true → 0 < x.toAssign → bestCandidate s l = some c →
      preemptSearch l s = preemptSearch l (reserveRun l c s)))
  ∧ (∀ (r : RunIx) (s : State),
    let l := (s.run r).lot
    let p := (s.run r).pos
    let c := (s.run r).cell
    let x := s.lot l
    let k := s.cell c
    let y : Lot := { x with toAssign := x.toAssign + 1, runs := vset x.runs p .absent }
    let freed : Cell := { k with
      current := if k.current = some r then none else k.current
      reserved := if k.reserved = some r then none else k.reserved
      prep := k.prep.map fun j => { j with target := if j.target = some r then none else j.target } }
    let t := { s with lots := vset s.lots l y, runs := vset s.runs r .free, cells := vset s.cells c freed }
    (x.state = .waiting ∨ x.state = .running) → x.lotBlocked = false → r ∉ k.stack →
    (l ∈ s.queue → withdraw r s = t)
    ∧ (l ∉ s.queue →
      notAging x s →
      noCellFor (stepOf s x) s → noCandidateFor x.cls x.preempt (stepOf s x) s →
      withdraw r s = { t with queue := placeIn t l s.queue }))

/-! ## What every step keeps -/

/-- R170, R171, R173, R179, R172: from any state that meets them, every step keeps the bounds of the ports' lists, the
notice count, and the rule that an idle transmitter leaves nothing waiting for its port. -/
def Obligations.StepsKeepTheLinks : Prop :=
  ∀ s t : State, step s = .next t → (s.linksOk → t.linksOk) ∧ (s.portsBusy → t.portsBusy)

/-- R30, R37, R39, R40, R57, R63, R79, R91, R100, R115: every step keeps the tables within their ranges, the figures
of every lot and run within their maximums, the counters, times and temperatures of every cell within theirs, and the
queue without a lot twice and without the sequence that is never given. -/
def Obligations.StepsKeepTheBounds : Prop :=
  ∀ s t : State, step s = .next t → (s.tablesOk → t.tablesOk) ∧ (s.tablesOk → s.figuresOk → t.figuresOk)
    ∧ (s.cellsOk → t.cellsOk) ∧ (s.queueOk → t.queueOk)

/-- R1, R5, R7, R73, R154, R155: every step keeps lot tags and shipment tags each carried once, every route's
reference count the number of the lots that use it, every shipment's quantity the sum of its members' within its
maximum, every station once in the index, and every hold list without two records of one kind and position, so that it
holds at most 29. -/
def Obligations.StepsKeepTheKeys : Prop :=
  (∀ s t : State, step s = .next t → (s.lotTagsOk → t.lotTagsOk) ∧ (s.refsOk → t.refsOk) ∧ (s.shipsOk → t.shipsOk)
    ∧ (s.stationsOk → t.stationsOk) ∧ (s.holdsOk → t.holdsOk))
  ∧ ∀ x : Lot, x.holdsOk → x.holds.length ≤ 29

/-- R1, R19, R22, R175, R176: a step that leaves a lot record filled changes neither its tag, route, split count,
preempt flag and quantity started, nor lowers its step index; in OPERATE every command but POWER_ON_RESET keeps the
phase and the profile. -/
def Obligations.StepsKeepTheLots : Prop :=
  (∀ (s t : State) (l : LotSlot), step s = .next t → (s.lot l).state ≠ .vacant → (t.lot l).state ≠ .vacant →
    (t.lot l).tag = (s.lot l).tag ∧ (t.lot l).route = (s.lot l).route ∧ (t.lot l).split = (s.lot l).split
      ∧ (t.lot l).preempt = (s.lot l).preempt ∧ (t.lot l).started = (s.lot l).started
      ∧ (s.lot l).step ≤ (t.lot l).step)
  ∧ ∀ (i : Instr) (s t : State), i ≠ .powerOnReset → s.phase = .operate → exec i s = .next t →
    t.phase = .operate ∧ t.profile = s.profile

/-- R86: in OPERATE, a QUARANTINED cell with no preparation and no stage deadline stays so through every command but
the CELL_CLEAR of that cell, FLOOR_RESET and POWER_ON_RESET, and the frame that carries one of the first two. -/
def Obligations.QuarantineHolds : Prop :=
  ∀ (i : Instr) (c : CellIx) (s t : State),
    let parked : Cell → Prop := fun k => k.state = .quarantined ∧ k.prep = none
      ∧ ∀ d ∈ k.deadline, d.kind = .closing ∨ d.kind = .counts
    let ends : Instr → Prop := fun j => ∃ h, j = .floorReset h ∨ ∃ cell, cell.toNat = c.val ∧ j = .cellClear h cell
    s.phase = .operate → i ≠ .powerOnReset → ¬ ends i →
    (∀ port b j, i = .frameArrival port b → classify port s.profile.partStation b = .request j → ¬ ends j) →
    exec i s = .next t → parked (s.cell c) → parked (t.cell c)
end

