-- ==== Sys2Proof/Laws/State.lean ====
section
/-! SUPPORT. The small lemmas of State and of its records: reading an entry of a table after an update, and what each
update leaves alone. They are true by unfolding once, so that no later proof unfolds a record update. -/

-- One theorem at a time: in the package as one text, a thread for each would not fit in memory.
set_option Elab.async false

namespace Sys2Proof.Machine

/-! ## Tables -/

theorem vset_get {α : Type} {n : Nat} (v : Vector α n) (i j : Fin n) (x : α) :
    (vset v i x)[j] = if i = j then x else v[j] := by
  simp [vset, Vector.getElem_set, Fin.ext_iff]

@[simp] theorem vset_get_same {α : Type} {n : Nat} (v : Vector α n) (i : Fin n) (x : α) : (vset v i x)[i] = x := by
  rw [vset_get, if_pos rfl]

theorem vset_get_ne {α : Type} {n : Nat} (v : Vector α n) {i j : Fin n} (x : α) (h : i ≠ j) :
    (vset v i x)[j] = v[j] := by
  rw [vset_get, if_neg h]

@[simp] theorem vset_vset {α : Type} {n : Nat} (v : Vector α n) (i : Fin n) (x y : α) :
    vset (vset v i x) i y = vset v i y := by
  simp [vset]

@[simp] theorem vset_self {α : Type} {n : Nat} (v : Vector α n) (i : Fin n) : vset v i v[i] = v := by
  simp [vset]

/-! ## Reading a record after writing one -/

@[simp] theorem setLot_lot (s : State) (i : LotSlot) (x : Lot) : (s.setLot i x).lot i = x := vset_get_same ..
@[simp] theorem setRun_run (s : State) (i : RunIx) (x : Run) : (s.setRun i x).run i = x := vset_get_same ..
@[simp] theorem setCell_cell (s : State) (i : CellIx) (x : Cell) : (s.setCell i x).cell i = x := vset_get_same ..
@[simp] theorem setRoute_route (s : State) (i : RouteIx) (x : Route) : (s.setRoute i x).route i = x :=
  vset_get_same ..
@[simp] theorem setLimit_limit (s : State) (i : LimitIx) (x : LimitSet) : (s.setLimit i x).limit i = x :=
  vset_get_same ..
@[simp] theorem setShip_ship (s : State) (i : ShipSlot) (x : Shipment) : (s.setShip i x).ship i = x :=
  vset_get_same ..

theorem setLot_lot_ne (s : State) {i j : LotSlot} (x : Lot) (h : i ≠ j) : (s.setLot i x).lot j = s.lot j :=
  vset_get_ne _ _ h
theorem setRun_run_ne (s : State) {i j : RunIx} (x : Run) (h : i ≠ j) : (s.setRun i x).run j = s.run j :=
  vset_get_ne _ _ h
theorem setCell_cell_ne (s : State) {i j : CellIx} (x : Cell) (h : i ≠ j) : (s.setCell i x).cell j = s.cell j :=
  vset_get_ne _ _ h
theorem setRoute_route_ne (s : State) {i j : RouteIx} (x : Route) (h : i ≠ j) :
    (s.setRoute i x).route j = s.route j := vset_get_ne _ _ h
theorem setShip_ship_ne (s : State) {i j : ShipSlot} (x : Shipment) (h : i ≠ j) :
    (s.setShip i x).ship j = s.ship j := vset_get_ne _ _ h

@[simp] theorem modLot_lot (s : State) (i : LotSlot) (f : Lot → Lot) : (s.modLot i f).lot i = f (s.lot i) :=
  setLot_lot ..
@[simp] theorem modRun_run (s : State) (i : RunIx) (f : Run → Run) : (s.modRun i f).run i = f (s.run i) :=
  setRun_run ..
@[simp] theorem modCell_cell (s : State) (i : CellIx) (f : Cell → Cell) : (s.modCell i f).cell i = f (s.cell i) :=
  setCell_cell ..
@[simp] theorem modRoute_route (s : State) (i : RouteIx) (f : Route → Route) :
    (s.modRoute i f).route i = f (s.route i) := setRoute_route ..
@[simp] theorem modShip_ship (s : State) (i : ShipSlot) (f : Shipment → Shipment) :
    (s.modShip i f).ship i = f (s.ship i) := setShip_ship ..

/-! ## What a write of a lot leaves alone -/

section
variable (s : State) (i : LotSlot) (x : Lot)
@[simp] theorem setLot_run (r : RunIx) : (s.setLot i x).run r = s.run r := rfl
@[simp] theorem setLot_cell (c : CellIx) : (s.setLot i x).cell c = s.cell c := rfl
@[simp] theorem setLot_route (r : RouteIx) : (s.setLot i x).route r = s.route r := rfl
@[simp] theorem setLot_limit (n : LimitIx) : (s.setLot i x).limit n = s.limit n := rfl
@[simp] theorem setLot_ship (n : ShipSlot) : (s.setLot i x).ship n = s.ship n := rfl
@[simp] theorem setLot_pending : (s.setLot i x).pending = s.pending := rfl
@[simp] theorem setLot_phase : (s.setLot i x).phase = s.phase := rfl
@[simp] theorem setLot_profile : (s.setLot i x).profile = s.profile := rfl
@[simp] theorem setLot_floorClock : (s.setLot i x).floorClock = s.floorClock := rfl
@[simp] theorem setLot_timer : (s.setLot i x).timer = s.timer := rfl
@[simp] theorem setLot_queue : (s.setLot i x).queue = s.queue := rfl
@[simp] theorem setLot_seqCounter : (s.setLot i x).seqCounter = s.seqCounter := rfl
@[simp] theorem setLot_stations : (s.setLot i x).stations = s.stations := rfl
@[simp] theorem setLot_outbound : (s.setLot i x).outbound = s.outbound := rfl
@[simp] theorem setLot_noticeCount : (s.setLot i x).noticeCount = s.noticeCount := rfl
@[simp] theorem setLot_gapFlag : (s.setLot i x).gapFlag = s.gapFlag := rfl
@[simp] theorem setLot_orders : (s.setLot i x).orders = s.orders := rfl
@[simp] theorem setLot_fwdCF : (s.setLot i x).fwdCF = s.fwdCF := rfl
@[simp] theorem setLot_fwdFC : (s.setLot i x).fwdFC = s.fwdFC := rfl
@[simp] theorem setLot_txF : (s.setLot i x).txF = s.txF := rfl
@[simp] theorem setLot_txC : (s.setLot i x).txC = s.txC := rfl
@[simp] theorem setLot_runs : (s.setLot i x).runs = s.runs := rfl
@[simp] theorem setLot_cells : (s.setLot i x).cells = s.cells := rfl
@[simp] theorem setLot_routes : (s.setLot i x).routes = s.routes := rfl
@[simp] theorem setLot_limits : (s.setLot i x).limits = s.limits := rfl
@[simp] theorem setLot_ships : (s.setLot i x).ships = s.ships := rfl
end

/-! ## What a write of a run leaves alone -/

section
variable (s : State) (i : RunIx) (x : Run)
@[simp] theorem setRun_lot (l : LotSlot) : (s.setRun i x).lot l = s.lot l := rfl
@[simp] theorem setRun_cell (c : CellIx) : (s.setRun i x).cell c = s.cell c := rfl
@[simp] theorem setRun_route (r : RouteIx) : (s.setRun i x).route r = s.route r := rfl
@[simp] theorem setRun_limit (n : LimitIx) : (s.setRun i x).limit n = s.limit n := rfl
@[simp] theorem setRun_ship (n : ShipSlot) : (s.setRun i x).ship n = s.ship n := rfl
@[simp] theorem setRun_pending : (s.setRun i x).pending = s.pending := rfl
@[simp] theorem setRun_phase : (s.setRun i x).phase = s.phase := rfl
@[simp] theorem setRun_profile : (s.setRun i x).profile = s.profile := rfl
@[simp] theorem setRun_floorClock : (s.setRun i x).floorClock = s.floorClock := rfl
@[simp] theorem setRun_timer : (s.setRun i x).timer = s.timer := rfl
@[simp] theorem setRun_queue : (s.setRun i x).queue = s.queue := rfl
@[simp] theorem setRun_seqCounter : (s.setRun i x).seqCounter = s.seqCounter := rfl
@[simp] theorem setRun_stations : (s.setRun i x).stations = s.stations := rfl
@[simp] theorem setRun_outbound : (s.setRun i x).outbound = s.outbound := rfl
@[simp] theorem setRun_noticeCount : (s.setRun i x).noticeCount = s.noticeCount := rfl
@[simp] theorem setRun_gapFlag : (s.setRun i x).gapFlag = s.gapFlag := rfl
@[simp] theorem setRun_orders : (s.setRun i x).orders = s.orders := rfl
@[simp] theorem setRun_fwdCF : (s.setRun i x).fwdCF = s.fwdCF := rfl
@[simp] theorem setRun_fwdFC : (s.setRun i x).fwdFC = s.fwdFC := rfl
@[simp] theorem setRun_txF : (s.setRun i x).txF = s.txF := rfl
@[simp] theorem setRun_txC : (s.setRun i x).txC = s.txC := rfl
@[simp] theorem setRun_lots : (s.setRun i x).lots = s.lots := rfl
@[simp] theorem setRun_cells : (s.setRun i x).cells = s.cells := rfl
@[simp] theorem setRun_routes : (s.setRun i x).routes = s.routes := rfl
@[simp] theorem setRun_limits : (s.setRun i x).limits = s.limits := rfl
@[simp] theorem setRun_ships : (s.setRun i x).ships = s.ships := rfl
end

/-! ## What a write of a cell leaves alone -/

section
variable (s : State) (i : CellIx) (x : Cell)
@[simp] theorem setCell_lot (l : LotSlot) : (s.setCell i x).lot l = s.lot l := rfl
@[simp] theorem setCell_run (r : RunIx) : (s.setCell i x).run r = s.run r := rfl
@[simp] theorem setCell_route (r : RouteIx) : (s.setCell i x).route r = s.route r := rfl
@[simp] theorem setCell_limit (n : LimitIx) : (s.setCell i x).limit n = s.limit n := rfl
@[simp] theorem setCell_ship (n : ShipSlot) : (s.setCell i x).ship n = s.ship n := rfl
@[simp] theorem setCell_pending : (s.setCell i x).pending = s.pending := rfl
@[simp] theorem setCell_phase : (s.setCell i x).phase = s.phase := rfl
@[simp] theorem setCell_profile : (s.setCell i x).profile = s.profile := rfl
@[simp] theorem setCell_floorClock : (s.setCell i x).floorClock = s.floorClock := rfl
@[simp] theorem setCell_timer : (s.setCell i x).timer = s.timer := rfl
@[simp] theorem setCell_queue : (s.setCell i x).queue = s.queue := rfl
@[simp] theorem setCell_seqCounter : (s.setCell i x).seqCounter = s.seqCounter := rfl
@[simp] theorem setCell_stations : (s.setCell i x).stations = s.stations := rfl
@[simp] theorem setCell_outbound : (s.setCell i x).outbound = s.outbound := rfl
@[simp] theorem setCell_noticeCount : (s.setCell i x).noticeCount = s.noticeCount := rfl
@[simp] theorem setCell_gapFlag : (s.setCell i x).gapFlag = s.gapFlag := rfl
@[simp] theorem setCell_orders : (s.setCell i x).orders = s.orders := rfl
@[simp] theorem setCell_fwdCF : (s.setCell i x).fwdCF = s.fwdCF := rfl
@[simp] theorem setCell_fwdFC : (s.setCell i x).fwdFC = s.fwdFC := rfl
@[simp] theorem setCell_txF : (s.setCell i x).txF = s.txF := rfl
@[simp] theorem setCell_txC : (s.setCell i x).txC = s.txC := rfl
@[simp] theorem setCell_lots : (s.setCell i x).lots = s.lots := rfl
@[simp] theorem setCell_runs : (s.setCell i x).runs = s.runs := rfl
@[simp] theorem setCell_routes : (s.setCell i x).routes = s.routes := rfl
@[simp] theorem setCell_limits : (s.setCell i x).limits = s.limits := rfl
@[simp] theorem setCell_ships : (s.setCell i x).ships = s.ships := rfl
end

/-! ## The same for changes in place -/

section
variable (s : State)
@[simp] theorem modLot_run (i : LotSlot) (f : Lot → Lot) (r : RunIx) : (s.modLot i f).run r = s.run r := rfl
@[simp] theorem modLot_cell (i : LotSlot) (f : Lot → Lot) (c : CellIx) : (s.modLot i f).cell c = s.cell c := rfl
@[simp] theorem modLot_route (i : LotSlot) (f : Lot → Lot) (r : RouteIx) : (s.modLot i f).route r = s.route r := rfl
@[simp] theorem modLot_queue (i : LotSlot) (f : Lot → Lot) : (s.modLot i f).queue = s.queue := rfl
@[simp] theorem modLot_profile (i : LotSlot) (f : Lot → Lot) : (s.modLot i f).profile = s.profile := rfl
@[simp] theorem modLot_timer (i : LotSlot) (f : Lot → Lot) : (s.modLot i f).timer = s.timer := rfl
@[simp] theorem modLot_phase (i : LotSlot) (f : Lot → Lot) : (s.modLot i f).phase = s.phase := rfl
@[simp] theorem modRun_lot (i : RunIx) (f : Run → Run) (l : LotSlot) : (s.modRun i f).lot l = s.lot l := rfl
@[simp] theorem modRun_cell (i : RunIx) (f : Run → Run) (c : CellIx) : (s.modRun i f).cell c = s.cell c := rfl
@[simp] theorem modRun_route (i : RunIx) (f : Run → Run) (r : RouteIx) : (s.modRun i f).route r = s.route r := rfl
@[simp] theorem modRun_queue (i : RunIx) (f : Run → Run) : (s.modRun i f).queue = s.queue := rfl
@[simp] theorem modRun_profile (i : RunIx) (f : Run → Run) : (s.modRun i f).profile = s.profile := rfl
@[simp] theorem modRun_timer (i : RunIx) (f : Run → Run) : (s.modRun i f).timer = s.timer := rfl
@[simp] theorem modRun_phase (i : RunIx) (f : Run → Run) : (s.modRun i f).phase = s.phase := rfl
@[simp] theorem modCell_lot (i : CellIx) (f : Cell → Cell) (l : LotSlot) : (s.modCell i f).lot l = s.lot l := rfl
@[simp] theorem modCell_run (i : CellIx) (f : Cell → Cell) (r : RunIx) : (s.modCell i f).run r = s.run r := rfl
@[simp] theorem modCell_route (i : CellIx) (f : Cell → Cell) (r : RouteIx) : (s.modCell i f).route r = s.route r := rfl
@[simp] theorem modCell_queue (i : CellIx) (f : Cell → Cell) : (s.modCell i f).queue = s.queue := rfl
@[simp] theorem modCell_profile (i : CellIx) (f : Cell → Cell) : (s.modCell i f).profile = s.profile := rfl
@[simp] theorem modCell_timer (i : CellIx) (f : Cell → Cell) : (s.modCell i f).timer = s.timer := rfl
@[simp] theorem modCell_phase (i : CellIx) (f : Cell → Cell) : (s.modCell i f).phase = s.phase := rfl

theorem modLot_lot_ne {i j : LotSlot} (f : Lot → Lot) (h : i ≠ j) : (s.modLot i f).lot j = s.lot j :=
  setLot_lot_ne s _ h
theorem modRun_run_ne {i j : RunIx} (f : Run → Run) (h : i ≠ j) : (s.modRun i f).run j = s.run j :=
  setRun_run_ne s _ h
theorem modCell_cell_ne {i j : CellIx} (f : Cell → Cell) (h : i ≠ j) : (s.modCell i f).cell j = s.cell j :=
  setCell_cell_ne s _ h
end

/-! ## What the queue's operations leave alone -/

section
variable (s : State) (l : LotSlot)
@[simp] theorem queueRemove_lot (i : LotSlot) : (queueRemove l s).lot i = s.lot i := rfl
@[simp] theorem queueRemove_run (r : RunIx) : (queueRemove l s).run r = s.run r := rfl
@[simp] theorem queueRemove_cell (c : CellIx) : (queueRemove l s).cell c = s.cell c := rfl
@[simp] theorem queueInsert_lot (i : LotSlot) : (queueInsert l s).lot i = s.lot i := rfl
@[simp] theorem queueInsert_run (r : RunIx) : (queueInsert l s).run r = s.run r := rfl
@[simp] theorem queueInsert_cell (c : CellIx) : (queueInsert l s).cell c = s.cell c := rfl
end

end Sys2Proof.Machine
end

