-- ==== Sys2Proof/Laws/Ports.lean ====
section
/-! SUPPORT. What the operations on the ports can do: they change the lists of the ports, the notice count, the gap flag and
the transmitters, and nothing else of State. -/

-- One theorem at a time: in the package as one text, a thread for each would not fit in memory.
set_option Elab.async false

namespace Sys2Proof.Machine

/-! ## What kickF leaves alone -/

section
variable (s : State) 
@[simp] theorem kickF_pending : (kickF s).pending = s.pending := by
  unfold kickF; repeat' split
  all_goals rfl
@[simp] theorem kickF_phase : (kickF s).phase = s.phase := by
  unfold kickF; repeat' split
  all_goals rfl
@[simp] theorem kickF_profile : (kickF s).profile = s.profile := by
  unfold kickF; repeat' split
  all_goals rfl
@[simp] theorem kickF_floorClock : (kickF s).floorClock = s.floorClock := by
  unfold kickF; repeat' split
  all_goals rfl
@[simp] theorem kickF_timer : (kickF s).timer = s.timer := by
  unfold kickF; repeat' split
  all_goals rfl
@[simp] theorem kickF_routes : (kickF s).routes = s.routes := by
  unfold kickF; repeat' split
  all_goals rfl
@[simp] theorem kickF_limits : (kickF s).limits = s.limits := by
  unfold kickF; repeat' split
  all_goals rfl
@[simp] theorem kickF_lots : (kickF s).lots = s.lots := by
  unfold kickF; repeat' split
  all_goals rfl
@[simp] theorem kickF_runs : (kickF s).runs = s.runs := by
  unfold kickF; repeat' split
  all_goals rfl
@[simp] theorem kickF_queue : (kickF s).queue = s.queue := by
  unfold kickF; repeat' split
  all_goals rfl
@[simp] theorem kickF_seqCounter : (kickF s).seqCounter = s.seqCounter := by
  unfold kickF; repeat' split
  all_goals rfl
@[simp] theorem kickF_cells : (kickF s).cells = s.cells := by
  unfold kickF; repeat' split
  all_goals rfl
@[simp] theorem kickF_stations : (kickF s).stations = s.stations := by
  unfold kickF; repeat' split
  all_goals rfl
@[simp] theorem kickF_ships : (kickF s).ships = s.ships := by
  unfold kickF; repeat' split
  all_goals rfl
@[simp] theorem kickF_lot (i : LotSlot) : (kickF s).lot i = s.lot i := by simp [State.lot]
@[simp] theorem kickF_run (i : RunIx) : (kickF s).run i = s.run i := by simp [State.run]
@[simp] theorem kickF_cell (i : CellIx) : (kickF s).cell i = s.cell i := by simp [State.cell]
@[simp] theorem kickF_route (i : RouteIx) : (kickF s).route i = s.route i := by simp [State.route]
@[simp] theorem kickF_limit (i : LimitIx) : (kickF s).limit i = s.limit i := by simp [State.limit]
@[simp] theorem kickF_ship (i : ShipSlot) : (kickF s).ship i = s.ship i := by simp [State.ship]
end

/-! ## What kickC leaves alone -/

section
variable (s : State) 
@[simp] theorem kickC_pending : (kickC s).pending = s.pending := by
  unfold kickC; repeat' split
  all_goals rfl
@[simp] theorem kickC_phase : (kickC s).phase = s.phase := by
  unfold kickC; repeat' split
  all_goals rfl
@[simp] theorem kickC_profile : (kickC s).profile = s.profile := by
  unfold kickC; repeat' split
  all_goals rfl
@[simp] theorem kickC_floorClock : (kickC s).floorClock = s.floorClock := by
  unfold kickC; repeat' split
  all_goals rfl
@[simp] theorem kickC_timer : (kickC s).timer = s.timer := by
  unfold kickC; repeat' split
  all_goals rfl
@[simp] theorem kickC_routes : (kickC s).routes = s.routes := by
  unfold kickC; repeat' split
  all_goals rfl
@[simp] theorem kickC_limits : (kickC s).limits = s.limits := by
  unfold kickC; repeat' split
  all_goals rfl
@[simp] theorem kickC_lots : (kickC s).lots = s.lots := by
  unfold kickC; repeat' split
  all_goals rfl
@[simp] theorem kickC_runs : (kickC s).runs = s.runs := by
  unfold kickC; repeat' split
  all_goals rfl
@[simp] theorem kickC_queue : (kickC s).queue = s.queue := by
  unfold kickC; repeat' split
  all_goals rfl
@[simp] theorem kickC_seqCounter : (kickC s).seqCounter = s.seqCounter := by
  unfold kickC; repeat' split
  all_goals rfl
@[simp] theorem kickC_cells : (kickC s).cells = s.cells := by
  unfold kickC; repeat' split
  all_goals rfl
@[simp] theorem kickC_stations : (kickC s).stations = s.stations := by
  unfold kickC; repeat' split
  all_goals rfl
@[simp] theorem kickC_ships : (kickC s).ships = s.ships := by
  unfold kickC; repeat' split
  all_goals rfl
@[simp] theorem kickC_lot (i : LotSlot) : (kickC s).lot i = s.lot i := by simp [State.lot]
@[simp] theorem kickC_run (i : RunIx) : (kickC s).run i = s.run i := by simp [State.run]
@[simp] theorem kickC_cell (i : CellIx) : (kickC s).cell i = s.cell i := by simp [State.cell]
@[simp] theorem kickC_route (i : RouteIx) : (kickC s).route i = s.route i := by simp [State.route]
@[simp] theorem kickC_limit (i : LimitIx) : (kickC s).limit i = s.limit i := by simp [State.limit]
@[simp] theorem kickC_ship (i : ShipSlot) : (kickC s).ship i = s.ship i := by simp [State.ship]
end

/-! ## What forwardCF leaves alone -/

section
variable (s : State) (b : List Byte)
@[simp] theorem forwardCF_pending : (forwardCF b s).pending = s.pending := by unfold forwardCF; split <;> simp
@[simp] theorem forwardCF_phase : (forwardCF b s).phase = s.phase := by unfold forwardCF; split <;> simp
@[simp] theorem forwardCF_profile : (forwardCF b s).profile = s.profile := by unfold forwardCF; split <;> simp
@[simp] theorem forwardCF_floorClock : (forwardCF b s).floorClock = s.floorClock := by unfold forwardCF; split <;> simp
@[simp] theorem forwardCF_timer : (forwardCF b s).timer = s.timer := by unfold forwardCF; split <;> simp
@[simp] theorem forwardCF_routes : (forwardCF b s).routes = s.routes := by unfold forwardCF; split <;> simp
@[simp] theorem forwardCF_limits : (forwardCF b s).limits = s.limits := by unfold forwardCF; split <;> simp
@[simp] theorem forwardCF_lots : (forwardCF b s).lots = s.lots := by unfold forwardCF; split <;> simp
@[simp] theorem forwardCF_runs : (forwardCF b s).runs = s.runs := by unfold forwardCF; split <;> simp
@[simp] theorem forwardCF_queue : (forwardCF b s).queue = s.queue := by unfold forwardCF; split <;> simp
@[simp] theorem forwardCF_seqCounter : (forwardCF b s).seqCounter = s.seqCounter := by unfold forwardCF; split <;> simp
@[simp] theorem forwardCF_cells : (forwardCF b s).cells = s.cells := by unfold forwardCF; split <;> simp
@[simp] theorem forwardCF_stations : (forwardCF b s).stations = s.stations := by unfold forwardCF; split <;> simp
@[simp] theorem forwardCF_ships : (forwardCF b s).ships = s.ships := by unfold forwardCF; split <;> simp
@[simp] theorem forwardCF_lot (i : LotSlot) : (forwardCF b s).lot i = s.lot i := by simp [State.lot]
@[simp] theorem forwardCF_run (i : RunIx) : (forwardCF b s).run i = s.run i := by simp [State.run]
@[simp] theorem forwardCF_cell (i : CellIx) : (forwardCF b s).cell i = s.cell i := by simp [State.cell]
@[simp] theorem forwardCF_route (i : RouteIx) : (forwardCF b s).route i = s.route i := by simp [State.route]
@[simp] theorem forwardCF_limit (i : LimitIx) : (forwardCF b s).limit i = s.limit i := by simp [State.limit]
@[simp] theorem forwardCF_ship (i : ShipSlot) : (forwardCF b s).ship i = s.ship i := by simp [State.ship]
end

/-! ## What forwardFC leaves alone -/

section
variable (s : State) (b : List Byte)
@[simp] theorem forwardFC_pending : (forwardFC b s).pending = s.pending := by unfold forwardFC; split <;> simp
@[simp] theorem forwardFC_phase : (forwardFC b s).phase = s.phase := by unfold forwardFC; split <;> simp
@[simp] theorem forwardFC_profile : (forwardFC b s).profile = s.profile := by unfold forwardFC; split <;> simp
@[simp] theorem forwardFC_floorClock : (forwardFC b s).floorClock = s.floorClock := by unfold forwardFC; split <;> simp
@[simp] theorem forwardFC_timer : (forwardFC b s).timer = s.timer := by unfold forwardFC; split <;> simp
@[simp] theorem forwardFC_routes : (forwardFC b s).routes = s.routes := by unfold forwardFC; split <;> simp
@[simp] theorem forwardFC_limits : (forwardFC b s).limits = s.limits := by unfold forwardFC; split <;> simp
@[simp] theorem forwardFC_lots : (forwardFC b s).lots = s.lots := by unfold forwardFC; split <;> simp
@[simp] theorem forwardFC_runs : (forwardFC b s).runs = s.runs := by unfold forwardFC; split <;> simp
@[simp] theorem forwardFC_queue : (forwardFC b s).queue = s.queue := by unfold forwardFC; split <;> simp
@[simp] theorem forwardFC_seqCounter : (forwardFC b s).seqCounter = s.seqCounter := by unfold forwardFC; split <;> simp
@[simp] theorem forwardFC_cells : (forwardFC b s).cells = s.cells := by unfold forwardFC; split <;> simp
@[simp] theorem forwardFC_stations : (forwardFC b s).stations = s.stations := by unfold forwardFC; split <;> simp
@[simp] theorem forwardFC_ships : (forwardFC b s).ships = s.ships := by unfold forwardFC; split <;> simp
@[simp] theorem forwardFC_lot (i : LotSlot) : (forwardFC b s).lot i = s.lot i := by simp [State.lot]
@[simp] theorem forwardFC_run (i : RunIx) : (forwardFC b s).run i = s.run i := by simp [State.run]
@[simp] theorem forwardFC_cell (i : CellIx) : (forwardFC b s).cell i = s.cell i := by simp [State.cell]
@[simp] theorem forwardFC_route (i : RouteIx) : (forwardFC b s).route i = s.route i := by simp [State.route]
@[simp] theorem forwardFC_limit (i : LimitIx) : (forwardFC b s).limit i = s.limit i := by simp [State.limit]
@[simp] theorem forwardFC_ship (i : ShipSlot) : (forwardFC b s).ship i = s.ship i := by simp [State.ship]
end

/-! ## What appendOrder leaves alone -/

section
variable (s : State) (o : OrderFrame)
@[simp] theorem appendOrder_pending : (appendOrder o s).pending = s.pending := by unfold appendOrder; split <;> simp
@[simp] theorem appendOrder_phase : (appendOrder o s).phase = s.phase := by unfold appendOrder; split <;> simp
@[simp] theorem appendOrder_profile : (appendOrder o s).profile = s.profile := by unfold appendOrder; split <;> simp
@[simp] theorem appendOrder_floorClock : (appendOrder o s).floorClock = s.floorClock := by unfold appendOrder; split <;> simp
@[simp] theorem appendOrder_timer : (appendOrder o s).timer = s.timer := by unfold appendOrder; split <;> simp
@[simp] theorem appendOrder_routes : (appendOrder o s).routes = s.routes := by unfold appendOrder; split <;> simp
@[simp] theorem appendOrder_limits : (appendOrder o s).limits = s.limits := by unfold appendOrder; split <;> simp
@[simp] theorem appendOrder_lots : (appendOrder o s).lots = s.lots := by unfold appendOrder; split <;> simp
@[simp] theorem appendOrder_runs : (appendOrder o s).runs = s.runs := by unfold appendOrder; split <;> simp
@[simp] theorem appendOrder_queue : (appendOrder o s).queue = s.queue := by unfold appendOrder; split <;> simp
@[simp] theorem appendOrder_seqCounter : (appendOrder o s).seqCounter = s.seqCounter := by unfold appendOrder; split <;> simp
@[simp] theorem appendOrder_cells : (appendOrder o s).cells = s.cells := by unfold appendOrder; split <;> simp
@[simp] theorem appendOrder_stations : (appendOrder o s).stations = s.stations := by unfold appendOrder; split <;> simp
@[simp] theorem appendOrder_ships : (appendOrder o s).ships = s.ships := by unfold appendOrder; split <;> simp
@[simp] theorem appendOrder_lot (i : LotSlot) : (appendOrder o s).lot i = s.lot i := by simp [State.lot]
@[simp] theorem appendOrder_run (i : RunIx) : (appendOrder o s).run i = s.run i := by simp [State.run]
@[simp] theorem appendOrder_cell (i : CellIx) : (appendOrder o s).cell i = s.cell i := by simp [State.cell]
@[simp] theorem appendOrder_route (i : RouteIx) : (appendOrder o s).route i = s.route i := by simp [State.route]
@[simp] theorem appendOrder_limit (i : LimitIx) : (appendOrder o s).limit i = s.limit i := by simp [State.limit]
@[simp] theorem appendOrder_ship (i : ShipSlot) : (appendOrder o s).ship i = s.ship i := by simp [State.ship]
end

/-! ## What sendOrder leaves alone -/

section
variable (s : State) (k : CellIx) (role : Role) (o : Order)
@[simp] theorem sendOrder_pending : (sendOrder k role o s).pending = s.pending := by unfold sendOrder; split <;> simp
@[simp] theorem sendOrder_phase : (sendOrder k role o s).phase = s.phase := by unfold sendOrder; split <;> simp
@[simp] theorem sendOrder_profile : (sendOrder k role o s).profile = s.profile := by unfold sendOrder; split <;> simp
@[simp] theorem sendOrder_floorClock : (sendOrder k role o s).floorClock = s.floorClock := by unfold sendOrder; split <;> simp
@[simp] theorem sendOrder_timer : (sendOrder k role o s).timer = s.timer := by unfold sendOrder; split <;> simp
@[simp] theorem sendOrder_routes : (sendOrder k role o s).routes = s.routes := by unfold sendOrder; split <;> simp
@[simp] theorem sendOrder_limits : (sendOrder k role o s).limits = s.limits := by unfold sendOrder; split <;> simp
@[simp] theorem sendOrder_lots : (sendOrder k role o s).lots = s.lots := by unfold sendOrder; split <;> simp
@[simp] theorem sendOrder_runs : (sendOrder k role o s).runs = s.runs := by unfold sendOrder; split <;> simp
@[simp] theorem sendOrder_queue : (sendOrder k role o s).queue = s.queue := by unfold sendOrder; split <;> simp
@[simp] theorem sendOrder_seqCounter : (sendOrder k role o s).seqCounter = s.seqCounter := by unfold sendOrder; split <;> simp
@[simp] theorem sendOrder_cells : (sendOrder k role o s).cells = s.cells := by unfold sendOrder; split <;> simp
@[simp] theorem sendOrder_stations : (sendOrder k role o s).stations = s.stations := by unfold sendOrder; split <;> simp
@[simp] theorem sendOrder_ships : (sendOrder k role o s).ships = s.ships := by unfold sendOrder; split <;> simp
@[simp] theorem sendOrder_lot (i : LotSlot) : (sendOrder k role o s).lot i = s.lot i := by simp [State.lot]
@[simp] theorem sendOrder_run (i : RunIx) : (sendOrder k role o s).run i = s.run i := by simp [State.run]
@[simp] theorem sendOrder_cell (i : CellIx) : (sendOrder k role o s).cell i = s.cell i := by simp [State.cell]
@[simp] theorem sendOrder_route (i : RouteIx) : (sendOrder k role o s).route i = s.route i := by simp [State.route]
@[simp] theorem sendOrder_limit (i : LimitIx) : (sendOrder k role o s).limit i = s.limit i := by simp [State.limit]
@[simp] theorem sendOrder_ship (i : ShipSlot) : (sendOrder k role o s).ship i = s.ship i := by simp [State.ship]
end

/-! ## What sendBoth leaves alone -/

section
variable (s : State) (k : CellIx) (o : Order)
@[simp] theorem sendBoth_pending : (sendBoth k o s).pending = s.pending := by simp [sendBoth]
@[simp] theorem sendBoth_phase : (sendBoth k o s).phase = s.phase := by simp [sendBoth]
@[simp] theorem sendBoth_profile : (sendBoth k o s).profile = s.profile := by simp [sendBoth]
@[simp] theorem sendBoth_floorClock : (sendBoth k o s).floorClock = s.floorClock := by simp [sendBoth]
@[simp] theorem sendBoth_timer : (sendBoth k o s).timer = s.timer := by simp [sendBoth]
@[simp] theorem sendBoth_routes : (sendBoth k o s).routes = s.routes := by simp [sendBoth]
@[simp] theorem sendBoth_limits : (sendBoth k o s).limits = s.limits := by simp [sendBoth]
@[simp] theorem sendBoth_lots : (sendBoth k o s).lots = s.lots := by simp [sendBoth]
@[simp] theorem sendBoth_runs : (sendBoth k o s).runs = s.runs := by simp [sendBoth]
@[simp] theorem sendBoth_queue : (sendBoth k o s).queue = s.queue := by simp [sendBoth]
@[simp] theorem sendBoth_seqCounter : (sendBoth k o s).seqCounter = s.seqCounter := by simp [sendBoth]
@[simp] theorem sendBoth_cells : (sendBoth k o s).cells = s.cells := by simp [sendBoth]
@[simp] theorem sendBoth_stations : (sendBoth k o s).stations = s.stations := by simp [sendBoth]
@[simp] theorem sendBoth_ships : (sendBoth k o s).ships = s.ships := by simp [sendBoth]
@[simp] theorem sendBoth_lot (i : LotSlot) : (sendBoth k o s).lot i = s.lot i := by simp [State.lot]
@[simp] theorem sendBoth_run (i : RunIx) : (sendBoth k o s).run i = s.run i := by simp [State.run]
@[simp] theorem sendBoth_cell (i : CellIx) : (sendBoth k o s).cell i = s.cell i := by simp [State.cell]
@[simp] theorem sendBoth_route (i : RouteIx) : (sendBoth k o s).route i = s.route i := by simp [State.route]
@[simp] theorem sendBoth_limit (i : LimitIx) : (sendBoth k o s).limit i = s.limit i := by simp [State.limit]
@[simp] theorem sendBoth_ship (i : ShipSlot) : (sendBoth k o s).ship i = s.ship i := by simp [State.ship]
end

/-! ## What postNotice leaves alone -/

section
variable (s : State) (n : Notice)
@[simp] theorem postNotice_pending : (postNotice n s).pending = s.pending := by unfold postNotice; split <;> simp
@[simp] theorem postNotice_phase : (postNotice n s).phase = s.phase := by unfold postNotice; split <;> simp
@[simp] theorem postNotice_profile : (postNotice n s).profile = s.profile := by unfold postNotice; split <;> simp
@[simp] theorem postNotice_floorClock : (postNotice n s).floorClock = s.floorClock := by unfold postNotice; split <;> simp
@[simp] theorem postNotice_timer : (postNotice n s).timer = s.timer := by unfold postNotice; split <;> simp
@[simp] theorem postNotice_routes : (postNotice n s).routes = s.routes := by unfold postNotice; split <;> simp
@[simp] theorem postNotice_limits : (postNotice n s).limits = s.limits := by unfold postNotice; split <;> simp
@[simp] theorem postNotice_lots : (postNotice n s).lots = s.lots := by unfold postNotice; split <;> simp
@[simp] theorem postNotice_runs : (postNotice n s).runs = s.runs := by unfold postNotice; split <;> simp
@[simp] theorem postNotice_queue : (postNotice n s).queue = s.queue := by unfold postNotice; split <;> simp
@[simp] theorem postNotice_seqCounter : (postNotice n s).seqCounter = s.seqCounter := by unfold postNotice; split <;> simp
@[simp] theorem postNotice_cells : (postNotice n s).cells = s.cells := by unfold postNotice; split <;> simp
@[simp] theorem postNotice_stations : (postNotice n s).stations = s.stations := by unfold postNotice; split <;> simp
@[simp] theorem postNotice_ships : (postNotice n s).ships = s.ships := by unfold postNotice; split <;> simp
@[simp] theorem postNotice_lot (i : LotSlot) : (postNotice n s).lot i = s.lot i := by simp [State.lot]
@[simp] theorem postNotice_run (i : RunIx) : (postNotice n s).run i = s.run i := by simp [State.run]
@[simp] theorem postNotice_cell (i : CellIx) : (postNotice n s).cell i = s.cell i := by simp [State.cell]
@[simp] theorem postNotice_route (i : RouteIx) : (postNotice n s).route i = s.route i := by simp [State.route]
@[simp] theorem postNotice_limit (i : LimitIx) : (postNotice n s).limit i = s.limit i := by simp [State.limit]
@[simp] theorem postNotice_ship (i : ShipSlot) : (postNotice n s).ship i = s.ship i := by simp [State.ship]
end

/-! ## What appendResponse leaves alone -/

section
variable (s : State) (r : Response)
@[simp] theorem appendResponse_pending : (appendResponse r s).pending = s.pending := by simp [appendResponse]
@[simp] theorem appendResponse_phase : (appendResponse r s).phase = s.phase := by simp [appendResponse]
@[simp] theorem appendResponse_profile : (appendResponse r s).profile = s.profile := by simp [appendResponse]
@[simp] theorem appendResponse_floorClock : (appendResponse r s).floorClock = s.floorClock := by simp [appendResponse]
@[simp] theorem appendResponse_timer : (appendResponse r s).timer = s.timer := by simp [appendResponse]
@[simp] theorem appendResponse_routes : (appendResponse r s).routes = s.routes := by simp [appendResponse]
@[simp] theorem appendResponse_limits : (appendResponse r s).limits = s.limits := by simp [appendResponse]
@[simp] theorem appendResponse_lots : (appendResponse r s).lots = s.lots := by simp [appendResponse]
@[simp] theorem appendResponse_runs : (appendResponse r s).runs = s.runs := by simp [appendResponse]
@[simp] theorem appendResponse_queue : (appendResponse r s).queue = s.queue := by simp [appendResponse]
@[simp] theorem appendResponse_seqCounter : (appendResponse r s).seqCounter = s.seqCounter := by simp [appendResponse]
@[simp] theorem appendResponse_cells : (appendResponse r s).cells = s.cells := by simp [appendResponse]
@[simp] theorem appendResponse_stations : (appendResponse r s).stations = s.stations := by simp [appendResponse]
@[simp] theorem appendResponse_ships : (appendResponse r s).ships = s.ships := by simp [appendResponse]
@[simp] theorem appendResponse_lot (i : LotSlot) : (appendResponse r s).lot i = s.lot i := by simp [State.lot]
@[simp] theorem appendResponse_run (i : RunIx) : (appendResponse r s).run i = s.run i := by simp [State.run]
@[simp] theorem appendResponse_cell (i : CellIx) : (appendResponse r s).cell i = s.cell i := by simp [State.cell]
@[simp] theorem appendResponse_route (i : RouteIx) : (appendResponse r s).route i = s.route i := by simp [State.route]
@[simp] theorem appendResponse_limit (i : LimitIx) : (appendResponse r s).limit i = s.limit i := by simp [State.limit]
@[simp] theorem appendResponse_ship (i : ShipSlot) : (appendResponse r s).ship i = s.ship i := by simp [State.ship]
end

end Sys2Proof.Machine
end

