-- ==== Sys2Proof/Laws/Acts.lean ====
section
/-! SUPPORT. What a shared operation of the blocks can do at most (`Acts`): it keeps the configuration, the clocks, the
shipments and the identity of every lot and cell, it never lowers a step index, and it keeps each invariant of
Safety.lean. One lemma for each primitive write. -/

-- One theorem at a time: in the package as one text, a thread for each would not fit in memory.
set_option Elab.async false

namespace Sys2Proof.Machine

/-- What no shared operation changes of a lot. -/
structure LotKept (x y : Lot) : Prop where
  tag : y.tag = x.tag
  route : y.route = x.route
  split : y.split = x.split
  preempt : y.preempt = x.preempt
  started : y.started = x.started
  step : x.step ≤ y.step
  state : y.state = x.state ∨ (x.state.counted = true ∧ y.state.counted = true)

/-- What no shared operation changes of a cell. -/
structure CellKept (x y : Cell) : Prop where
  configured : y.configured = x.configured
  tester : y.tester = x.tester
  handler : y.handler = x.handler
  cls : y.cls = x.cls
  heardTester : y.heardTester = x.heardTester
  heardHandler : y.heardHandler = x.heardHandler
  enabled : y.enabled = x.enabled
  kit : y.kit = x.kit
  temp : y.temp = x.temp
  program : y.program = x.program
  expected : y.expected = x.expected
  draining : y.draining = x.draining
  clearTime : y.clearTime = x.clearTime

/-- A change of a lot that a shared operation may make. -/
structure LotActs (x y : Lot) : Prop where
  kept : LotKept x y
  holds : x.holdsOk → y.holdsOk
  figures : x.figures.bounded → y.figures.bounded
  seq : x.queueSeq < Config.maxSequence → y.queueSeq < Config.maxSequence

/-- A change of a cell that a shared operation may make. -/
structure CellActs (x y : Cell) : Prop where
  kept : CellKept x y
  bounded : x.bounded → y.bounded

/-- What a shared operation may make of a state. -/
structure Acts (s t : State) : Prop where
  pending : t.pending = s.pending
  phase : t.phase = s.phase
  profile : t.profile = s.profile
  floorClock : t.floorClock = s.floorClock
  timer : t.timer = s.timer
  routes : t.routes = s.routes
  limits : t.limits = s.limits
  ships : t.ships = s.ships
  stations : t.stations = s.stations
  lots : ∀ l, LotKept (s.lot l) (t.lot l)
  cells : ∀ c, CellKept (s.cell c) (t.cell c)
  links : s.linksOk → t.linksOk
  busy : s.portsBusy → t.portsBusy
  holds : s.holdsOk → t.holdsOk
  figures : s.tablesOk → s.figuresOk → t.figuresOk
  bounded : s.cellsOk → t.cellsOk
  queue : s.queueOk → t.queueOk

theorem LotKept.refl (x : Lot) : LotKept x x := ⟨rfl, rfl, rfl, rfl, rfl, le_refl _, .inl rfl⟩

theorem LotKept.trans {x y z : Lot} (h : LotKept x y) (k : LotKept y z) : LotKept x z :=
  ⟨k.tag.trans h.tag, k.route.trans h.route, k.split.trans h.split, k.preempt.trans h.preempt,
    k.started.trans h.started, h.step.trans k.step, by
      rcases h.state with e | ⟨a, b⟩ <;> rcases k.state with f | ⟨c, d⟩
      · exact .inl (f.trans e)
      · exact .inr ⟨e ▸ c, d⟩
      · exact .inr ⟨a, f ▸ b⟩
      · exact .inr ⟨a, d⟩⟩

theorem CellKept.refl (x : Cell) : CellKept x x :=
  ⟨rfl, rfl, rfl, rfl, rfl, rfl, rfl, rfl, rfl, rfl, rfl, rfl, rfl⟩

theorem CellKept.trans {x y z : Cell} (h : CellKept x y) (k : CellKept y z) : CellKept x z :=
  ⟨k.configured.trans h.configured, k.tester.trans h.tester, k.handler.trans h.handler, k.cls.trans h.cls,
    k.heardTester.trans h.heardTester, k.heardHandler.trans h.heardHandler, k.enabled.trans h.enabled,
    k.kit.trans h.kit, k.temp.trans h.temp, k.program.trans h.program, k.expected.trans h.expected,
    k.draining.trans h.draining, k.clearTime.trans h.clearTime⟩

/-- The tables are the same, so their ranges are. -/
theorem Acts.tables {s t : State} (h : Acts s t) (k : s.tablesOk) : t.tablesOk := by
  simpa [State.tablesOk, State.route, State.limit, h.routes, h.limits] using k

theorem Acts.refl (s : State) : Acts s s :=
  ⟨rfl, rfl, rfl, rfl, rfl, rfl, rfl, rfl, rfl, fun _ => .refl _, fun _ => .refl _, id, id, id, fun _ => id, id, id⟩

theorem Acts.trans {s t u : State} (h : Acts s t) (k : Acts t u) : Acts s u :=
  ⟨k.pending.trans h.pending, k.phase.trans h.phase, k.profile.trans h.profile, k.floorClock.trans h.floorClock,
    k.timer.trans h.timer, k.routes.trans h.routes, k.limits.trans h.limits, k.ships.trans h.ships,
    k.stations.trans h.stations, fun l => (h.lots l).trans (k.lots l), fun c => (h.cells c).trans (k.cells c),
    k.links ∘ h.links, k.busy ∘ h.busy, k.holds ∘ h.holds, fun a b => k.figures (h.tables a) (h.figures a b),
    k.bounded ∘ h.bounded, k.queue ∘ h.queue⟩

theorem Acts.ite {p : Prop} [Decidable p] {s a b : State} (h : p → Acts s a) (k : ¬ p → Acts s b) :
    Acts s (if p then a else b) := by
  split
  · exact h ‹_›
  · exact k ‹_›

/-! ## Writes of one record -/

theorem Acts.setLot (s : State) (i : LotSlot) (x : Lot) (h : LotActs (s.lot i) x) : Acts s (s.setLot i x) := by
  refine ⟨rfl, rfl, rfl, rfl, rfl, rfl, rfl, rfl, rfl, fun l => ?_, fun _ => .refl _, id, id, fun k l => ?_,
    fun _ k => ⟨fun l => ?_, k.2⟩, id, fun k => ⟨k.1, k.2.1, fun l => ?_⟩⟩ <;>
  · by_cases e : i = l
    · subst e
      simp only [setLot_lot]
      first
        | exact h.kept
        | exact h.holds (k _)
        | exact h.figures (k.1 _)
        | exact h.seq (k.2.2 _)
    · simp only [setLot_lot_ne s x e]
      first
        | exact .refl _
        | exact k _
        | exact k.1 _
        | exact k.2.2 _

theorem Acts.modLot (s : State) (i : LotSlot) (f : Lot → Lot) (h : LotActs (s.lot i) (f (s.lot i))) :
    Acts s (s.modLot i f) := .setLot s i _ h

theorem Acts.setRun (s : State) (r : RunIx) (x : Run) (h : s.tablesOk → (s.run r).bounded → x.bounded) :
    Acts s (s.setRun r x) := by
  refine ⟨rfl, rfl, rfl, rfl, rfl, rfl, rfl, rfl, rfl, fun _ => .refl _, fun _ => .refl _, id, id, id,
    fun a k => ⟨k.1, fun q => ?_⟩, id, id⟩
  by_cases e : r = q
  · subst e
    simpa using h a (k.2 _)
  · simpa [setRun_run_ne s x e] using k.2 q

theorem Acts.modRun (s : State) (r : RunIx) (f : Run → Run)
    (h : s.tablesOk → (s.run r).bounded → (f (s.run r)).bounded) : Acts s (s.modRun r f) := .setRun s r _ h

theorem Acts.setCell (s : State) (c : CellIx) (x : Cell) (h : CellActs (s.cell c) x) : Acts s (s.setCell c x) := by
  refine ⟨rfl, rfl, rfl, rfl, rfl, rfl, rfl, rfl, rfl, fun _ => .refl _, fun d => ?_, id, id, id, fun _ => id,
    fun k d => ?_, id⟩ <;>
  · by_cases e : c = d
    · subst e
      simp only [setCell_cell]
      first
        | exact h.kept
        | exact h.bounded (k _)
    · simp only [setCell_cell_ne s x e]
      first
        | exact .refl _
        | exact k _

theorem Acts.modCell (s : State) (c : CellIx) (f : Cell → Cell) (h : CellActs (s.cell c) (f (s.cell c))) :
    Acts s (s.modCell c f) := .setCell s c _ h

/-! ## The ports -/

/-- An operation that changes the ports alone and keeps their bounds. -/
theorem Acts.ofPorts {s t : State} (hp : t.pending = s.pending) (h1 : t.phase = s.phase) (h2 : t.profile = s.profile)
    (h3 : t.floorClock = s.floorClock) (h4 : t.timer = s.timer) (h5 : t.routes = s.routes)
    (h6 : t.limits = s.limits) (h7 : t.ships = s.ships) (h8 : t.stations = s.stations) (h9 : t.lots = s.lots)
    (h10 : t.cells = s.cells) (h11 : t.runs = s.runs) (h12 : t.queue = s.queue) (h13 : t.seqCounter = s.seqCounter)
    (l : s.linksOk → t.linksOk) (b : s.portsBusy → t.portsBusy) : Acts s t := by
  have e1 : ∀ i, t.lot i = s.lot i := fun i => by simp [State.lot, h9]
  have e2 : ∀ i, t.cell i = s.cell i := fun i => by simp [State.cell, h10]
  have e3 : ∀ i, t.run i = s.run i := fun i => by simp [State.run, h11]
  refine ⟨hp, h1, h2, h3, h4, h5, h6, h7, h8, fun i => ?_, fun i => ?_, l, b, fun k i => ?_, fun _ k => ⟨fun i => ?_, fun i => ?_⟩,
    fun k i => ?_, fun k => ⟨?_, ?_, fun i => ?_⟩⟩
  · rw [e1]; exact .refl _
  · rw [e2]; exact .refl _
  · rw [e1]; exact k i
  · rw [e1]; exact k.1 i
  · rw [e3]; exact k.2 i
  · rw [e2]; exact k i
  · rw [h12]; exact k.1
  · rw [h13]; exact k.2.1
  · rw [e1]; exact k.2.2 i

theorem kickF_links {s : State} (h : s.linksOk) : (kickF s).linksOk := by
  obtain ⟨h1, h2, h3, h4, h5, h6⟩ := h
  unfold kickF
  split
  · exact ⟨h1, h2, h3, h4, h5, h6⟩
  · split
    · next n rest e =>
      have e4 : s.noticeCount = rest.countP (fun o => !o.isResponse) + 1 := by
        rw [h4, noticesWaiting, e]; simp [Outbound.isResponse]
      have e6 : responsesWaiting s = rest.countP Outbound.isResponse := by
        rw [responsesWaiting, e]; simp [Outbound.isResponse]
      refine ⟨h1, h2, h3, ?_, ?_, ?_⟩ <;> simp only [noticesWaiting, responsesWaiting] <;> omega
    · next r rest e =>
      have e4 : s.noticeCount = rest.countP (fun o => !o.isResponse) := by
        rw [h4, noticesWaiting, e]; simp [Outbound.isResponse]
      have e6 : responsesWaiting s = rest.countP Outbound.isResponse + 1 := by
        rw [responsesWaiting, e]; exact List.countP_cons_of_pos rfl
      refine ⟨h1, h2, h3, ?_, ?_, ?_⟩ <;> simp only [noticesWaiting, responsesWaiting] <;> omega
    · next e =>
      split
      · next b rest e' =>
        simp only [e', List.length_cons] at h1
        exact ⟨by simp only; omega, h2, h3, h4, h5, h6⟩
      · exact ⟨h1, h2, h3, h4, h5, h6⟩

theorem kickC_links {s : State} (h : s.linksOk) : (kickC s).linksOk := by
  obtain ⟨h1, h2, h3, h4, h5, h6⟩ := h
  unfold kickC
  split
  · exact ⟨h1, h2, h3, h4, h5, h6⟩
  · split
    · next o rest e =>
      simp only [e, List.length_cons] at h3
      exact ⟨h1, h2, by simp only; omega, h4, h5, h6⟩
    · split
      · next b rest e' =>
        simp only [e', List.length_cons] at h2
        exact ⟨h1, by simp only; omega, h3, h4, h5, h6⟩
      · exact ⟨h1, h2, h3, h4, h5, h6⟩

theorem kickF_txC (s : State) : (kickF s).txC = s.txC := by unfold kickF; repeat' split
                                                            all_goals rfl
theorem kickF_orders (s : State) : (kickF s).orders = s.orders := by unfold kickF; repeat' split
                                                                     all_goals rfl
theorem kickF_fwdFC (s : State) : (kickF s).fwdFC = s.fwdFC := by unfold kickF; repeat' split
                                                                  all_goals rfl
theorem kickC_txF (s : State) : (kickC s).txF = s.txF := by unfold kickC; repeat' split
                                                            all_goals rfl
theorem kickC_outbound (s : State) : (kickC s).outbound = s.outbound := by unfold kickC; repeat' split
                                                                           all_goals rfl
theorem kickC_fwdCF (s : State) : (kickC s).fwdCF = s.fwdCF := by unfold kickC; repeat' split
                                                                  all_goals rfl

/-- Whatever waits, a transmitter of Port F that is left idle has nothing to send (R172). -/
theorem kickF_idle {s : State} (h : (kickF s).txF = none) : (kickF s).outbound = [] ∧ (kickF s).fwdCF = [] := by
  unfold kickF at h ⊢
  split at h
  · simp_all
  · split at h
    · simp at h
    · simp at h
    · split at h
      · simp at h
      · simp_all

/-- Whatever waits, a transmitter of Port C that is left idle has nothing to send (R172). -/
theorem kickC_idle {s : State} (h : (kickC s).txC = none) : (kickC s).orders = [] ∧ (kickC s).fwdFC = [] := by
  unfold kickC at h ⊢
  split at h
  · simp_all
  · split at h
    · simp at h
    · split at h
      · simp at h
      · simp_all

theorem kickF_busy {s : State} (h : s.txC = none → s.orders = [] ∧ s.fwdFC = []) : (kickF s).portsBusy :=
  ⟨kickF_idle, by simpa [kickF_txC, kickF_orders, kickF_fwdFC] using h⟩

theorem kickC_busy {s : State} (h : s.txF = none → s.outbound = [] ∧ s.fwdCF = []) : (kickC s).portsBusy :=
  ⟨by simpa [kickC_txF, kickC_outbound, kickC_fwdCF] using h, kickC_idle⟩

theorem Acts.appendOrder (o : OrderFrame) (s : State) : Acts s (appendOrder o s) := by
  refine .ofPorts (by simp) (by simp) (by simp) (by simp) (by simp) (by simp) (by simp) (by simp) (by simp) (by simp)
    (by simp) (by simp) (by simp) (by simp) (fun h => ?_) (fun h => ?_) <;> unfold Machine.appendOrder <;> split
  · obtain ⟨h1, h2, h3, h4, h5, h6⟩ := h
    exact kickC_links ⟨h1, h2, by simp; omega, h4, h5, h6⟩
  · exact h
  · exact kickC_busy h.1
  · exact h

theorem Acts.forwardCF (b : List Byte) (s : State) : Acts s (forwardCF b s) := by
  refine .ofPorts (by simp) (by simp) (by simp) (by simp) (by simp) (by simp) (by simp) (by simp) (by simp) (by simp)
    (by simp) (by simp) (by simp) (by simp) (fun h => ?_) (fun h => ?_) <;> unfold Machine.forwardCF <;> split
  · obtain ⟨h1, h2, h3, h4, h5, h6⟩ := h
    exact kickF_links ⟨by simp; omega, h2, h3, h4, h5, h6⟩
  · exact h
  · exact kickF_busy h.2
  · exact h

theorem Acts.forwardFC (b : List Byte) (s : State) : Acts s (forwardFC b s) := by
  refine .ofPorts (by simp) (by simp) (by simp) (by simp) (by simp) (by simp) (by simp) (by simp) (by simp) (by simp)
    (by simp) (by simp) (by simp) (by simp) (fun h => ?_) (fun h => ?_) <;> unfold Machine.forwardFC <;> split
  · obtain ⟨h1, h2, h3, h4, h5, h6⟩ := h
    exact kickC_links ⟨h1, by simp; omega, h3, h4, h5, h6⟩
  · exact h
  · exact kickC_busy h.1
  · exact h

theorem Acts.postNotice (n : Notice) (s : State) : Acts s (postNotice n s) := by
  refine .ofPorts (by simp) (by simp) (by simp) (by simp) (by simp) (by simp) (by simp) (by simp) (by simp) (by simp)
    (by simp) (by simp) (by simp) (by simp) (fun h => ?_) (fun h => ?_) <;> unfold Machine.postNotice <;> split
  · obtain ⟨h1, h2, h3, h4, h5, h6⟩ := h
    refine kickF_links ⟨h1, h2, h3, ?_, ?_, ?_⟩
    · simpa [noticesWaiting, List.countP_append, Outbound.isResponse] using h4
    · simp only; omega
    · simpa [responsesWaiting, List.countP_append, Outbound.isResponse] using h6
  · exact h
  · exact kickF_busy h.2
  · exact h

theorem Acts.sendOrder (c : CellIx) (role : Role) (o : Order) (s : State) : Acts s (sendOrder c role o s) := by
  unfold Machine.sendOrder
  split
  · exact .appendOrder _ _
  · exact .refl _

theorem Acts.sendBoth (c : CellIx) (o : Order) (s : State) : Acts s (sendBoth c o s) :=
  (Acts.sendOrder c .tester o s).trans (.sendOrder c .handler o _)

end Sys2Proof.Machine
end

