-- ==== Sys2Proof/Laws/Blocks.lean ====
section
/-! SUPPORT. Each shared operation of RUN, PRP, DSP and CEL makes of a state only what `Acts` allows. -/

-- One theorem at a time: in the package as one text, a thread for each would not fit in memory.
set_option Elab.async false

namespace Sys2Proof.Machine

/-! ## Changes of one cell -/

/-- A change of a cell that touches no kept field and no bounded one. -/
theorem CellActs.of_eq {x y : Cell} (h1 : y.configured = x.configured) (h2 : y.tester = x.tester)
    (h3 : y.handler = x.handler) (h4 : y.cls = x.cls) (h5 : y.heardTester = x.heardTester)
    (h6 : y.heardHandler = x.heardHandler) (h7 : y.enabled = x.enabled) (h8 : y.kit = x.kit) (h9 : y.temp = x.temp)
    (h10 : y.downCount = x.downCount) (h11 : y.acc = x.acc) (h12 : y.program = x.program)
    (h13 : y.expected = x.expected) (h14 : y.draining = x.draining) (h15 : y.clearTime = x.clearTime) : CellActs x y :=
  ⟨⟨h1, h2, h3, h4, h5, h6, h7, h8, h9, h12, h13, h14, h15⟩, fun h => by simpa [Cell.bounded, h9, h10, h11] using h⟩

theorem Accumulators.add_bounded {a : Accumulators} (h : a.bounded) (st : CellState) (ms : Nat) :
    (a.add st ms).bounded := by
  have hs : ∀ x, satAdd Config.max40 x ms ≤ Config.max40 := fun x => Nat.min_le_left _ _
  obtain ⟨h1, h2, h3, h4, h5⟩ := h
  cases st <;> simp only [Accumulators.add, Accumulators.bounded] <;>
    refine ⟨?_, ?_, ?_, ?_, ?_⟩ <;> first | assumption | exact hs _

theorem Cell.entered_acts (k : Cell) (now : Nat) (st : CellState) (cause : Option Cause) :
    CellActs k (k.entered now st cause) := by
  unfold Cell.entered
  split
  · exact .of_eq rfl rfl rfl rfl rfl rfl rfl rfl rfl rfl rfl rfl rfl rfl rfl
  · exact ⟨⟨rfl, rfl, rfl, rfl, rfl, rfl, rfl, rfl, rfl, rfl, rfl, rfl, rfl⟩,
      fun h => ⟨h.1, Accumulators.add_bounded h.2.1 _ _, h.2.2⟩⟩

theorem Acts.enterCell (c : CellIx) (st : CellState) (cause : Option Cause) (s : State) :
    Acts s (enterCell c st cause s) := .modCell _ _ _ (Cell.entered_acts _ _ _ _)

theorem Cell.modPrep_acts (k : Cell) (f : Prep → Prep) : CellActs k (k.modPrep f) :=
  .of_eq rfl rfl rfl rfl rfl rfl rfl rfl rfl rfl rfl rfl rfl rfl rfl

theorem Cell.armStage_acts (k : Cell) (now : Nat) (d : DeadlineKind) (ms : Nat) :
    CellActs k (k.armStage now d ms) := by
  unfold Cell.armStage
  refine .of_eq ?_ ?_ ?_ ?_ ?_ ?_ ?_ ?_ ?_ ?_ ?_ ?_ ?_ ?_ ?_ <;> dsimp only <;> (repeat' split) <;> rfl

theorem Cell.armRun_acts (k : Cell) (now : Nat) (d : DeadlineKind) (ms : Nat) : CellActs k (k.armRun now d ms) := by
  unfold Cell.armRun
  refine .of_eq ?_ ?_ ?_ ?_ ?_ ?_ ?_ ?_ ?_ ?_ ?_ ?_ ?_ ?_ ?_ <;> (repeat' split) <;> rfl

theorem Cell.cancelStage_acts (k : Cell) : CellActs k k.cancelStage := by
  unfold Cell.cancelStage
  refine .of_eq ?_ ?_ ?_ ?_ ?_ ?_ ?_ ?_ ?_ ?_ ?_ ?_ ?_ ?_ ?_ <;> (repeat' split) <;> rfl

theorem Cell.cancelRun_acts (k : Cell) (d : DeadlineKind) : CellActs k (k.cancelRun d) := by
  unfold Cell.cancelRun
  refine .of_eq ?_ ?_ ?_ ?_ ?_ ?_ ?_ ?_ ?_ ?_ ?_ ?_ ?_ ?_ ?_ <;> dsimp only [Cell.modPrep] <;> (repeat' split) <;> rfl

theorem Cell.dropPrep_acts (k : Cell) (now : Nat) : CellActs k (k.dropPrep now) := by
  unfold Cell.dropPrep
  refine .of_eq ?_ ?_ ?_ ?_ ?_ ?_ ?_ ?_ ?_ ?_ ?_ ?_ ?_ ?_ ?_ <;> (repeat' split) <;> rfl

/-- A change of a cell's fields that no rule of Acts names. -/
theorem Acts.modCell_eq (c : CellIx) (f : Cell → Cell) (s : State)
    (h : ∀ k : Cell, (f k).configured = k.configured ∧ (f k).tester = k.tester ∧ (f k).handler = k.handler
      ∧ (f k).cls = k.cls ∧ (f k).heardTester = k.heardTester ∧ (f k).heardHandler = k.heardHandler
      ∧ (f k).enabled = k.enabled ∧ (f k).kit = k.kit ∧ (f k).temp = k.temp ∧ (f k).downCount = k.downCount
      ∧ (f k).acc = k.acc ∧ (f k).program = k.program ∧ (f k).expected = k.expected ∧ (f k).draining = k.draining
      ∧ (f k).clearTime = k.clearTime := by
        intro; exact ⟨rfl, rfl, rfl, rfl, rfl, rfl, rfl, rfl, rfl, rfl, rfl, rfl, rfl, rfl, rfl⟩) :
    Acts s (s.modCell c f) := by
  obtain ⟨h1, h2, h3, h4, h5, h6, h7, h8, h9, h10, h11, h12, h13, h14, h15⟩ := h (s.cell c)
  exact .modCell _ _ _ (.of_eq h1 h2 h3 h4 h5 h6 h7 h8 h9 h10 h11 h12 h13 h14 h15)

/-! ## Changes of one lot and one run -/

/-- A change of a lot that touches no kept field, no hold, no figure and no sequence. -/
theorem LotActs.of_eq {x y : Lot} (h1 : y.tag = x.tag) (h2 : y.route = x.route) (h3 : y.split = x.split)
    (h4 : y.preempt = x.preempt) (h5 : y.started = x.started) (h6 : y.step = x.step) (h7 : y.holds = x.holds)
    (h8 : y.figures = x.figures) (h9 : y.queueSeq = x.queueSeq)
    (h10 : y.state = x.state ∨ (x.state.counted = true ∧ y.state.counted = true) := by exact .inl rfl) :
    LotActs x y :=
  ⟨⟨h1, h2, h3, h4, h5, h6.ge, h10⟩, fun h => by simpa [Lot.holdsOk, h7] using h, fun h => by rwa [h8], fun h => by rwa [h9]⟩

/-- A change of a lot's fields that no rule of Acts names. -/
theorem Acts.modLot_eq (l : LotSlot) (f : Lot → Lot) (s : State)
    (h : ∀ x : Lot, (f x).tag = x.tag ∧ (f x).route = x.route ∧ (f x).split = x.split ∧ (f x).preempt = x.preempt
      ∧ (f x).started = x.started ∧ (f x).step = x.step ∧ (f x).holds = x.holds ∧ (f x).figures = x.figures
      ∧ (f x).queueSeq = x.queueSeq := by intro; exact ⟨rfl, rfl, rfl, rfl, rfl, rfl, rfl, rfl, rfl⟩)
    (hs : (f (s.lot l)).state = (s.lot l).state
      ∨ ((s.lot l).state.counted = true ∧ (f (s.lot l)).state.counted = true) := by exact .inl rfl) :
    Acts s (s.modLot l f) := by
  obtain ⟨h1, h2, h3, h4, h5, h6, h7, h8, h9⟩ := h (s.lot l)
  exact .modLot _ _ _ (.of_eq h1 h2 h3 h4 h5 h6 h7 h8 h9 hs)

theorem Run.free_bounded : Run.free.bounded := by
  refine ⟨by decide, by decide, fun i => ?_, by decide, by simp [Run.free], fun t => ?_, by decide, by decide,
    by decide, by decide, by decide, by decide⟩
  · simp [Run.free, SiteFigures.zero, SiteFigures.bounded]
  · simp [Run.free]

/-! ## RUN (Runs.lean) -/

theorem Acts.armRunDeadline (c : CellIx) (k : DeadlineKind) (n : Nat) (s : State) :
    Acts s (armRunDeadline c k n s) := .modCell _ _ _ (Cell.armRun_acts _ _ _ _)

theorem Acts.cancelRunDeadline (c : CellIx) (k : DeadlineKind) (s : State) : Acts s (cancelRunDeadline c k s) :=
  .modCell _ _ _ (Cell.cancelRun_acts _ _)

theorem outstandingOf_le (n : Nat) : outstandingOf n ≤ Config.max24 := by
  unfold outstandingOf
  split
  · assumption
  · have := (Config.retestSumBeyond24 n).isLt
    simp only [Config.max24]; omega

theorem vset_le {n b : Nat} {v : Vector Nat n} (h : ∀ i : Fin n, v[i] ≤ b) {x : Nat} (hx : x ≤ b) (j i : Fin n) :
    (vset v j x)[i] ≤ b := by
  rw [vset_get]; split
  · exact hx
  · exact h i

theorem clearRetest_le (st : Step) (v : Vector Nat 8) {b : Nat} (h : ∀ t : Fin 8, v[t] ≤ b) (t : Fin 8) :
    (clearRetest st v)[t] ≤ b := by
  unfold clearRetest
  generalize List.finRange 8 = l
  induction l generalizing v with
  | nil => exact h t
  | cons a l ih =>
    rw [List.foldl_cons]
    refine ih _ fun i => ?_
    split
    · exact vset_le h (Nat.zero_le _) _ _
    · exact h i

theorem sat24_le (a b : Nat) : sat24 a b ≤ Config.max24 := Nat.min_le_left _ _

theorem Run.passClosed_bounded {x : Run} (h : x.bounded) : x.passClosed.bounded := by
  obtain ⟨h1, h2, h3, h4, h5, h6, h7, h8, h9, h10, h11, h12⟩ := h
  unfold Run.passClosed
  split
  · exact ⟨h1, h2, h3, h4, h5, h6, h7, h8, h9, h10, h11, h12⟩
  · exact ⟨h1, h2, h3, h4, h5, h6, Nat.zero_le _, sat24_le _ _, h9, h10, h11, h12⟩

/-- The step that a lot is at is within the ranges of its route (Step.none has no retest). -/
theorem stepOf_maxRetest {s : State} (h : s.tablesOk) (x : Lot) : (stepOf s x).maxRetest ≤ 3 := by
  unfold stepOf
  rw [List.getD_eq_getElem?_getD]
  rcases e : (s.route x.route).steps[x.step]? with _ | st
  · simp [Step.none]
  · exact ((h.1 x.route).2 st (List.mem_of_getElem? e)).2.2.2.2.2.2.2.2

theorem Acts.passClose (r : RunIx) (s : State) : Acts s (passClose r s) := by
  unfold Machine.passClose
  dsimp only
  split
  · next hp =>
    refine Acts.trans ?_ (.sendOrder _ _ _ _)
    refine .setRun _ _ _ fun ht hb => ?_
    obtain ⟨h1, h2, h3, h4, h5, h6, h7, h8, h9, h10, h11, h12⟩ := Run.passClosed_bounded hb
    have := stepOf_maxRetest ht (lotOfRun s r)
    exact ⟨h1, h2, h3, h4, h5, clearRetest_le _ _ h6, outstandingOf_le _, h8, h9, h10, h11,
      by have h := hp.1; simp only [stepOfRun] at h ⊢; omega⟩
  · refine (Acts.sendOrder _ _ _ _).trans (Acts.trans (.setRun _ _ _ fun _ hb => ?_) (.armRunDeadline _ _ _ _))
    rw [sendOrder_run] at hb
    exact Run.passClosed_bounded hb

theorem Acts.targetReport (r : RunIx) (s : State) : Acts s (targetReport r s) := by
  unfold Machine.targetReport
  split
  · exact (Acts.cancelRunDeadline _ _ _).trans (.passClose _ _)
  · exact .modRun _ _ _ fun _ h => h
  · exact .modRun _ _ _ fun _ h => h
  all_goals exact .refl _

theorem Acts.lotReachesTesting (l : LotSlot) (s : State) : Acts s (lotReachesTesting l s) := by
  refine .modLot_eq _ _ _ (hs := ?_)
  dsimp only
  split
  · rename_i h; rw [h]; exact .inr ⟨rfl, rfl⟩
  · exact .inl rfl

theorem Acts.startRun (c : CellIx) (r : RunIx) (s : State) : Acts s (startRun c r s) :=
  ((Acts.sendBoth _ _ _).trans (.enterCell _ _ _ _)).trans
    ((Acts.modRun _ _ _ fun _ h => h).trans (.lotReachesTesting _ _))

theorem Acts.resumeClosing (r : RunIx) (s : State) : Acts s (resumeClosing r s) := by
  unfold Machine.resumeClosing
  dsimp only
  split
  · exact .refl _
  · split
    · exact .passClose _ _
    · split
      · exact .refl _
      · exact .armRunDeadline _ _ _ _

theorem Acts.resumeRun (c : CellIx) (r : RunIx) (s : State) : Acts s (resumeRun c r s) :=
  ((Acts.sendBoth _ _ _).trans (.enterCell _ _ _ _)).trans
    ((Acts.modRun _ _ _ fun _ h => h).trans (.resumeClosing _ _))

theorem Acts.freeRun (r : RunIx) (s : State) : Acts s (freeRun r s) :=
  (Acts.setRun s r .free fun _ _ => Run.free_bounded).trans
    (.modCell_eq (s.run r).cell (fun k => k.forget r) _)

/-! ## PRP (Prep.lean) -/

theorem Acts.beginChangeover (c : CellIx) (st : Step) (s : State) : Acts s (beginChangeover c st s) :=
  (((Acts.modCell _ _ _ (Cell.modPrep_acts _ _)).trans (.sendOrder _ _ _ _)).trans
    (.modCell _ _ _ (Cell.armStage_acts _ _ _ _))).trans (.enterCell _ _ _ _)

theorem Acts.beginLoading (c : CellIx) (st : Step) (s : State) : Acts s (beginLoading c st s) :=
  (((Acts.modCell_eq c (fun k => { k.modPrep (fun p => { p with stage := .loading }) with
      lastLoad := some { id := st.programId, revision := st.revision, checksum := st.checksum } }) s).trans (.sendOrder _ _ _ _)).trans
    (.modCell _ _ _ (Cell.armStage_acts _ _ _ _))).trans (.enterCell _ _ _ _)

theorem Acts.beginGolden (c : CellIx) (st : Step) (s : State) : Acts s (beginGolden c st s) :=
  (((Acts.modCell _ _ _ (Cell.modPrep_acts _ _)).trans (.sendBoth _ _ _)).trans
    (.modCell _ _ _ (Cell.armStage_acts _ _ _ _))).trans (.enterCell _ _ _ _)

theorem Acts.endForTarget (c : CellIx) (r : RunIx) (s : State) : Acts s (endForTarget c r s) := by
  unfold Machine.endForTarget
  refine (Acts.modCell _ c (fun k => k.dropPrep s.timer) (Cell.dropPrep_acts _ _)).trans ?_
  dsimp only
  split
  · exact .startRun _ _ _
  · exact .resumeRun _ _ _
  · exact .resumeRun _ _ _
  · split
    · exact .enterCell _ _ _ _
    · exact .resumeRun _ _ _
  · split
    · exact (Acts.modCell_eq _ _ _).trans
        (.enterCell _ _ _ _)
    · exact .resumeRun _ _ _
  · exact .enterCell _ _ _ _
  · exact .refl _

theorem Acts.chooseStage (c : CellIx) (r : RunIx) (s : State) : Acts s (chooseStage c r s) := by
  unfold Machine.chooseStage
  dsimp only
  split
  · exact .refl _
  · split
    · exact .beginChangeover _ _ _
    · split
      · exact .beginLoading _ _ _
      · split
        · exact .beginGolden _ _ _
        · exact .endForTarget _ _ _

theorem Acts.prepBegin (c : CellIx) (r : RunIx) (o : Origin) (s : State) : Acts s (prepBegin c r o s) :=
  (Acts.modCell_eq _ _ _).trans (.chooseStage _ _ _)

theorem Acts.discardPrep (c : CellIx) (failed : Bool) (s : State) : Acts s (discardPrep c failed s) := by
  unfold Machine.discardPrep
  split
  · exact .refl _
  · refine (Acts.modCell _ c (fun k => k.cancelStage) (Cell.cancelStage_acts _)).trans ?_
    dsimp only
    split
    · exact ((Acts.modCell_eq c (fun k => { k with golden := ⟨0, .aborted, s.floorClock⟩ }) _).trans
        (.postNotice _ _)).trans (.modCell _ _ _ (Cell.dropPrep_acts _ _))
    · exact .modCell _ _ _ (Cell.dropPrep_acts _ _)

end Sys2Proof.Machine
end

