-- ==== Sys2Proof/Laws/Work.lean ====
section
/-! SUPPORT. Each shared operation of DSP and CEL makes of a state only what `Acts` allows; the queue's operations keep
the queue's members, and its order by the keys of R114. -/

-- One theorem at a time: in the package as one text, a thread for each would not fit in memory.
set_option Elab.async false

namespace Sys2Proof.Machine

/-! ## The queue (Queue.lean) -/

theorem placeIn_perm (s : State) (l : LotSlot) (q : List LotSlot) : (placeIn s l q).Perm (l :: q) := by
  induction q with
  | nil => exact .refl _
  | cons a q ih =>
    unfold placeIn
    split
    · exact .refl _
    · exact (ih.cons a).trans (.swap _ _ _)

/-- A change of the queue alone that keeps it free of repeats. -/
theorem Acts.setQueue (s : State) (q : List LotSlot) (h : s.queue.Nodup → q.Nodup) :
    Acts s { s with queue := q } :=
  ⟨rfl, rfl, rfl, rfl, rfl, rfl, rfl, rfl, rfl, fun _ => .refl _, fun _ => .refl _, id, id, id, fun _ => id, id,
    fun k => ⟨h k.1, k.2⟩⟩

theorem Acts.queueRemove (l : LotSlot) (s : State) : Acts s (queueRemove l s) := .setQueue _ _ fun h => h.filter _

theorem Acts.queueInsert {l : LotSlot} {s : State} (h : l ∉ s.queue) : Acts s (queueInsert l s) :=
  .setQueue _ _ fun k => (placeIn_perm s l s.queue).nodup_iff.2 (List.nodup_cons.2 ⟨h, k⟩)

theorem Acts.queueMove (l : LotSlot) (s : State) : Acts s (queueMove l s) :=
  (Acts.queueRemove l s).trans (.queueInsert (by simp [Machine.queueRemove]))

@[simp] theorem renumberFrom_nil (n : Nat) (s : State) : renumberFrom n [] s = s := rfl

/-- What renumbering leaves alone: everything but queue sequences. -/
theorem renumberFrom_rest (n : Nat) (q : List LotSlot) (s : State) :
    renumberFrom n q s = { s with lots := (renumberFrom n q s).lots } := by
  induction q generalizing n s with
  | nil => rfl
  | cons a q ih => unfold renumberFrom; rw [ih]; rfl

/-- Renumbering changes queue sequences alone, each to one below `b` or left. -/
theorem renumberFrom_lot (b n : Nat) (q : List LotSlot) (s : State) (hb : n + q.length ≤ b) (l : LotSlot) :
    ∃ m, (renumberFrom n q s).lot l = { s.lot l with queueSeq := m } ∧ (m < b ∨ m = (s.lot l).queueSeq) := by
  induction q generalizing n s with
  | nil => exact ⟨_, rfl, .inr rfl⟩
  | cons a q ih =>
    unfold renumberFrom
    rw [List.length_cons] at hb
    obtain ⟨m, h1, h2⟩ := ih (n + 1) (s.modLot a fun x => { x with queueSeq := n }) (by omega)
    refine ⟨m, ?_, ?_⟩
    · rw [h1]
      by_cases e : a = l
      · subst e; simp
      · simp [modLot_lot_ne s _ e]
    · by_cases e : a = l
      · subst e
        rcases h2 with h2 | h2
        · exact .inl h2
        · simp at h2; exact .inl (by omega)
      · simpa [modLot_lot_ne s _ e] using h2

theorem queueOk_length {s : State} (h : s.queueOk) : s.queue.length ≤ 256 := by
  have := h.1.length_le_card
  simpa using this

/-- A change of the counter and of queue sequences alone. -/
theorem Acts.ofSeq {s t : State} (h : ∃ v n, t = { s with lots := v, seqCounter := n })
    (hl : ∀ l, ∃ m, t.lot l = { s.lot l with queueSeq := m }) (hq : s.queueOk → t.queueOk) : Acts s t := by
  obtain ⟨v, n, rfl⟩ := h
  refine ⟨rfl, rfl, rfl, rfl, rfl, rfl, rfl, rfl, rfl, fun l => ?_, fun _ => .refl _, id, id, fun k l => ?_,
    fun _ k => ⟨fun l => ?_, k.2⟩, id, hq⟩
  all_goals
    obtain ⟨m, e⟩ := hl l
    rw [e]
  · exact ⟨rfl, rfl, rfl, rfl, rfl, le_refl _, .inl rfl⟩
  · exact k l
  · exact k.1 l

theorem Acts.renumberQueue (s : State) : Acts s (renumberQueue s) := by
  unfold Machine.renumberQueue
  refine .ofSeq ⟨(renumberFrom 0 s.queue s).lots, s.queue.length, by rw [renumberFrom_rest]⟩ (fun l => ?_) fun h => ?_
  · obtain ⟨m, h, _⟩ := renumberFrom_lot _ 0 s.queue s (le_refl _) l
    exact ⟨m, h⟩
  · have hn := queueOk_length h
    refine ⟨?_, ?_, fun l => ?_⟩
    · rw [renumberFrom_rest]; exact h.1
    · simp only [Config.maxSequence]; omega
    · obtain ⟨m, e, k⟩ := renumberFrom_lot 256 0 s.queue s (by omega) l
      have hl := h.2.2 l
      change ((renumberFrom 0 s.queue s).lot l).queueSeq < _
      rw [e]
      simp only [Config.maxSequence] at hl ⊢
      omega

theorem Acts.takeSequence (l : LotSlot) (s : State) : Acts s (takeSequence l s) := by
  unfold Machine.takeSequence
  dsimp only
  have key : ∀ u : State, (u.queueOk → u.seqCounter < Config.maxSequence) →
      Acts u { u.modLot l fun x => { x with queueSeq := u.seqCounter } with seqCounter := u.seqCounter + 1 } := by
    intro u hu
    have hlot : ∀ i, ∃ m, (u.modLot l fun x => { x with queueSeq := u.seqCounter }).lot i
        = { u.lot i with queueSeq := m } ∧ (m = u.seqCounter ∨ m = (u.lot i).queueSeq) := fun i => by
      by_cases e : l = i
      · subst e; exact ⟨_, by simp, .inl rfl⟩
      · exact ⟨_, modLot_lot_ne u _ e, .inr rfl⟩
    refine .ofSeq ⟨_, _, rfl⟩ (fun i => ?_) fun h => ⟨h.1, hu h, fun i => ?_⟩
    · obtain ⟨m, e, _⟩ := hlot i
      exact ⟨m, e⟩
    · obtain ⟨m, e, k⟩ := hlot i
      have h1 := h.2.2 i
      have h2 := hu h
      change ((u.modLot l fun x => { x with queueSeq := u.seqCounter }).lot i).queueSeq < _
      rw [e]
      rcases k with k | k <;> simp only <;> omega
  split
  · next h => exact key s fun _ => h
  · refine (Acts.renumberQueue s).trans (key _ fun h => ?_)
    have := queueOk_length h
    have e : (Machine.renumberQueue s).queue = s.queue := by
      unfold Machine.renumberQueue; rw [renumberFrom_rest]
    rw [e] at this
    change s.queue.length < _
    simp only [Config.maxSequence]; omega

/-! ## Assignment, matches and preemption (Queue.lean) -/

theorem Acts.bindRun (l : LotSlot) (c : CellIx) (r : RunIx) (p : RunPlace) (reserve : Bool) (s : State) :
    Acts s (bindRun l c r p reserve s) := by
  unfold Machine.bindRun
  dsimp only
  have h1 : Acts s (s.setRun r { Run.free with lot := l, pos := p, cell := c, state := .assigned }) :=
    .setRun _ _ _ fun _ _ => Run.free_bounded
  have h2 : ∀ u : State, Acts u (u.modLot l fun x =>
      { x with toAssign := x.toAssign - 1, runs := vset x.runs p (.run r) }) := fun u => .modLot_eq _ _ _
  have h3 : ∀ u : State, Acts u (u.modCell c fun k =>
      if reserve then { k with reserved := some r } else { k with current := some r }) := fun u =>
    .modCell_eq _ _ _ fun k => by 
      cases reserve <;> exact ⟨rfl, rfl, rfl, rfl, rfl, rfl, rfl, rfl, rfl, rfl, rfl, rfl, rfl, rfl, rfl⟩
  refine .ite (fun _ => ?_) fun _ => ?_
  · refine Acts.trans ?_ (.queueRemove _ _)
    refine Acts.trans ?_ (.postNotice _ _)
    exact (h1.trans (h2 _)).trans (h3 _)
  · refine Acts.trans ?_ (.postNotice _ _)
    exact (h1.trans (h2 _)).trans (h3 _)

theorem Acts.assignRun (l : LotSlot) (c : CellIx) (s : State) : Acts s (assignRun l c s) := by
  unfold Machine.assignRun
  split
  · exact (Acts.bindRun _ _ _ _ _ _).trans (.prepBegin _ _ _ _)
  · exact .refl _

theorem Acts.reserveRun (l : LotSlot) (c : CellIx) (s : State) : Acts s (reserveRun l c s) := by
  unfold Machine.reserveRun
  split
  · exact ((Acts.bindRun _ _ _ _ _ _).trans (.sendOrder _ _ _ _)).trans (.enterCell _ _ _ _)
  · exact .refl _

theorem Acts.matchRounds (n : Nat) (l : LotSlot) (s : State) : Acts s (matchRounds n l s) := by
  induction n generalizing s with
  | zero => exact .refl _
  | succ n ih =>
    unfold Machine.matchRounds
    split
    · exact .refl _
    · split
      · exact .refl _
      · exact (Acts.assignRun _ _ _).trans (ih _)

theorem Acts.searchRounds (n : Nat) (l : LotSlot) (s : State) : Acts s (searchRounds n l s) := by
  induction n generalizing s with
  | zero => exact .refl _
  | succ n ih =>
    unfold Machine.searchRounds
    split
    · exact .refl _
    · split
      · exact .refl _
      · exact (Acts.reserveRun _ _ _).trans (ih _)

theorem Acts.matchLot (l : LotSlot) (s : State) : Acts s (matchLot l s) := .matchRounds _ _ _

theorem Acts.preemptSearch (l : LotSlot) (s : State) : Acts s (preemptSearch l s) := by
  unfold Machine.preemptSearch
  split
  · exact .searchRounds _ _ _
  · exact .refl _

theorem Acts.matchCell (c : CellIx) (s : State) : Acts s (matchCell c s) := by
  unfold Machine.matchCell
  split
  · split
    · exact .assignRun _ _ _
    · exact .refl _
  · exact .refl _

theorem Acts.ageLot (l : LotSlot) (s : State) : Acts s (ageLot l s) := .modLot_eq _ _ _

theorem Acts.ageAtEntry (l : LotSlot) (s : State) : Acts s (ageAtEntry l s) := by
  unfold Machine.ageAtEntry
  split
  · exact (Acts.ageLot _ _).trans (.queueMove _ _)
  · exact .refl _

theorem Acts.enterQueue {l : LotSlot} {s : State} (h : l ∉ s.queue) : Acts s (enterQueue l s) :=
  (((Acts.queueInsert h).trans (.ageAtEntry _ _)).trans (.matchLot _ _)).trans (.preemptSearch _ _)

theorem Acts.queueTest (l : LotSlot) (s : State) : Acts s (queueTest l s) := by
  unfold Machine.queueTest
  split
  · split
    · exact .refl _
    · exact .queueRemove _ _
  · next h =>
    split
    · exact .enterQueue (by simpa using h)
    · exact .refl _

/-! ## CEL (Cells.lean) -/

theorem Acts.goIdle (c : CellIx) (s : State) : Acts s (goIdle c s) := by
  unfold Machine.goIdle
  refine (Acts.enterCell c .idle none s).trans ?_
  dsimp only
  split
  · refine Acts.trans ?_ (.matchCell _ _)
    refine Acts.trans ?_ (.postNotice _ _)
    exact .modCell_eq _ _ _
  · exact .matchCell _ _

theorem Acts.popOrIdle (c : CellIx) (s : State) : Acts s (popOrIdle c s) := by
  unfold Machine.popOrIdle
  split
  · exact .goIdle _ _
  · split
    · exact .enterCell _ _ _ _
    · refine Acts.trans ?_ (.prepBegin _ _ _ _)
      exact .modCell_eq _ _ _

theorem Acts.nextStage (c : CellIx) (s : State) : Acts s (nextStage c s) := by
  unfold Machine.nextStage
  split
  · exact .refl _
  · split
    · exact .chooseStage _ _ _
    · exact (Acts.modCell _ _ _ (Cell.dropPrep_acts _ _)).trans (.popOrIdle _ _)

theorem Acts.heldTest (l : LotSlot) (s : State) : Acts s (heldTest l s) := by
  unfold Machine.heldTest
  dsimp only
  split
  · next h => exact .modLot_eq _ _ _ (hs := .inr ⟨by rcases h.1 with e | e <;> rw [e] <;> rfl, rfl⟩)
  · exact .refl _

theorem Acts.withdraw (r : RunIx) (s : State) : Acts s (withdraw r s) :=
  (((Acts.freeRun r s).trans (.modLot_eq (s.run r).lot (fun x => x.returned (s.run r).pos) _)).trans
    (.heldTest _ _)).trans (.queueTest _ _)

theorem Acts.vacate (r : RunIx) (s : State) : Acts s (vacate r s) := by
  unfold Machine.vacate
  refine (Acts.freeRun r s).trans ?_
  dsimp only
  split
  · split
    · exact .popOrIdle _ _
    · exact .popOrIdle _ _
    · split
      · refine Acts.trans ?_ (.prepBegin _ _ _ _)
        exact .modCell_eq _ _ _
      · exact .popOrIdle _ _
    all_goals exact .refl _
  · split
    · exact .popOrIdle _ _
    · exact .refl _

theorem Acts.withdrawCurrent (c : CellIx) (s : State) : Acts s (withdrawCurrent c s) := by
  unfold Machine.withdrawCurrent
  split
  · split
    · exact .withdraw _ _
    · exact .refl _
  · exact .refl _

theorem Acts.withdrawReserved (c : CellIx) (s : State) : Acts s (withdrawReserved c s) := by
  unfold Machine.withdrawReserved
  split
  · exact .withdraw _ _
  · exact .refl _

theorem Acts.interrupt (c : CellIx) (failed : Bool) (s : State) : Acts s (interrupt c failed s) :=
  (((Acts.discardPrep c failed s).trans (.modCell_eq c (fun k => { k with goldenValid := false }) _)).trans
    (.withdrawCurrent _ _)).trans (.withdrawReserved _ _)

theorem Acts.enterMarked (c : CellIx) (st : CellState) (cause : Option Cause) (s : State) :
    Acts s (enterMarked c st cause s) :=
  (Acts.enterCell c st cause s).trans (.modCell_eq c (fun k => { k with changed := true }) _)

theorem Acts.enterQuarantined (c : CellIx) (cause : Cause) (failed : Bool) (s : State) :
    Acts s (enterQuarantined c cause failed s) :=
  ((Acts.enterMarked _ _ _ _).trans (.interrupt _ _ _)).trans (.postNotice _ _)

theorem Acts.enterDown (c : CellIx) (cause : Cause) (s : State) : Acts s (enterDown c cause s) := by
  unfold Machine.enterDown
  have h : Acts s (s.modCell c fun k => { k with downCount := satAdd 15 (s.cell c).downCount 1 }) :=
    .modCell _ _ _ ⟨⟨rfl, rfl, rfl, rfl, rfl, rfl, rfl, rfl, rfl, rfl, rfl, rfl, rfl⟩,
      fun h => ⟨Nat.min_le_left _ _, h.2⟩⟩
  refine h.trans ?_
  dsimp only
  split
  · exact .enterQuarantined _ _ _ _
  · refine Acts.trans ?_ (.postNotice _ _)
    split
    · refine Acts.trans ?_ (.modCell_eq _ Cell.silenced _)
      exact (Acts.enterMarked _ _ _ _).trans (.interrupt _ _ _)
    · exact (Acts.enterMarked _ _ _ _).trans (.interrupt _ _ _)

theorem Acts.enterStopped (c : CellIx) (s : State) : Acts s (enterStopped c s) := by
  unfold Machine.enterStopped
  refine (Acts.enterCell c .stopped none s).trans ?_
  dsimp only
  split
  · split
    · exact .prepBegin _ _ _ _
    · exact .refl _
  · exact .refl _

theorem Acts.recover (c : CellIx) (o : Origin) (s : State) : Acts s (recover c o s) := by
  unfold Machine.recover
  refine (Acts.modCell_eq c (fun k => { k with cause := none }) s).trans ?_
  dsimp only
  split
  · exact .popOrIdle _ _
  · split
    · exact .enterStopped _ _
    · exact .enterCell _ _ _ _
    · exact .prepBegin _ _ _ _
    · exact .prepBegin _ _ _ _
    · exact .prepBegin _ _ _ _
    all_goals exact .refl _

end Sys2Proof.Machine
end

