-- ==== Sys2Proof/Laws/Lots.lean ====
section
/-! SUPPORT. Each shared operation of LOT and TDA makes of a state only what `Acts` allows. -/

-- One theorem at a time: in the package as one text, a thread for each would not fit in memory.
set_option Elab.async false

namespace Sys2Proof.Machine

/-! ## Stopping (R9, R138) -/

theorem Acts.stopRun (r : RunIx) (s : State) : Acts s (stopRun r s) := by
  unfold Machine.stopRun
  dsimp only
  have h1 : Acts s ((Machine.sendOrder (s.run r).cell .handler .stop s).modRun r fun x =>
      { x with state := .stopped, stoppedFrom := some (s.run r).state.parkedFrom }) :=
    (Acts.sendOrder _ _ _ _).trans (.modRun _ _ _ fun _ h => h)
  by_cases hc : (s.run r).state = .closing
  all_goals
    simp only [hc, if_true, if_false]
    split
    · refine Acts.trans ?_ (.enterCell _ _ _ _)
      first | exact h1 | exact (hc ▸ h1).trans (.cancelRunDeadline _ _ _)
    · refine Acts.trans ?_ (.withdrawReserved _ _)
      refine Acts.trans ?_ (.enterCell _ _ _ _)
      first | exact h1 | exact (hc ▸ h1).trans (.cancelRunDeadline _ _ _)
    all_goals first | exact h1 | exact (hc ▸ h1).trans (.cancelRunDeadline _ _ _)

theorem Acts.stopOpen (r : RunIx) (s : State) : Acts s (stopOpen r s) :=
  .ite (fun _ => .stopRun _ _) fun _ => .ite (fun _ => .withdraw _ _) fun _ => .refl _

theorem Acts.finishOpen (r : RunIx) (s : State) : Acts s (finishOpen r s) :=
  .ite (fun _ => .withdraw _ _) fun _ => .refl _

theorem Acts.stopStarted (r : RunIx) (s : State) : Acts s (stopStarted r s) :=
  .ite (fun _ => .stopRun _ _) fun _ => .refl _

theorem Acts.eachOpen (l : LotSlot) (skip : Option RunIx) {f : RunIx → State → State} (hf : ∀ r s, Acts s (f r s))
    (s : State) : Acts s (eachOpen l skip f s) := by
  unfold Machine.eachOpen
  generalize places = ps
  induction ps generalizing s with
  | nil => exact .refl _
  | cons p ps ih =>
    rw [List.foldl_cons]
    refine Acts.trans ?_ (ih _)
    split
    · exact .ite (fun _ => .refl _) fun _ => hf _ _
    · exact .refl _

theorem Acts.policyEffect (l : LotSlot) (pos : Option RunPlace) (p : Policy) (skip : Option RunIx) (s : State) :
    Acts s (policyEffect l pos p skip s) := by
  unfold Machine.policyEffect
  split
  · exact .refl _
  · exact .eachOpen _ _ Acts.stopOpen _
  · exact .eachOpen _ _ Acts.finishOpen _
  · exact .refl _
  · split
    · exact .ite (fun _ => .refl _) fun _ => .stopStarted _ _
    · exact .refl _

/-! ## Raising a hold (R7, R8) -/

theorem Hold.is_iff (h : Hold) (k : HoldKind) (pos : Option RunPlace) :
    h.is k pos = true ↔ h.kind = k ∧ h.pos = pos := by
  simp [Hold.is]

theorem Hold.refreshed_kind (h : Hold) (t : FloorTime) (v : Option Nat) (g : Policy) :
    (h.refreshed t v g).kind = h.kind := rfl

theorem Hold.refreshed_pos (h : Hold) (t : FloorTime) (v : Option Nat) (g : Policy) :
    (h.refreshed t v g).pos = h.pos := rfl

theorem holdsOk_map {x y : Lot} (f : Hold → Hold) (hk : ∀ h, (f h).kind = h.kind) (hp : ∀ h, (f h).pos = h.pos)
    (e : y.holds = x.holds.map f) (h : x.holdsOk) : y.holdsOk := by
  refine ⟨?_, ?_⟩
  · rw [e, List.pairwise_map]
    exact h.1.imp fun {a b} k => by rw [hk, hk, hp, hp]; exact k
  · rw [e]
    intro a ha
    obtain ⟨b, hb, rfl⟩ := List.mem_map.1 ha
    rw [hk, hp]
    exact h.2 b hb

theorem holdsOk_filter {x y : Lot} (p : Hold → Bool) (e : y.holds = x.holds.filter p) (h : x.holdsOk) : y.holdsOk :=
  ⟨by rw [e]; exact h.1.filter _, by rw [e]; exact fun a ha => h.2 a (List.mem_filter.1 ha).1⟩

theorem Acts.refreshHold (l : LotSlot) (k : HoldKind) (pos : Option RunPlace) (v : Option Nat) (g : Policy) (s : State) :
    Acts s (refreshHold l k pos v g s) := by
  refine .modLot _ _ _ ⟨⟨rfl, rfl, rfl, rfl, rfl, le_refl _, .inl rfl⟩, ?_, id, id⟩
  refine holdsOk_map _ (fun h => ?_) (fun h => ?_) rfl <;> split <;> rfl

theorem Acts.addHold {l : LotSlot} {k : HoldKind} {pos : Option RunPlace} (v : Option Nat) (g : Policy)
    (skip : Option RunIx) {s : State} (hk : pos.isNone = k.isLot) (hn : (s.lot l).holdsKind k pos = false) :
    Acts s (addHold l k pos v g skip s) := by
  unfold Machine.addHold
  dsimp only
  have h1 : ∀ h : Hold, h.kind = k → h.pos = pos →
      Acts s (s.setLot l { s.lot l with holds := (s.lot l).holds ++ [h] }) := fun h e1 e2 => by
    refine .setLot _ _ _ ⟨⟨rfl, rfl, rfl, rfl, rfl, le_refl _, .inl rfl⟩, fun ho => ⟨?_, ?_⟩, id, id⟩
    · refine List.pairwise_append.2 ⟨ho.1, List.pairwise_singleton _ _, fun a ha b hb => ?_⟩
      rw [List.mem_singleton] at hb
      subst hb
      rw [Lot.holdsKind, List.any_eq_false] at hn
      have := hn a ha
      rw [Hold.is_iff, ← e1, ← e2] at this
      by_contra hc
      push Not at hc
      exact this hc
    · intro a ha
      rcases List.mem_append.1 ha with ha | ha
      · exact ho.2 a ha
      · rw [List.mem_singleton] at ha
        subst ha
        rw [e1, e2, hk]
  refine .ite (fun hf => ?_) fun _ => ?_
  · have h2 := ((((h1 ⟨k, pos, policyFor (limitsOf s (s.lot l)) g k, (s.lot l).step, s.floorClock, v⟩ rfl
      rfl).trans (.postNotice (.holdRaised (s.lot l).tag k pos
        (policyFor (limitsOf s (s.lot l)) g k) v) _)).trans (.policyEffect l pos (policyFor (limitsOf s (s.lot l)) g k) skip _)).trans
        (.queueTest l _)).trans (.heldTest l _)
    refine h2.trans (.modLot_eq _ _ _ (hs := .inr ⟨?_, rfl⟩))
    rcases (h2.lots l).state with e | e
    · rw [e, hf]; rfl
    · exact e.2
  · refine Acts.trans ?_ (.heldTest _ _)
    refine Acts.trans ?_ (.queueTest _ _)
    refine Acts.trans ?_ (.policyEffect _ _ _ _ _)
    refine Acts.trans ?_ (.postNotice _ _)
    exact h1 _ rfl rfl

theorem Acts.raiseHold (l : LotSlot) (k : HoldKind) (pos : Option RunPlace) (v : Option Nat) (g : Policy)
    (skip : Option RunIx) (s : State) (hk : pos.isNone = k.isLot) : Acts s (raiseHold l k pos v g skip s) :=
  .ite (fun _ => .ite (fun _ => .refreshHold _ _ _ _ _ _) fun h => .addHold _ _ _ hk (by simpa using h))
    fun _ => .refl _

theorem Acts.raiseOnRun (r : RunIx) (k : HoldKind) (v : Option Nat) (s : State) (hk : k.isLot = false) :
    Acts s (raiseOnRun r k v s) := .raiseHold _ _ _ _ _ _ _ (by rw [hk]; rfl)

theorem Acts.raiseOnLot (l : LotSlot) (k : HoldKind) (v : Option Nat) (s : State) (hk : k.isLot = true) :
    Acts s (raiseOnLot l k v s) := .raiseHold _ _ _ _ _ _ _ (by rw [hk]; rfl)

/-! ## The advance and the close (R18 to R21, R149, R152) -/

theorem vget_replicate {α : Type} (n : Nat) (x : α) (i : Fin n) : (Vector.replicate n x)[i] = x := by simp

theorem vget_ofFn {α : Type} {n : Nat} (f : Fin n → α) (i : Fin n) : (Vector.ofFn f)[i] = f i := by simp

theorem StepFigures.zero_bounded : StepFigures.zero.bounded :=
  ⟨by decide, by decide, fun h => by simp [StepFigures.zero], by decide, by decide, fun g => by simp [StepFigures.zero]⟩

theorem StepFigures.withRun_bounded {f : StepFigures} (st : Step) (run : Run) (h : f.bounded) :
    (f.withRun st run).bounded :=
  ⟨h.1, h.2.1, h.2.2.1, sat24_le _ _, sat24_le _ _, fun g => by
    simp only [StepFigures.withRun]; rw [vget_ofFn]; exact sat24_le _ _⟩

theorem LotState.counted_of_inWork {x : LotState} (h : x.inWork = true) : x.counted = true := by
  cases x <;> first | rfl | cases h

theorem Acts.advance {l : LotSlot} {s : State} (hw : (s.lot l).state.inWork = true) : Acts s (advance l s) := by
  have hc := LotState.counted_of_inWork hw
  unfold Machine.advance
  dsimp only
  refine .ite (fun _ => ?_) fun _ => ?_
  · refine Acts.trans ?_ (.queueTest _ _)
    refine Acts.trans ?_ (.takeSequence _ _)
    refine Acts.trans (.postNotice _ _) (.setLot _ _ _ ?_)
    rw [postNotice_lot]
    exact ⟨⟨rfl, rfl, rfl, rfl, rfl, Nat.le_succ _, .inr ⟨hc, rfl⟩⟩, fun h => h, fun _ => StepFigures.zero_bounded, fun h => h⟩
  · have h : ∀ u : State, u.lot l = s.lot l → Acts u (u.setLot l (s.lot l).routeEnd) := fun u e =>
      .setLot _ _ _ (by
        rw [e]
        exact .of_eq rfl rfl rfl rfl rfl rfl rfl rfl rfl (.inr ⟨hc, by simp only [Lot.routeEnd]; split <;> rfl⟩))
    refine .ite (fun _ => ?_) fun _ => ?_
    · refine Acts.trans ?_ (.postNotice _ _)
      exact Acts.trans (.postNotice _ _) (h _ (by simp))
    · exact Acts.trans (.postNotice _ _) (h _ (by simp))

theorem Acts.stepOutcome (l : LotSlot) (s : State) : Acts s (stepOutcome l s) :=
  .ite (fun _ => .refl _) fun h => by
    have hw : (s.lot l).state.inWork = true := by simpa using h
    exact .ite (fun _ => .modLot_eq _ _ _ (hs := .inr ⟨LotState.counted_of_inWork hw, rfl⟩)) fun _ => .advance hw

theorem Acts.closeChecks (l : LotSlot) (s : State) : Acts s (closeChecks l s) := by
  unfold Machine.closeChecks
  dsimp only
  refine Acts.trans ?_ (.stepOutcome _ _)
  refine Acts.trans ?_ (.modLot_eq _ _ _)
  have h1 : ∀ v, Acts s (if 0 < (limitsOf s (s.lot l)).yfinal ∧ 0 < (s.lot l).figures.tested
      ∧ finalYield (s.lot l).figures < (limitsOf s (s.lot l)).yfinal then Machine.raiseOnLot l .final v s else s) :=
    fun v => .ite (fun _ => .raiseOnLot _ _ _ _ rfl) fun _ => .refl _
  refine .ite (fun _ => ?_) fun _ => h1 _
  exact Acts.trans (h1 _) (.raiseOnLot _ _ _ _ rfl)

theorem Acts.reportClose (r : RunIx) (s : State) : Acts s (reportClose r s) := by
  unfold Machine.reportClose
  dsimp only
  refine Acts.trans ?_ (.heldTest _ _)
  have h1 : Acts s (s.modLot (s.run r).lot fun x => x.withClosed (stepOfRun s r) (s.run r)) :=
    .modLot _ _ _ ⟨⟨rfl, rfl, rfl, rfl, rfl, le_refl _, .inl rfl⟩, fun h => h, StepFigures.withRun_bounded _ _, fun h => h⟩
  exact .ite (fun _ => h1.trans (.closeChecks _ _)) fun _ => h1

theorem Acts.cancelDeadlines (r : RunIx) (s : State) : Acts s (cancelDeadlines r s) :=
  .ite (fun _ => (Acts.cancelRunDeadline _ _ _).trans (.cancelRunDeadline _ _ _)) fun _ => .refl _

theorem Acts.closeRun (r : RunIx) (s : State) : Acts s (closeRun r s) :=
  ((Acts.cancelDeadlines _ _).trans (.reportClose _ _)).trans (.vacate _ _)

/-! ## Releasing (R15 to R17) -/

theorem Run.released_bounded {x : Run} (k : HoldKind) (h : x.bounded) : (x.released k).bounded := by
  obtain ⟨h1, h2, h3, h4, h5, h6⟩ := h
  cases k
  case window => exact ⟨h1, h2, h3, Nat.zero_le _, by simp [Run.released], h6⟩
  case site | consec =>
    refine ⟨h1, h2, fun i => ?_, h4, h5, h6⟩
    simp [Run.released, SiteFigures.zero, SiteFigures.bounded]
  all_goals exact ⟨h1, h2, h3, h4, h5, h6⟩

theorem Acts.removeHold (l : LotSlot) (k : HoldKind) (pos : Option RunPlace) (s : State) :
    Acts s (removeHold l k pos s) := by
  unfold Machine.removeHold
  dsimp only
  have h1 : Acts s (s.modLot l fun x => { x with holds := x.holds.filter fun h => !(h.is k pos) }) :=
    .modLot _ _ _ ⟨⟨rfl, rfl, rfl, rfl, rfl, le_refl _, .inl rfl⟩, holdsOk_filter _ rfl, id, id⟩
  have h2 : ∀ u : State, Acts u (u.modLot l fun x => x.released k) := fun u =>
    .modLot_eq _ _ _ (fun x => by cases k <;> exact ⟨rfl, rfl, rfl, rfl, rfl, rfl, rfl, rfl, rfl⟩)
      (hs := .inl (by cases k <;> rfl))
  have h3 := (h1.trans (Acts.postNotice (.holdReleased (State.lot (s.modLot l fun x =>
    { x with holds := x.holds.filter fun h => !(h.is k pos) }) l).tag k pos) _)).trans (h2 _)
  split
  · exact h3
  · split
    · exact h3.trans (.modRun _ _ _ fun _ h => Run.released_bounded _ h)
    · exact h3

theorem Acts.freeOpen (r : RunIx) (s : State) : Acts s (freeOpen r s) :=
  .ite (fun _ => .refl _) fun _ => .ite (fun _ => .prepBegin _ _ _ _) fun _ =>
    .ite (fun _ => .popOrIdle _ _) fun _ => .refl _

theorem Acts.leaveHeld (l : LotSlot) (s : State) : Acts s (leaveHeld l s) :=
  .ite (fun h => .modLot_eq _ _ _ (hs := .inr ⟨by rw [h.1]; rfl, by dsimp only; split <;> rfl⟩)) fun _ => .refl _

theorem Acts.leaveStepClose (l : LotSlot) (s : State) : Acts s (leaveStepClose l s) :=
  .ite (fun h => .advance (by rw [h.1]; rfl)) fun _ => .refl _

theorem Acts.leaveRouteEnd (l : LotSlot) (s : State) : Acts s (leaveRouteEnd l s) := by
  refine .ite (fun h => ?_) fun _ => .refl _
  refine Acts.trans ?_ (.postNotice _ _)
  exact .modLot_eq _ _ _ (hs := .inr ⟨by rw [h.1]; rfl, rfl⟩)

theorem Acts.freeing (l : LotSlot) (s : State) : Acts s (freeing l s) :=
  ((((Acts.eachOpen l none Acts.freeOpen s).trans (.leaveHeld _ _)).trans (.queueTest _ _)).trans
    (.leaveStepClose _ _)).trans (.leaveRouteEnd _ _)

theorem Acts.removeIfPresent (l : LotSlot) (k : HoldKind) (p : RunPlace) (s : State) :
    Acts s (removeIfPresent l k p s) := .ite (fun _ => .removeHold _ _ _ _) fun _ => .refl _

theorem Acts.goldenRelease (r : RunIx) (s : State) : Acts s (goldenRelease r s) :=
  ((Acts.removeIfPresent _ _ _ _).trans (.removeIfPresent _ _ _ _)).trans (.freeing _ _)

/-! ## A hold on a cell's current run (R78, R106) -/

theorem Acts.raiseOnCurrent (c : CellIx) (k : HoldKind) (v : Option Nat) (s : State) (hk : k.isLot = false) :
    Acts s (raiseOnCurrent c k v s) := by
  unfold Machine.raiseOnCurrent
  split
  · exact .ite (fun _ => .raiseOnRun _ _ _ _ hk) fun _ => .refl _
  · exact .refl _

/-! ## TDA (Touchdown.lean) -/

theorem StepFigures.countFirst_bounded (st : Step) {f : StepFigures} (u : TestedUnit) (h : f.bounded) :
    (f.countFirst st u).bounded := by
  obtain ⟨h1, h2, h3, h4, h5, h6⟩ := h
  refine ⟨?_, sat24_le _ _, fun i => ?_, h4, h5, h6⟩
  · simp only [StepFigures.countFirst, sat24, satAdd]
    split <;> omega
  · have := h3 i
    simp only [StepFigures.countFirst, vmod]
    rw [vset_get]
    split
    · next e => subst e; simp only [sat24, satAdd]; omega
    · simp only [sat24, satAdd]; omega

theorem SiteFigures.counted_bounded {f : SiteFigures} (good : Bool) (h : f.bounded) : (f.counted good).bounded := by
  obtain ⟨h1, h2, h3⟩ := h
  refine ⟨?_, sat24_le _ _, ?_⟩
  · cases good <;> simp only [SiteFigures.counted, sat24, satAdd, Bool.false_eq_true, if_true, if_false] <;> omega
  · cases good <;> simp only [SiteFigures.counted, satAdd, Bool.false_eq_true, if_true, if_false] <;> omega

theorem Run.countFirst_bounded (st : Step) {x : Run} (u : TestedUnit) (h : x.bounded) :
    (x.countFirst st u).bounded := by
  obtain ⟨h1, h2, h3, h4, h5, h6, h7⟩ := h
  refine ⟨?_, sat24_le _ _, fun i => ?_, h4, h5, fun t => ?_, h7⟩
  · simp only [Run.countFirst, sat24, satAdd]
    split <;> omega
  · simp only [Run.countFirst, vmod]
    rw [vset_get]
    split
    · exact SiteFigures.counted_bounded _ (h3 _)
    · exact h3 i
  · exact vset_le h6 (sat24_le _ _) _ _

theorem Run.countRetest_bounded (st : Step) {x : Run} (u : TestedUnit) (h : x.bounded) :
    (x.countRetest st u).bounded := by
  obtain ⟨h1, h2, h3, h4, h5, h6, h7, h8, h9, h10, h11⟩ := h
  refine ⟨h1, h2, h3, h4, h5, fun t => vset_le h6 (sat24_le _ _) _ _, ?_, h8, ?_, ?_, h11⟩
  · simp only [Run.countRetest]; omega
  · simp only [Run.countRetest]; split
    · exact sat24_le _ _
    · exact h9
  · simp only [Run.countRetest]; split
    · exact sat24_le _ _
    · exact h10

theorem foldl_keeps {α β : Type} {p : α → Prop} (f : α → β → α) (hf : ∀ a b, p a → p (f a b)) (l : List β) {a : α}
    (h : p a) : p (l.foldl f a) := by
  induction l generalizing a with
  | nil => exact h
  | cons b l ih => exact ih (hf _ _ h)

end Sys2Proof.Machine
end

