-- ==== Sys2Proof/Laws/Touchdown.lean ====
section
/-! SUPPORT. The units of a touchdown (R53), and that each operation of TDA makes of a state only what `Acts` allows. -/

-- One theorem at a time: in the package as one text, a thread for each would not fit in memory.
set_option Elab.async false

namespace Sys2Proof.Machine

/-! ## Tested units (R53) -/

theorem getLsbD_twoPow_lt (a b : Nat) (h : a < 16) : (BitVec.ofNat 16 (2 ^ a)).getLsbD b = decide (a = b) := by
  have e : BitVec.ofNat 16 (2 ^ a) = BitVec.twoPow 16 a := by
    apply BitVec.eq_of_toNat_eq
    simp [BitVec.toNat_twoPow]
  rw [e, BitVec.getLsbD_twoPow]
  simp only [h, decide_true, Bool.true_and]

/-- Each tested unit stands at a site of its own that no earlier entry named. -/
theorem testedUnits_sites (n : Nat) (en seen : SiteMask) (es : List SiteEntry) :
    ((testedUnits n en seen es).map (·.site)).Nodup
      ∧ ∀ u ∈ testedUnits n en seen es, seen.getLsbD u.site.val = false := by
  induction es generalizing seen with
  | nil => exact ⟨List.nodup_nil, by simp [testedUnits]⟩
  | cons e es ih =>
    obtain ⟨h1, h2⟩ := ih (seen ||| BitVec.ofNat 16 (2 ^ e.site.toNat))
    have h3 : ∀ u ∈ testedUnits n en (seen ||| BitVec.ofNat 16 (2 ^ e.site.toNat)) es,
        seen.getLsbD u.site.val = false ∧ u.site.val ≠ e.site.toNat := fun u hu => by
      have := h2 u hu
      rw [BitVec.getLsbD_or, getLsbD_twoPow_lt _ _ e.site.isLt, Bool.or_eq_false_iff] at this
      exact ⟨this.1, fun k => by simp [k] at this⟩
    unfold testedUnits
    dsimp only
    split
    · exact ⟨h1, fun u hu => (h3 u hu).1⟩
    · next hs =>
      split
      · exact ⟨h1, fun u hu => (h3 u hu).1⟩
      · refine ⟨?_, fun u hu => ?_⟩
        · rw [List.map_cons, List.nodup_cons]
          refine ⟨fun hm => ?_, h1⟩
          obtain ⟨u, hu, he⟩ := List.mem_map.1 hm
          exact (h3 u hu).2 (congrArg Fin.val he)
        · rcases List.mem_cons.1 hu with rfl | hu
          · push Not at hs
            simpa using hs.2.2
          · exact (h3 u hu).1

/-- A touchdown has at most 16 tested units. -/
theorem testedUnits_length (n : Nat) (en seen : SiteMask) (es : List SiteEntry) :
    (testedUnits n en seen es).length ≤ 16 := by
  have := (testedUnits_sites n en seen es).1.length_le_card
  simpa using this

theorem goodUnits_le (st : Step) (us : List TestedUnit) : goodUnits st us ≤ us.length := List.countP_le_length

theorem ringAppend_length {w : Nat} (ring : List RingEntry) (e : RingEntry) : (ringAppend w ring e).length ≤ w := by
  unfold ringAppend
  rw [List.length_drop]; omega

theorem mem_ringAppend {w : Nat} {ring : List RingEntry} {e a : RingEntry} (h : a ∈ ringAppend w ring e) :
    a ∈ ring ∨ a = e := by
  have := List.mem_of_mem_drop h
  simpa using this

/-! ## Counts (R55, R56, R63, R69) -/

/-- The run after the counts of a first-pass touchdown. -/
theorem firstPass_bounded (st : Step) {w : Nat} (hw : w ≤ 32) {us : List TestedUnit} (hu : us.length ≤ 16) {x : Run}
    (h : x.bounded) :
    ({ us.foldl (Run.countFirst st) x with
        ring := if us.isEmpty then x.ring else ringAppend w x.ring ⟨us.length, goodUnits st us⟩
        sinceGolden := satAdd 65535 x.sinceGolden 1 } : Run).bounded := by
  obtain ⟨h1, h2, h3, _, _, h6, h7, h8, h9, h10, _, h12⟩ :=
    foldl_keeps (p := Run.bounded) (Run.countFirst st) (fun _ _ => Run.countFirst_bounded st _) us h
  refine ⟨h1, h2, h3, ?_, ?_, h6, h7, h8, h9, h10, Nat.min_le_left _ _, h12⟩
  · dsimp only
    split
    · exact h.2.2.2.1
    · exact (ringAppend_length _ _).trans hw
  · dsimp only
    intro a ha
    split at ha
    · exact h.2.2.2.2.1 a ha
    · next hne =>
      rcases mem_ringAppend ha with ha | rfl
      · exact h.2.2.2.2.1 a ha
      · have : us ≠ [] := by simpa using hne
        exact ⟨List.length_pos_iff.2 this, hu, goodUnits_le st us⟩

theorem Acts.countFirstPass (r : RunIx) {us : List TestedUnit} (hu : us.length ≤ 16) (s : State) :
    Acts s (countFirstPass r us s) := by
  unfold Machine.countFirstPass
  dsimp only
  refine Acts.trans (t := s.modLot (s.run r).lot fun x =>
    { x with figures := us.foldl (StepFigures.countFirst (stepOfRun s r)) x.figures }) ?_ (.modRun _ _ _ fun ht hb => ?_)
  · exact .modLot _ _ _ ⟨⟨rfl, rfl, rfl, rfl, rfl, le_refl _, .inl rfl⟩, id,
      foldl_keeps _ (fun _ _ => StepFigures.countFirst_bounded _ _) _, id⟩
  · refine firstPass_bounded _ ?_ hu hb
    exact (ht.2 _).2.2.2.2.2.2.2.2

theorem Acts.countRetestPass (r : RunIx) (us : List TestedUnit) (s : State) : Acts s (countRetestPass r us s) :=
  .modRun s r (fun x => us.foldl (Run.countRetest (stepOfRun s r)) x)
    fun _ => foldl_keeps _ (fun _ _ => Run.countRetest_bounded _ _) _

/-! ## Checks (R60 to R67) -/

theorem Acts.checkConsec (lim : LimitSet) (before : Vector SiteFigures 16) (r : RunIx) (s : State) :
    Acts s (checkConsec lim before r s) := .ite (fun _ => .raiseOnRun _ _ _ _ rfl) fun _ => .refl _

theorem Acts.checkWindow (lim : LimitSet) (a : Bool) (r : RunIx) (s : State) : Acts s (checkWindow lim a r s) :=
  .ite (fun _ => .raiseOnRun _ _ _ _ rfl) fun _ => .refl _

theorem Acts.checkSites (lim : LimitSet) (c : CellIx) (r : RunIx) (s : State) : Acts s (checkSites lim c r s) := by
  unfold Machine.checkSites
  split
  · exact .ite (fun _ => .raiseOnRun _ _ _ _ rfl) fun _ => .refl _
  · exact .refl _

theorem Acts.checkBins (lim : LimitSet) (l : LotSlot) (s : State) : Acts s (checkBins lim l s) := by
  unfold Machine.checkBins
  refine .ite (fun _ => ?_) fun _ => .refl _
  split
  · exact .raiseOnLot _ _ _ _ rfl
  · exact .refl _

theorem Acts.checkYield (lim : LimitSet) (l : LotSlot) (s : State) : Acts s (checkYield lim l s) :=
  .ite (fun _ => .raiseOnLot _ _ _ _ rfl) fun _ => .refl _

theorem Acts.checkAll (before : Vector SiteFigures 16) (a : Bool) (c : CellIx) (r : RunIx) (s : State) :
    Acts s (checkAll before a c r s) :=
  ((((Acts.checkConsec _ _ _ _).trans (.checkWindow _ _ _ _)).trans (.checkSites _ _ _ _)).trans
    (.checkBins _ _ _)).trans (.checkYield _ _ _)

theorem Acts.askGolden (c : CellIx) (r : RunIx) (s : State) : Acts s (askGolden c r s) := by
  refine .ite (fun _ => ?_) fun _ => .refl _
  refine Acts.trans ?_ (.prepBegin _ _ _ _)
  exact .modRun _ _ _ fun _ h => ⟨h.1, h.2.1, h.2.2.1, h.2.2.2.1, h.2.2.2.2.1, h.2.2.2.2.2.1, h.2.2.2.2.2.2.1,
    h.2.2.2.2.2.2.2.1, h.2.2.2.2.2.2.2.2.1, h.2.2.2.2.2.2.2.2.2.1, Nat.zero_le _, h.2.2.2.2.2.2.2.2.2.2.2⟩

theorem Acts.askTarget (q : Seq) (r : RunIx) (s : State) : Acts s (askTarget q r s) := by
  unfold Machine.askTarget
  split
  · exact .ite (fun _ => .targetReport _ _) fun _ => .refl _
  · exact .refl _

theorem Acts.countTouchdown (c : CellIx) (r : RunIx) (q : Seq) (es : List SiteEntry) (s : State) :
    Acts s (countTouchdown c r q es s) := by
  unfold Machine.countTouchdown
  dsimp only
  refine Acts.trans ?_ (.askTarget _ _ _)
  refine .ite (fun _ => ?_) fun _ => .countRetestPass _ _ _
  exact ((Acts.countFirstPass _ (testedUnits_length _ _ _ _) _).trans (.checkAll _ _ _ _ _)).trans (.askGolden _ _ _)

end Sys2Proof.Machine
end

