-- ==== Sys2Proof/Laws/Commands.lean ====
section
/-! SUPPORT. What a report or an event of the part's own clock can do at most (`Keeps`): it keeps the configuration, the
clocks, the tables, the shipments and the identity of every lot and cell, and each invariant of Safety.lean. -/

-- One theorem at a time: in the package as one text, a thread for each would not fit in memory.
set_option Elab.async false

namespace Sys2Proof.Machine

/-- What no report and no event changes of a cell. -/
structure CellConfig (x y : Cell) : Prop where
  configured : y.configured = x.configured
  tester : y.tester = x.tester
  handler : y.handler = x.handler
  cls : y.cls = x.cls

/-- What a report or an event may make of a state. -/
structure Keeps (s t : State) : Prop where
  pending : t.pending = s.pending
  phase : t.phase = s.phase
  profile : t.profile = s.profile
  floorClock : t.floorClock = s.floorClock
  timer : t.timer = s.timer
  routes : t.routes = s.routes
  limits : t.limits = s.limits
  ships : t.ships = s.ships
  stations : t.stations = s.stations
  lots : ∀ l, LotKept (s.lot l) (t.lot l)
  cells : ∀ c, CellConfig (s.cell c) (t.cell c)
  links : s.linksOk → t.linksOk
  busy : s.portsBusy → t.portsBusy
  holds : s.holdsOk → t.holdsOk
  figures : s.tablesOk → s.figuresOk → t.figuresOk
  bounded : s.cellsOk → t.cellsOk
  queue : s.queueOk → t.queueOk

theorem CellConfig.refl (x : Cell) : CellConfig x x := ⟨rfl, rfl, rfl, rfl⟩

theorem CellKept.config {x y : Cell} (h : CellKept x y) : CellConfig x y := ⟨h.configured, h.tester, h.handler, h.cls⟩

theorem CellConfig.trans {x y z : Cell} (h : CellConfig x y) (k : CellConfig y z) : CellConfig x z :=
  ⟨k.configured.trans h.configured, k.tester.trans h.tester, k.handler.trans h.handler, k.cls.trans h.cls⟩

theorem Acts.keeps {s t : State} (h : Acts s t) : Keeps s t :=
  ⟨h.pending, h.phase, h.profile, h.floorClock, h.timer, h.routes, h.limits, h.ships, h.stations, h.lots,
    fun c => (h.cells c).config, h.links, h.busy, h.holds, h.figures, h.bounded, h.queue⟩

theorem Keeps.refl (s : State) : Keeps s s := (Acts.refl s).keeps

theorem Keeps.tables {s t : State} (h : Keeps s t) (k : s.tablesOk) : t.tablesOk := by
  simpa [State.tablesOk, State.route, State.limit, h.routes, h.limits] using k

theorem Keeps.trans {s t u : State} (h : Keeps s t) (k : Keeps t u) : Keeps s u :=
  ⟨k.pending.trans h.pending, k.phase.trans h.phase, k.profile.trans h.profile, k.floorClock.trans h.floorClock,
    k.timer.trans h.timer, k.routes.trans h.routes, k.limits.trans h.limits, k.ships.trans h.ships,
    k.stations.trans h.stations, fun l => (h.lots l).trans (k.lots l), fun c => (h.cells c).trans (k.cells c),
    k.links ∘ h.links, k.busy ∘ h.busy, k.holds ∘ h.holds, fun a b => k.figures (h.tables a) (h.figures a b),
    k.bounded ∘ h.bounded, k.queue ∘ h.queue⟩

theorem Keeps.ite {p : Prop} [Decidable p] {s a b : State} (h : p → Keeps s a) (k : ¬ p → Keeps s b) :
    Keeps s (if p then a else b) := by
  split
  · exact h ‹_›
  · exact k ‹_›

/-- A change of one cell's fields other than its configuration, its counters and its accumulators. -/
theorem Keeps.modCell (c : CellIx) (f : Cell → Cell) (s : State) (h : CellConfig (s.cell c) (f (s.cell c)))
    (hb : (s.cell c).bounded → (f (s.cell c)).bounded) : Keeps s (s.modCell c f) := by
  refine ⟨rfl, rfl, rfl, rfl, rfl, rfl, rfl, rfl, rfl, fun _ => .refl _, fun d => ?_, id, id, id, fun _ => id,
    fun k d => ?_, id⟩ <;>
  · by_cases e : c = d
    · subst e
      simp only [modCell_cell]
      first
        | exact h
        | exact hb (k _)
    · simp only [modCell_cell_ne s f e]
      first
        | exact .refl _
        | exact k _

/-! ## LNK's part (R73, R167) -/

theorem Keeps.hear (c : CellIx) (role : Role) (s : State) : Keeps s (hear c role s) :=
  .modCell _ _ _ (by cases role <;> exact ⟨rfl, rfl, rfl, rfl⟩) (by cases role <;> exact id)

theorem Acts.forwardReport (i : Instr) (e : Envelope) (td : Bool) (s : State) : Acts s (forwardReport i e td s) := by
  unfold Machine.forwardReport
  split
  · exact .ite (fun _ => .forwardCF _ _) fun _ => .refl _
  · exact .refl _

theorem Keeps.takeReport (i : Instr) (e : Envelope) (td : Bool) {f : CellIx → Role → State → State}
    (hf : ∀ c role u, Keeps u (f c role u)) (s : State) : Keeps s (takeReport i e td f s) := by
  unfold Machine.takeReport
  refine .ite (fun _ => ?_) fun _ => .refl _
  refine (Acts.forwardReport i e td s).keeps.trans ?_
  dsimp only
  split
  · exact .refl _
  · split
    · exact (Keeps.hear _ _ _).trans (hf _ _ _)
    · exact .refl _

/-! ## STATE (R75, R127, R128) -/

theorem Acts.recordReport (c : CellIx) (role : Role) (rep : StationReport) (s : State) :
    Acts s (recordReport c role rep s) :=
  .modCell_eq _ _ _ fun k => by
    cases role <;> exact ⟨rfl, rfl, rfl, rfl, rfl, rfl, rfl, rfl, rfl, rfl, rfl, rfl, rfl, rfl, rfl⟩

theorem Acts.suspendRun (c : CellIx) (r h : RunIx) (s : State) : Acts s (suspendRun c r h s) := by
  unfold Machine.suspendRun
  dsimp only
  refine Acts.trans ?_ (.modCell_eq _ _ _)
  have h1 : Acts s (s.modRun r fun x => { x with state := .suspended, suspendedFrom := some (s.run r).state.parkedFrom }) :=
    .modRun _ _ _ fun _ h => h
  exact .ite (fun _ => h1.trans (.cancelRunDeadline _ _ _)) fun _ => h1

theorem Acts.pausedReport (c : CellIx) (s : State) : Acts s (pausedReport c s) := by
  unfold Machine.pausedReport
  split
  · split
    · exact ((Acts.suspendRun _ _ _ _).trans (.heldTest _ _)).trans (.prepBegin _ _ _ _)
    · exact ((Acts.suspendRun _ _ _ _).trans (.heldTest _ _)).trans (.prepBegin _ _ _ _)
    all_goals exact .refl _
  · split
    · exact .resumeRun _ _ _
    · exact .resumeRun _ _ _
    · exact .enterCell _ _ _ _
    all_goals exact .refl _
  · exact .refl _

theorem Acts.actOnReport (c : CellIx) (rep : StationReport) (s : State) : Acts s (actOnReport c rep s) := by
  unfold Machine.actOnReport
  split
  · split
    · exact .ite (fun _ => .recover _ _ _) fun _ => .refl _
    · exact .refl _
  · exact .ite (fun _ => .enterDown _ _ _) fun _ => .refl _
  · exact .ite (fun _ => .enterDown _ _ _) fun _ => .refl _
  · exact .ite (fun _ => .pausedReport _ _) fun _ => .refl _
  all_goals exact .refl _

theorem Acts.onState (code : Byte) (c : CellIx) (role : Role) (s : State) : Acts s (onState code c role s) := by
  unfold Machine.onState
  split
  · exact (Acts.recordReport _ _ _ _).trans (.actOnReport _ _ _)
  · exact .refl _

/-! ## Preparation reports (R100 to R106) -/

theorem Acts.stageDone (c : CellIx) (s : State) : Acts s (stageDone c s) :=
  (Acts.modCell s c (fun k => k.cancelStage.modPrep Prep.stageTaken)
    ⟨(Cell.cancelStage_acts _).kept.trans (Cell.modPrep_acts _ _).kept,
      fun h => (Cell.modPrep_acts _ _).bounded ((Cell.cancelStage_acts _).bounded h)⟩).trans (.nextStage _ _)

theorem clampTemp_range (t : Int) : -55 ≤ clampTemp t ∧ clampTemp t ≤ 175 := by
  unfold clampTemp
  split
  · omega
  · split <;> omega

theorem Keeps.onSetupDone (kit : Byte) (temp : BitVec 16) (c : CellIx) (role : Role) (s : State) :
    Keeps s (onSetupDone kit temp c role s) := by
  unfold Machine.onSetupDone
  split
  · exact .refl _
  · dsimp only
    have h1 : Keeps s (s.modCell c fun k => { k with kit := some kit.toNat, temp := some (clampTemp temp.toInt) }) :=
      .modCell _ _ _ ⟨rfl, rfl, rfl, rfl⟩ fun h => ⟨h.1, h.2.1, fun t ht => by
        simp only [Option.mem_def, Option.some.injEq] at ht
        exact ht ▸ clampTemp_range _⟩
    exact .ite (fun _ => .ite (fun _ => h1.trans (Acts.stageDone _ _).keeps) fun _ =>
      h1.trans (Acts.enterDown _ _ _).keeps) fun _ => h1

theorem Keeps.onLoadDone (p : Program) (c : CellIx) (role : Role) (s : State) : Keeps s (onLoadDone p c role s) := by
  unfold Machine.onLoadDone
  split
  · exact .refl _
  · dsimp only
    have h1 : Keeps s (s.modCell c fun k =>
        { k with program := if ((s.cell c).lastLoad == some p) = true then some p else none }) :=
      .modCell _ _ _ ⟨rfl, rfl, rfl, rfl⟩ id
    exact .ite (fun _ => .ite (fun _ => h1.trans (Acts.stageDone _ _).keeps) fun _ =>
      h1.trans (Acts.enterDown _ _ _).keeps) fun _ => h1

theorem Keeps.onLoadFail (c : CellIx) (role : Role) (s : State) : Keeps s (onLoadFail c role s) := by
  unfold Machine.onLoadFail
  split
  · exact .refl _
  · dsimp only
    have h1 : Keeps s (s.modCell c fun k => { k with program := none }) := .modCell _ _ _ ⟨rfl, rfl, rfl, rfl⟩ id
    exact .ite (fun _ => h1.trans (Acts.enterDown _ _ _).keeps) fun _ => h1

theorem Keeps.recordGolden (c : CellIx) (mask enabled : SiteMask) (o : GoldenOutcome) (s : State) :
    Keeps s (recordGolden c mask enabled o s) := by
  unfold Machine.recordGolden
  dsimp only
  refine Keeps.trans ?_ (Acts.postNotice _ _).keeps
  have h := Cell.cancelStage_acts (s.cell c)
  exact .modCell _ _ _ ⟨h.kept.configured, h.kept.tester, h.kept.handler, h.kept.cls⟩ fun hb => h.bounded hb

theorem Acts.goldenPass (c : CellIx) (s : State) : Acts s (goldenPass c s) := by
  unfold Machine.goldenPass
  dsimp only
  refine Acts.trans ?_ (.nextStage _ _)
  refine Acts.trans ?_ (.modCell _ _ _ (Cell.modPrep_acts _ _))
  have h1 : Acts s (s.modCell c fun k => { k with goldenValid := true, downCount := 0 }) :=
    .modCell _ _ _ ⟨⟨rfl, rfl, rfl, rfl, rfl, rfl, rfl, rfl, rfl, rfl, rfl, rfl, rfl⟩, fun h => ⟨Nat.zero_le _, h.2⟩⟩
  split
  · refine (h1.trans ?_).trans (.goldenRelease _ _)
    exact .modRun _ _ _ fun _ h => ⟨h.1, h.2.1, h.2.2.1, h.2.2.2.1, h.2.2.2.2.1, h.2.2.2.2.2.1, h.2.2.2.2.2.2.1,
      h.2.2.2.2.2.2.2.1, h.2.2.2.2.2.2.2.2.1, h.2.2.2.2.2.2.2.2.2.1, Nat.zero_le _, h.2.2.2.2.2.2.2.2.2.2.2⟩
  · exact h1

theorem Acts.goldenFail (c : CellIx) (enabled : SiteMask) (s : State) : Acts s (goldenFail c enabled s) :=
  (Acts.enterQuarantined _ _ _ _).trans (.raiseOnCurrent _ _ _ _ rfl)

theorem Keeps.onGoldenDone (mask : SiteMask) (c : CellIx) (role : Role) (s : State) :
    Keeps s (onGoldenDone mask c role s) := by
  unfold Machine.onGoldenDone
  split
  · exact .ite (fun _ => (Keeps.recordGolden _ _ _ _ _).trans (Acts.goldenFail _ _ _).keeps) fun _ =>
      (Keeps.recordGolden _ _ _ _ _).trans (Acts.goldenPass _ _).keeps
  · exact .refl _

/-! ## TOUCHDOWN, PASS_END and RUN_COUNTS -/

theorem Keeps.foreignStart (c : CellIx) (s : State) : Keeps s (foreignStart c s) := by
  unfold Machine.foreignStart
  refine Keeps.trans ?_ (Acts.enterQuarantined _ _ _ _).keeps
  exact .modCell _ _ _ ⟨rfl, rfl, rfl, rfl⟩ id

theorem Keeps.expect (c : CellIx) (e : Option Seq) (s : State) :
    Keeps s (s.modCell c fun k => { k with expected := e }) := .modCell _ _ _ ⟨rfl, rfl, rfl, rfl⟩ id

theorem Keeps.acceptTouchdown (c : CellIx) (r : RunIx) (q : Seq) (es : List SiteEntry) (s : State) :
    Keeps s (acceptTouchdown c r q es s) :=
  .ite (fun _ => .expect _ _ _) fun _ => (Keeps.expect _ _ _).trans (Acts.countTouchdown _ _ _ _ _).keeps

theorem Keeps.runTouchdown (c : CellIx) (r : RunIx) (q : Seq) (es : List SiteEntry) (s : State) :
    Keeps s (runTouchdown c r q es s) := by
  unfold Machine.runTouchdown
  split
  · exact .acceptTouchdown _ _ _ _ _
  · exact ((Keeps.expect _ _ _).trans (Acts.raiseOnRun _ _ _ _ rfl).keeps).trans (.acceptTouchdown _ _ _ _ _)
  · exact .refl _

theorem Keeps.takeTouchdown (c : CellIx) (q : Seq) (es : List SiteEntry) (s : State) :
    Keeps s (takeTouchdown c q es s) := by
  unfold Machine.takeTouchdown
  dsimp only
  split <;> first | exact .refl _ | exact .foreignStart _ _ | exact .runTouchdown _ _ _ _ _

theorem Keeps.onTouchdown (q : Seq) (es : List SiteEntry) (c : CellIx) (role : Role) (s : State) :
    Keeps s (onTouchdown q es c role s) := by
  unfold Machine.onTouchdown
  split
  · exact .refl _
  · exact .takeTouchdown _ _ _ _

theorem Acts.endPass (c : CellIx) (r : RunIx) (pass fed : Nat) (last : Seq) (s : State) :
    Acts s (endPass c r pass fed last s) := by
  unfold Machine.endPass
  dsimp only
  have h1 : Acts s (s.modRun r fun x => x.passEnded pass fed last) := .modRun _ _ _ fun _ h => h
  refine .ite (fun _ => .ite (fun _ => h1.trans (.passClose _ _)) fun _ => h1.trans (.armRunDeadline _ _ _ _)) fun _ =>
    .ite (fun _ => h1.trans ?_) fun _ => h1
  exact .modRun _ _ _ fun _ h => h

theorem Acts.onPassEnd (pass fed : Nat) (last : Seq) (c : CellIx) (role : Role) (s : State) :
    Acts s (onPassEnd pass fed last c role s) := by
  unfold Machine.onPassEnd
  split
  · exact .ite (fun _ => .endPass _ _ _ _ _ _) fun _ => .refl _
  · exact .refl _

theorem Acts.judgeCounts (c : CellIx) (r : RunIx) (fed : Nat) (trays : Vector (BitVec 24) 8) (s : State) :
    Acts s (judgeCounts c r fed trays s) := by
  unfold Machine.judgeCounts
  dsimp only
  refine Acts.trans ?_ (.closeRun _ _)
  have h1 : Acts s ((Machine.cancelRunDeadline c .counts s).modRun r fun x => { x with handlerFed := some fed }) :=
    (Acts.cancelRunDeadline _ _ _).trans (.modRun _ _ _ fun _ h => h)
  exact .ite (fun _ => h1.trans (.raiseOnLot _ _ _ _ rfl)) fun _ => h1

theorem Acts.onRunCounts (fed : Nat) (trays : Vector (BitVec 24) 8) (c : CellIx) (role : Role) (s : State) :
    Acts s (onRunCounts fed trays c role s) := by
  unfold Machine.onRunCounts
  split
  · exact .ite (fun _ => .judgeCounts _ _ _ _ _) fun _ => .refl _
  · exact .refl _

/-! ## Events (R77, R108, R117, R143, R150, R172) -/

theorem Keeps.enterLost (c : CellIx) (s : State) : Keeps s (enterLost c s) := by
  unfold Machine.enterLost
  dsimp only
  refine Keeps.trans ?_ (Acts.raiseOnCurrent _ _ _ _ rfl).keeps
  refine Keeps.trans ?_ (Acts.postNotice _ _).keeps
  refine Keeps.trans (t := interrupt c false (enterMarked c .lost none s))
    ((Acts.enterMarked _ _ _ _).trans (.interrupt _ _ _)).keeps ?_
  generalize interrupt c false (enterMarked c .lost none s) = u
  exact .modCell _ _ _ ⟨rfl, rfl, rfl, rfl⟩ id

theorem Acts.closingExpired (r : RunIx) (s : State) : Acts s (closingExpired r s) :=
  .ite (fun _ => (Acts.raiseOnRun _ _ _ _ rfl).trans (.passClose _ _)) fun _ => .refl _

theorem Acts.countsExpired (r : RunIx) (s : State) : Acts s (countsExpired r s) :=
  .ite (fun _ => (Acts.raiseOnLot _ _ _ _ rfl).trans (.closeRun _ _)) fun _ => .refl _

theorem Acts.onCurrent (c : CellIx) {f : RunIx → State → State} (hf : ∀ r u, Acts u (f r u)) (s : State) :
    Acts s (onCurrent c f s) := by
  unfold Machine.onCurrent
  split
  · exact hf _ _
  · exact .refl _

theorem Acts.spendDeadline (c : CellIx) (s : State) : Acts s (spendDeadline c s) := .modCell_eq _ _ _

theorem Acts.transmitF (s : State) : Acts s (kickF { s with txF := none }) := by
  refine .ofPorts (by simp) (by simp) (by simp) (by simp) (by simp) (by simp) (by simp) (by simp) (by simp) (by simp)
    (by simp) (by simp) (by simp) (by simp) (fun h => kickF_links h) (fun h => kickF_busy h.2)

theorem Acts.transmitC (s : State) : Acts s (kickC { s with txC := none }) := by
  refine .ofPorts (by simp) (by simp) (by simp) (by simp) (by simp) (by simp) (by simp) (by simp) (by simp) (by simp)
    (by simp) (by simp) (by simp) (by simp) (fun h => kickC_links h) (fun h => kickC_busy h.1)

end Sys2Proof.Machine
end

