-- ==== Sys2Proof/Laws/Normal.lean ====
section
/-! SUPPORT. A normal form for the states that the equations of Obligations.lean name: the ports' operations on the
outside, one write of the floor's work (`State.work`) inside. Every update of a lot, a run, a cell or the queue is such a
write, and every operation of the ports passes through it. -/

-- One theorem at a time: in the package as one text, a thread for each would not fit in memory.
set_option Elab.async false

namespace Sys2Proof.Machine

/-- The floor's work written whole. -/
def State.work (s : State) (lots : Vector Lot 256) (runs : Vector Run 192) (cells : Vector Cell 64)
    (queue : List LotSlot) (n : Nat) : State :=
  { s with lots := lots, runs := runs, cells := cells, queue := queue, seqCounter := n }

section
variable (s : State) (L : Vector Lot 256) (R : Vector Run 192) (K : Vector Cell 64) (Q : List LotSlot) (N : Nat)

theorem setLot_work (i : LotSlot) (x : Lot) : s.setLot i x = s.work (vset s.lots i x) s.runs s.cells s.queue s.seqCounter :=
  rfl
theorem setRun_work (i : RunIx) (x : Run) : s.setRun i x = s.work s.lots (vset s.runs i x) s.cells s.queue s.seqCounter :=
  rfl
theorem setCell_work (i : CellIx) (x : Cell) :
    s.setCell i x = s.work s.lots s.runs (vset s.cells i x) s.queue s.seqCounter := rfl
theorem queueRemove_work (l : LotSlot) :
    queueRemove l s = s.work s.lots s.runs s.cells (s.queue.filter (· ≠ l)) s.seqCounter := rfl
theorem queueInsert_work (l : LotSlot) :
    queueInsert l s = s.work s.lots s.runs s.cells (placeIn s l s.queue) s.seqCounter := rfl
theorem work_self : s.work s.lots s.runs s.cells s.queue s.seqCounter = s := rfl

theorem work_work (L' : Vector Lot 256) (R' : Vector Run 192) (K' : Vector Cell 64) (Q' : List LotSlot) (N' : Nat) :
    (s.work L R K Q N).work L' R' K' Q' N' = s.work L' R' K' Q' N' := rfl

theorem work_lots : (s.work L R K Q N).lots = L := rfl
theorem work_runs : (s.work L R K Q N).runs = R := rfl
theorem work_cells : (s.work L R K Q N).cells = K := rfl
theorem work_queue : (s.work L R K Q N).queue = Q := rfl
theorem work_seqCounter : (s.work L R K Q N).seqCounter = N := rfl
theorem work_lot (i : LotSlot) : (s.work L R K Q N).lot i = L[i] := rfl
theorem work_run (i : RunIx) : (s.work L R K Q N).run i = R[i] := rfl
theorem work_cell (i : CellIx) : (s.work L R K Q N).cell i = K[i] := rfl
theorem work_route (i : RouteIx) : (s.work L R K Q N).route i = s.route i := rfl
theorem work_limit (i : LimitIx) : (s.work L R K Q N).limit i = s.limit i := rfl
theorem work_ship (i : ShipSlot) : (s.work L R K Q N).ship i = s.ship i := rfl
theorem work_profile : (s.work L R K Q N).profile = s.profile := rfl
theorem work_phase : (s.work L R K Q N).phase = s.phase := rfl
theorem work_timer : (s.work L R K Q N).timer = s.timer := rfl
theorem work_floorClock : (s.work L R K Q N).floorClock = s.floorClock := rfl
theorem work_stepOf (x : Lot) : stepOf (s.work L R K Q N) x = stepOf s x := rfl
theorem work_limitsOf (x : Lot) : limitsOf (s.work L R K Q N) x = limitsOf s x := rfl

theorem kickF_work : kickF (s.work L R K Q N) = (kickF s).work L R K Q N := by
  unfold kickF State.work; dsimp only; repeat' split
  all_goals rfl
theorem kickC_work : kickC (s.work L R K Q N) = (kickC s).work L R K Q N := by
  unfold kickC State.work; dsimp only; repeat' split
  all_goals rfl
theorem forwardCF_work (b : List Byte) : forwardCF b (s.work L R K Q N) = (forwardCF b s).work L R K Q N := by
  unfold forwardCF
  by_cases h : s.fwdCF.length < Config.forwardCapacity
  · rw [if_pos h, if_pos (by exact h)]; exact kickF_work { s with fwdCF := s.fwdCF ++ [b] } L R K Q N
  · rw [if_neg h, if_neg (by exact h)]
theorem appendOrder_work (o : OrderFrame) : appendOrder o (s.work L R K Q N) = (appendOrder o s).work L R K Q N := by
  unfold appendOrder
  by_cases h : s.orders.length < Config.orderCapacity
  · rw [if_pos h, if_pos (by exact h)]; exact kickC_work { s with orders := s.orders ++ [o] } L R K Q N
  · rw [if_neg h, if_neg (by exact h)]
theorem postNotice_work (n : Notice) : postNotice n (s.work L R K Q N) = (postNotice n s).work L R K Q N := by
  unfold postNotice
  by_cases h : s.noticeCount < Config.noticeCapacity
  · rw [if_pos h, if_pos (by exact h)]; exact kickF_work { s with
      outbound := s.outbound ++ [.notice ⟨s.profile.floorHost, s.profile.partStation, s.floorClock, n⟩]
      noticeCount := s.noticeCount + 1 } L R K Q N
  · rw [if_neg h, if_neg (by exact h)]; rfl

/-- An order passes through a write of the work that leaves the cell its station. -/
theorem sendOrder_work (c : CellIx) (role : Role) (o : Order) (h : K[c].station role = (s.cell c).station role) :
    sendOrder c role o (s.work L R K Q N) = (sendOrder c role o s).work L R K Q N := by
  unfold sendOrder
  rw [work_cell, h]
  split
  · exact appendOrder_work _ L R K Q N _
  · rfl
theorem sendBoth_work (c : CellIx) (o : Order) (h : ∀ role, K[c].station role = (s.cell c).station role) :
    sendBoth c o (s.work L R K Q N) = (sendBoth c o s).work L R K Q N := by
  unfold sendBoth
  rw [sendOrder_work _ _ _ _ _ _ _ _ _ (h _), sendOrder_work _ _ _ _ _ _ _ _ _ (by simpa using h _)]

end

/-! ## A notice and an order are of different ports -/

/-- A write of Port C's lists and transmitter. -/
theorem appendOrder_portC (o : OrderFrame) (s : State) : ∃ a b d, appendOrder o s = { s with orders := a, fwdFC := b, txC := d }
    ∧ ∀ t : State, t.orders = s.orders → t.fwdFC = s.fwdFC → t.txC = s.txC →
      appendOrder o t = { t with orders := a, fwdFC := b, txC := d } := by
  by_cases h : s.orders.length < Config.orderCapacity
  · cases hx : s.txC with
    | some x =>
      refine ⟨s.orders ++ [o], s.fwdFC, some x, ?_, fun t h1 h2 h3 => ?_⟩
      · simp [appendOrder, kickC, h, hx]
      · simp [appendOrder, kickC, h1, h, h3]
        cases t; simp_all
    | none =>
      cases hl : s.orders with
      | nil =>
        refine ⟨[], s.fwdFC, some (.order o), ?_, fun t h1 h2 h3 => ?_⟩
        · simp [appendOrder, kickC, hx, hl]
          cases s; simp_all [Config.orderCapacity]
        · have e := h1
          simp [appendOrder, kickC, e, h3]
          cases t; simp_all [Config.orderCapacity]
      | cons y ys =>
        refine ⟨ys ++ [o], s.fwdFC, some (.order y), ?_, fun t h1 h2 h3 => ?_⟩
        · rw [hl] at h
          simp only [appendOrder, kickC, hx, hl, if_pos h, List.cons_append]
        · have e := h1
          rw [hl] at h
          have h4 := h3
          simp only [appendOrder, kickC, h4, e, if_pos h, List.cons_append]
          cases t; simp_all
  · refine ⟨s.orders, s.fwdFC, s.txC, ?_, fun t h1 h2 h3 => ?_⟩
    · simp [appendOrder, h]
    · simp only [appendOrder, h1, if_neg h]
      cases t; simp_all

/-- A notice leaves Port C alone and reads nothing of it. -/
theorem postNotice_portC (n : Notice) (s : State) (a : List OrderFrame) (b : List (List Byte)) (d : Option TxFrame) :
    postNotice n { s with orders := a, fwdFC := b, txC := d } = { postNotice n s with orders := a, fwdFC := b, txC := d } := by
  unfold postNotice
  dsimp only
  split
  · unfold kickF
    dsimp only
    repeat' split
    all_goals rfl
  · rfl

theorem kickF_portC (s : State) : (kickF s).orders = s.orders ∧ (kickF s).fwdFC = s.fwdFC ∧ (kickF s).txC = s.txC :=
  ⟨kickF_orders s, kickF_fwdFC s, kickF_txC s⟩

theorem postNotice_sameC (n : Notice) (s : State) : (postNotice n s).orders = s.orders
    ∧ (postNotice n s).fwdFC = s.fwdFC ∧ (postNotice n s).txC = s.txC := by
  unfold postNotice
  split
  · exact kickF_portC _
  · exact ⟨rfl, rfl, rfl⟩

/-- Orders and notices are made in either order. -/
theorem appendOrder_postNotice (o : OrderFrame) (n : Notice) (s : State) :
    appendOrder o (postNotice n s) = postNotice n (appendOrder o s) := by
  obtain ⟨a, b, d, h1, h2⟩ := appendOrder_portC o s
  obtain ⟨e1, e2, e3⟩ := postNotice_sameC n s
  exact (h2 _ e1 e2 e3).trans ((postNotice_portC n s a b d).symm.trans (congrArg _ h1.symm))

theorem sendOrder_postNotice (c : CellIx) (role : Role) (o : Order) (n : Notice) (s : State) :
    sendOrder c role o (postNotice n s) = postNotice n (sendOrder c role o s) := by
  unfold sendOrder
  rw [postNotice_cell, postNotice_profile]
  split
  · exact appendOrder_postNotice _ _ _
  · rfl

theorem sendBoth_postNotice (c : CellIx) (o : Order) (n : Notice) (s : State) :
    sendBoth c o (postNotice n s) = postNotice n (sendBoth c o s) := by
  simp only [sendBoth, sendOrder_postNotice]

end Sys2Proof.Machine
end

