-- ==== Sys2Proof/Laws/PerInstr.lean ====
section
/-! SUPPORT. Statements about the commands as syntax, one lemma for each constructor. -/

-- One theorem at a time: in the package as one text, a thread for each would not fit in memory.
set_option Elab.async false

namespace Sys2Proof

/-- A number spelt in `n` bytes has `n` bytes. -/
@[simp] theorem beBytes_length (n v : Nat) : (beBytes n v).length = n := by
  induction n with
  | zero => rfl
  | succ n ih => simp [beBytes, ih]

/-- A step record has 44 bytes (after Table 11-3). -/
@[simp] theorem StepArgs.bytes_length (a : StepArgs) : a.bytes.length = 44 := by simp [StepArgs.bytes]

/-- The arguments of SET_PROFILE have 18 bytes (Table 11-3). -/
@[simp] theorem ProfileArgs.bytes_length (a : ProfileArgs) : a.bytes.length = 18 := by simp [ProfileArgs.bytes]

theorem flatMap_length {α : Type} (f : α → List Byte) (n : Nat) (l : List α) (h : ∀ a ∈ l, (f a).length = n) :
    (l.flatMap f).length = n * l.length := by
  induction l with
  | nil => rfl
  | cons a l ih =>
    rw [List.flatMap_cons, List.length_append, h a List.mem_cons_self,
      ih fun b hb => h b (List.mem_cons_of_mem _ hb), List.length_cons]
    ring

/-- The values of LOAD_LIMITS have 51 bytes after the set index (Table 11-3). -/
@[simp] theorem LimitArgs.bytes_length (a : LimitArgs) : a.bytes.length = 51 := by
  simp [LimitArgs.bytes, flatMap_length _ 2]

end Sys2Proof

namespace Sys2Proof.Laws.KindCode

/-- A command has a kind code exactly when a floor message brings it; a report's code has the high byte of its class; and
the header of a well-formed request names the length of its arguments (Tables 11-1 to 11-3). -/
def Statement (i : Instr) : Prop :=
  (i.kindCode.isSome = (i.reportParts.isSome || i.requestParts.isSome))
    ∧ (i.reportParts.isSome → ∃ k, i.kindCode = some k ∧ k.toNat / 256 = 1)
    ∧ ∀ p ∈ i.requestParts, i.wf → p.2.length = p.1.bodyLen.toNat

section
open Sys2Proof

theorem powerOnReset : Statement (.powerOnReset) := ⟨rfl, nofun, nofun⟩

theorem frameArrival (port : Port) (b : List Byte) : Statement (.frameArrival port b) := ⟨rfl, nofun, nofun⟩

theorem state (e : Envelope) (code : Byte) : Statement (.state e code) := ⟨rfl, fun _ => ⟨_, rfl, rfl⟩, nofun⟩

theorem setupDone (e : Envelope) (kit : Byte) (temp : BitVec 16) : Statement (.setupDone e kit temp) :=
  ⟨rfl, fun _ => ⟨_, rfl, rfl⟩, nofun⟩

theorem loadDone (e : Envelope) (id : BitVec 16) (rev : Byte) (sum : BitVec 32) : Statement (.loadDone e id rev sum) :=
  ⟨rfl, fun _ => ⟨_, rfl, rfl⟩, nofun⟩

theorem loadFail (e : Envelope) (id : BitVec 16) (rev : Byte) : Statement (.loadFail e id rev) :=
  ⟨rfl, fun _ => ⟨_, rfl, rfl⟩, nofun⟩

theorem goldenDone (e : Envelope) (mask : SiteMask) : Statement (.goldenDone e mask) :=
  ⟨rfl, fun _ => ⟨_, rfl, rfl⟩, nofun⟩

theorem touchdown (e : Envelope) (q : Seq) (es : List SiteEntry) : Statement (.touchdown e q es) :=
  ⟨rfl, fun _ => ⟨_, rfl, rfl⟩, nofun⟩

theorem passEnd (e : Envelope) (pass : Byte) (fed : BitVec 24) (last : Seq) : Statement (.passEnd e pass fed last) :=
  ⟨rfl, fun _ => ⟨_, rfl, rfl⟩, nofun⟩

theorem runCounts (e : Envelope) (fed : BitVec 24) (trays : Vector (BitVec 24) 8) : Statement (.runCounts e fed trays) :=
  ⟨rfl, fun _ => ⟨_, rfl, rfl⟩, nofun⟩

theorem setProfile (h : ReqHead) (a : ProfileArgs) : Statement (.setProfile h a) := by
  refine ⟨rfl, nofun, fun p hp hw => ?_⟩
  obtain rfl : _ = p := by simpa [Instr.requestParts] using hp
  simp [Instr.wf, ReqHead.wf] at hw
  simp [hw]

theorem operate (h : ReqHead) : Statement (.operate h) := by
  refine ⟨rfl, nofun, fun p hp hw => ?_⟩
  obtain rfl : _ = p := by simpa [Instr.requestParts] using hp
  simp [Instr.wf, ReqHead.wf] at hw
  simp [hw]

theorem setClock (h : ReqHead) (t : FloorTime) : Statement (.setClock h t) := by
  refine ⟨rfl, nofun, fun p hp hw => ?_⟩
  obtain rfl : _ = p := by simpa [Instr.requestParts] using hp
  simp [Instr.wf, ReqHead.wf] at hw
  simp [hw]

theorem loadRoute (h : ReqHead) (r : Byte) (p : BitVec 32) (c : Byte) (steps : List StepArgs) :
    Statement (.loadRoute h r p c steps) := by
  refine ⟨rfl, nofun, fun p hp hw => ?_⟩
  obtain rfl : _ = p := by simpa [Instr.requestParts] using hp
  simp [Instr.wf, ReqHead.wf] at hw
  simp
  omega

theorem loadLimits (h : ReqHead) (set : Byte) (a : LimitArgs) : Statement (.loadLimits h set a) := by
  refine ⟨rfl, nofun, fun p hp hw => ?_⟩
  obtain rfl : _ = p := by simpa [Instr.requestParts] using hp
  simp [Instr.wf, ReqHead.wf] at hw
  simp [hw]

theorem loadCell (h : ReqHead) (c : Byte) (t : Station) (hd : Station) (cls : Byte) : Statement (.loadCell h c t hd cls) :=
    by
  refine ⟨rfl, nofun, fun p hp hw => ?_⟩
  obtain rfl : _ = p := by simpa [Instr.requestParts] using hp
  simp [Instr.wf, ReqHead.wf] at hw
  simp [hw]

theorem lotAdd (h : ReqHead) (t : Tag) (r : Byte) (q : BitVec 24) (cls : Byte) (split : Byte) (pre : Byte) : Statement (.lotAdd h t r q cls split pre) :=
    by
  refine ⟨rfl, nofun, fun p hp hw => ?_⟩
  obtain rfl : _ = p := by simpa [Instr.requestParts] using hp
  simp [Instr.wf, ReqHead.wf] at hw
  simp [hw]

theorem lotPriority (h : ReqHead) (t : Tag) (cls : Byte) : Statement (.lotPriority h t cls) := by
  refine ⟨rfl, nofun, fun p hp hw => ?_⟩
  obtain rfl : _ = p := by simpa [Instr.requestParts] using hp
  simp [Instr.wf, ReqHead.wf] at hw
  simp [hw]

theorem lotHold (h : ReqHead) (t : Tag) (pol : Byte) : Statement (.lotHold h t pol) := by
  refine ⟨rfl, nofun, fun p hp hw => ?_⟩
  obtain rfl : _ = p := by simpa [Instr.requestParts] using hp
  simp [Instr.wf, ReqHead.wf] at hw
  simp [hw]

theorem lotRelease (h : ReqHead) (t : Tag) (k : Byte) (p : Byte) : Statement (.lotRelease h t k p) := by
  refine ⟨rfl, nofun, fun p hp hw => ?_⟩
  obtain rfl : _ = p := by simpa [Instr.requestParts] using hp
  simp [Instr.wf, ReqHead.wf] at hw
  simp [hw]

theorem lotScrap (h : ReqHead) (t : Tag) : Statement (.lotScrap h t) := by
  refine ⟨rfl, nofun, fun p hp hw => ?_⟩
  obtain rfl : _ = p := by simpa [Instr.requestParts] using hp
  simp [Instr.wf, ReqHead.wf] at hw
  simp [hw]

theorem lotRetire (h : ReqHead) (t : Tag) : Statement (.lotRetire h t) := by
  refine ⟨rfl, nofun, fun p hp hw => ?_⟩
  obtain rfl : _ = p := by simpa [Instr.requestParts] using hp
  simp [Instr.wf, ReqHead.wf] at hw
  simp [hw]

theorem lotQuery (h : ReqHead) (t : Tag) : Statement (.lotQuery h t) := by
  refine ⟨rfl, nofun, fun p hp hw => ?_⟩
  obtain rfl : _ = p := by simpa [Instr.requestParts] using hp
  simp [Instr.wf, ReqHead.wf] at hw
  simp [hw]

theorem runAbort (h : ReqHead) (t : Tag) (p : Byte) : Statement (.runAbort h t p) := by
  refine ⟨rfl, nofun, fun p hp hw => ?_⟩
  obtain rfl : _ = p := by simpa [Instr.requestParts] using hp
  simp [Instr.wf, ReqHead.wf] at hw
  simp [hw]

theorem cellClear (h : ReqHead) (c : Byte) : Statement (.cellClear h c) := by
  refine ⟨rfl, nofun, fun p hp hw => ?_⟩
  obtain rfl : _ = p := by simpa [Instr.requestParts] using hp
  simp [Instr.wf, ReqHead.wf] at hw
  simp [hw]

theorem cellReset (h : ReqHead) (c : Byte) : Statement (.cellReset h c) := by
  refine ⟨rfl, nofun, fun p hp hw => ?_⟩
  obtain rfl : _ = p := by simpa [Instr.requestParts] using hp
  simp [Instr.wf, ReqHead.wf] at hw
  simp [hw]

theorem cellDrain (h : ReqHead) (c : Byte) (v : Byte) : Statement (.cellDrain h c v) := by
  refine ⟨rfl, nofun, fun p hp hw => ?_⟩
  obtain rfl : _ = p := by simpa [Instr.requestParts] using hp
  simp [Instr.wf, ReqHead.wf] at hw
  simp [hw]

theorem cellCountersClear (h : ReqHead) (c : Byte) : Statement (.cellCountersClear h c) := by
  refine ⟨rfl, nofun, fun p hp hw => ?_⟩
  obtain rfl : _ = p := by simpa [Instr.requestParts] using hp
  simp [Instr.wf, ReqHead.wf] at hw
  simp [hw]

theorem cellQuery (h : ReqHead) (c : Byte) : Statement (.cellQuery h c) := by
  refine ⟨rfl, nofun, fun p hp hw => ?_⟩
  obtain rfl : _ = p := by simpa [Instr.requestParts] using hp
  simp [Instr.wf, ReqHead.wf] at hw
  simp [hw]

theorem shipOpen (h : ReqHead) (t : Tag) (p : BitVec 32) (g : Byte) (m : BitVec 24) : Statement (.shipOpen h t p g m) :=
    by
  refine ⟨rfl, nofun, fun p hp hw => ?_⟩
  obtain rfl : _ = p := by simpa [Instr.requestParts] using hp
  simp [Instr.wf, ReqHead.wf] at hw
  simp [hw]

theorem shipAdd (h : ReqHead) (t : Tag) (l : Tag) : Statement (.shipAdd h t l) := by
  refine ⟨rfl, nofun, fun p hp hw => ?_⟩
  obtain rfl : _ = p := by simpa [Instr.requestParts] using hp
  simp [Instr.wf, ReqHead.wf] at hw
  simp [hw]

theorem shipRemove (h : ReqHead) (t : Tag) (l : Tag) : Statement (.shipRemove h t l) := by
  refine ⟨rfl, nofun, fun p hp hw => ?_⟩
  obtain rfl : _ = p := by simpa [Instr.requestParts] using hp
  simp [Instr.wf, ReqHead.wf] at hw
  simp [hw]

theorem shipSeal (h : ReqHead) (t : Tag) : Statement (.shipSeal h t) := by
  refine ⟨rfl, nofun, fun p hp hw => ?_⟩
  obtain rfl : _ = p := by simpa [Instr.requestParts] using hp
  simp [Instr.wf, ReqHead.wf] at hw
  simp [hw]

theorem shipRelease (h : ReqHead) (t : Tag) : Statement (.shipRelease h t) := by
  refine ⟨rfl, nofun, fun p hp hw => ?_⟩
  obtain rfl : _ = p := by simpa [Instr.requestParts] using hp
  simp [Instr.wf, ReqHead.wf] at hw
  simp [hw]

theorem shipCancel (h : ReqHead) (t : Tag) : Statement (.shipCancel h t) := by
  refine ⟨rfl, nofun, fun p hp hw => ?_⟩
  obtain rfl : _ = p := by simpa [Instr.requestParts] using hp
  simp [Instr.wf, ReqHead.wf] at hw
  simp [hw]

theorem shipRetire (h : ReqHead) (t : Tag) : Statement (.shipRetire h t) := by
  refine ⟨rfl, nofun, fun p hp hw => ?_⟩
  obtain rfl : _ = p := by simpa [Instr.requestParts] using hp
  simp [Instr.wf, ReqHead.wf] at hw
  simp [hw]

theorem shipQuery (h : ReqHead) (t : Tag) : Statement (.shipQuery h t) := by
  refine ⟨rfl, nofun, fun p hp hw => ?_⟩
  obtain rfl : _ = p := by simpa [Instr.requestParts] using hp
  simp [Instr.wf, ReqHead.wf] at hw
  simp [hw]

theorem queueQuery (h : ReqHead) : Statement (.queueQuery h) := by
  refine ⟨rfl, nofun, fun p hp hw => ?_⟩
  obtain rfl : _ = p := by simpa [Instr.requestParts] using hp
  simp [Instr.wf, ReqHead.wf] at hw
  simp [hw]

theorem status (h : ReqHead) : Statement (.status h) := by
  refine ⟨rfl, nofun, fun p hp hw => ?_⟩
  obtain rfl : _ = p := by simpa [Instr.requestParts] using hp
  simp [Instr.wf, ReqHead.wf] at hw
  simp [hw]

theorem floorReset (h : ReqHead) : Statement (.floorReset h) := by
  refine ⟨rfl, nofun, fun p hp hw => ?_⟩
  obtain rfl : _ = p := by simpa [Instr.requestParts] using hp
  simp [Instr.wf, ReqHead.wf] at hw
  simp [hw]

theorem unknownRequest (h : ReqHead) (k : BitVec 16) : Statement (.unknownRequest h k) := by
  refine ⟨rfl, nofun, fun p hp hw => ?_⟩
  obtain rfl : _ = p := by simpa [Instr.requestParts] using hp
  simp

theorem heartbeatExpiry (c : CellIx) (role : Role) : Statement (.heartbeatExpiry c role) := ⟨rfl, nofun, nofun⟩

theorem stageDeadlineExpiry (c : CellIx) : Statement (.stageDeadlineExpiry c) := ⟨rfl, nofun, nofun⟩

theorem closingDeadlineExpiry (c : CellIx) : Statement (.closingDeadlineExpiry c) := ⟨rfl, nofun, nofun⟩

theorem countsDeadlineExpiry (c : CellIx) : Statement (.countsDeadlineExpiry c) := ⟨rfl, nofun, nofun⟩

theorem aging (l : LotSlot) : Statement (.aging l) := ⟨rfl, nofun, nofun⟩

theorem transmitComplete (port : Port) : Statement (.transmitComplete port) := ⟨rfl, nofun, nofun⟩

end

end Sys2Proof.Laws.KindCode
end

