-- ==== Sys2Proof/Tests/Slice0.lean ====
section
/-! SUPPORT. Small tests of the model on values written from the manual, and, for each statement that has hypotheses, a
named state and operands that meet all of them together (`witness_…`, one group for each clause, at the boundaries of
its ranges). -/

-- One theorem at a time: a kernel evaluation for each in a thread of its own would not fit in memory.
set_option Elab.async false

namespace Sys2Proof.Tests

open Sys2Proof.Machine

/-! ## Commands and states for the tests -/

/-- The header of a request from the floor host's default station, naming `n` bytes of body. -/
def hd (n : Nat) : ReqHead := ⟨1, 7, BitVec.ofNat 16 n⟩

/-- The envelope of a report from station `src` to the floor host, long enough for every kind. -/
def env (src : Station) : Envelope := ⟨0xFFFFFFFFFFFF, 5, 1, src, 0, List.replicate 40 0⟩

/-- The touchdown entry of site `a` and bin `b`. -/
def ent (a b : Nat) : SiteEntry := ⟨BitVec.ofNat 4 a, BitVec.ofNat 4 b⟩

/-- Bin 1 to tray 0, bins 2 and 3 to trays 1 and 2, the others to tray 3. -/
def binMap : Vector Byte 16 := #v[0, 0, 1, 2, 3, 3, 3, 3, 3, 3, 3, 3, 3, 3, 3, 3]

/-- A step of four sites on testers of class 0, tray 0 and tray 1 good, tray 2 for retest. -/
def stp : Step :=
  { Step.none with
    classMask := 1, kit := 12, setpoint := 125, programId := 3301, revision := 4, checksum := 0xABCD, siteCount := 4
    minSites := 3, maxRuns := 2, changeoverLimit := 900, maxRetest := 1, map := binMap
    trays := #v[.good 0, .good 1, .retest, .reject, .reject, .reject, .reject, .reject] }

/-- A configured cell in state `st`, both stations ready, set up for `stp`. -/
def cel (st : CellState) : Cell :=
  { Cell.powerOn with
    configured := true, tester := some 100, handler := some 101, state := st, repTester := some .ready
    repHandler := some .ready, heardTester := some 15000, heardHandler := some 16000, kit := some 12, temp := some 125
    program := some ⟨3301, 4, 0xABCD⟩, goldenValid := true, enabled := 15 }

/-- Such a cell with run 2 as its current run. -/
def celRun (st : CellState) : Cell := { cel st with current := some 2 }

/-- Lot 7001 in state `st` on route 5, one run still to assign. -/
def lotIn (st : LotState) (runs : Vector RunPos 4) : Lot :=
  { Lot.vacant with
    tag := 7001, route := 5, state := st, split := 2, runsPerStep := 2, cls := 2, started := 500, q := 500
    toAssign := 1, runs := runs }

/-- The first run of the lot in slot 3, on cell 1, in state `st`. -/
def runIn (st : RunState) : Run := { Run.free with lot := 3, pos := 0, cell := 1, state := st }

/-- A run list without a run, and one that names run 2 at position 0. -/
def noRun : Vector RunPos 4 := Vector.replicate 4 .absent
def oneRun : Vector RunPos 4 := vset noRun 0 (.run 2)

/-- The floor in OPERATE with lot `x` in slot 3, run `r` in record 2, cell `k` with index 1, and the queue `q`. -/
def world (x : Lot) (r : Run) (k : Cell) (q : List LotSlot) : State :=
  { State.reset with
    phase := .operate, timer := 20000, floorClock := 5
    routes := vset State.reset.routes 5 ⟨4410, [stp, stp], 1⟩
    limits := vset State.reset.limits 0 { LimitSet.unloaded with loaded := true }
    lots := vset State.reset.lots 3 x, runs := vset State.reset.runs 2 r, cells := vset State.reset.cells 1 k
    queue := q, stations := [⟨100, 1, .tester⟩, ⟨101, 1, .handler⟩] }

/-- The floor with no lot and the cell in state `st`. -/
def floorOf (st : CellState) : State := world .vacant .free (cel st) []

/-- A waiting lot in the queue and no cell that takes it. -/
def waitingLot : State := world (lotIn .waiting noRun) .free (cel .down) [3]

/-- A running lot with its one run in state `r` on the cell in state `c`. -/
def lotRunning (c : CellState) (r : RunState) : State := world (lotIn .running oneRun) (runIn r) (celRun c) [3]

/-- Something that both transmitters may be sending. -/
def busy (s : State) : State := { s with txF := some (.forwarded []), txC := some (.forwarded []) }

def stopHold : Hold := ⟨.engineer, none, .stop, 0, 0, none⟩
def markHold : Hold := ⟨.engineer, none, .mark, 0, 0, none⟩

/-- A record of kind `k` and policy `p` at `pos`. -/
def holdAt (k : HoldKind) (pos : Option RunPlace) (p : Policy) : Hold := ⟨k, pos, p, 0, 0, none⟩

/-! ## WellFormed refuses what no floor brings, and takes the boundary -/

theorem test_wf_state_short : (Instr.state { env 100 with pad := List.replicate 28 0 } 0).wf = false := by decide
theorem test_wf_state_shortest : (Instr.state { env 100 with pad := List.replicate 29 0 } 0).wf = true := by decide
theorem test_wf_touchdown_empty : (Instr.touchdown (env 100) 0 []).wf = false := by decide
theorem test_wf_touchdown_seventeen : (Instr.touchdown (env 100) 0 (List.replicate 17 (ent 0 1))).wf = false := by decide
theorem test_wf_passEnd_fed : (Instr.passEnd (env 101) 0 1000000 0).wf = false := by decide
theorem test_wf_runCounts_fed : (Instr.runCounts (env 101) 1000000 (Vector.replicate 8 0)).wf = false := by decide
theorem test_wf_runCounts_tray :
    (Instr.runCounts (env 101) 0 (vset (Vector.replicate 8 0) 7 1000000)).wf = false := by decide
theorem test_wf_request_length : (Instr.lotHold (hd 8) 7001 0).wf = false := by decide
theorem test_wf_route_count : (Instr.loadRoute (hd 50) 5 1 1 []).wf = false := by decide
theorem test_wf_route_length : (Instr.loadRoute (hd 50) 5 1 0 []).wf = false := by decide
theorem test_wf_route_count_too_long : (Instr.loadRoute (hd 9026) 5 1 205 []).wf = false := by decide
theorem test_wf_unknown_kind : (Instr.unknownRequest (hd 0) 0x0302).wf = false := by decide
theorem test_wf_unknown_length : (Instr.unknownRequest (hd 8985) 0x0399).wf = false := by decide
/-- A report of any other kind, in a frame one byte below 64. -/
theorem test_wf_short_frames :
    let e := fun n => { env 100 with pad := List.replicate (29 - n) 0 }
    (Instr.setupDone (e 3) 0 0).wf = false ∧ (Instr.loadDone (e 7) 0 0 0).wf = false
      ∧ (Instr.loadFail (e 3) 0 0).wf = false ∧ (Instr.goldenDone (e 2) 0).wf = false
      ∧ (Instr.touchdown (e 4) 0 [ent 0 1]).wf = false ∧ (Instr.passEnd (e 6) 0 0 0).wf = false
      ∧ (Instr.runCounts (e 27) 0 (Vector.replicate 8 0)).wf = false := by decide
/-- A request of any other kind, its header naming one byte more than Table 11-3. -/
theorem test_wf_request_lengths :
    (Instr.operate (hd 1)).wf = false ∧ (Instr.setClock (hd 7) 0).wf = false
      ∧ (Instr.loadCell (hd 7) 0 1 2 0).wf = false ∧ (Instr.lotAdd (hd 16) 0 0 0 0 0 0).wf = false
      ∧ (Instr.lotPriority (hd 10) 0 0).wf = false ∧ (Instr.lotRelease (hd 11) 0 0 0).wf = false
      ∧ (Instr.lotScrap (hd 9) 0).wf = false ∧ (Instr.lotRetire (hd 9) 0).wf = false
      ∧ (Instr.lotQuery (hd 9) 0).wf = false ∧ (Instr.runAbort (hd 10) 0 0).wf = false
      ∧ (Instr.cellClear (hd 2) 0).wf = false ∧ (Instr.cellReset (hd 2) 0).wf = false
      ∧ (Instr.cellDrain (hd 3) 0 0).wf = false ∧ (Instr.cellCountersClear (hd 2) 0).wf = false
      ∧ (Instr.cellQuery (hd 2) 0).wf = false ∧ (Instr.shipOpen (hd 17) 0 0 0 0).wf = false
      ∧ (Instr.shipAdd (hd 17) 0 0).wf = false ∧ (Instr.shipRemove (hd 17) 0 0).wf = false
      ∧ (Instr.shipSeal (hd 9) 0).wf = false ∧ (Instr.shipRelease (hd 9) 0).wf = false
      ∧ (Instr.shipCancel (hd 9) 0).wf = false ∧ (Instr.shipRetire (hd 9) 0).wf = false
      ∧ (Instr.shipQuery (hd 9) 0).wf = false ∧ (Instr.queueQuery (hd 1)).wf = false
      ∧ (Instr.status (hd 1)).wf = false ∧ (Instr.floorReset (hd 1)).wf = false := by decide

/-! ## The manual's own figures -/

/-- The reference value of R183: the CRC-32 of the nine ASCII digits. -/
theorem test_crc_reference :
    crc32 [0x31, 0x32, 0x33, 0x34, 0x35, 0x36, 0x37, 0x38, 0x39] = 0xCBF43926 := by decide +kernel

/-- The state a command leaves. -/
def after (i : Instr) (s : State) : State :=
  match exec i s with
  | .next t => t
  | .fault _ => s
  | .refused _ => s

/-- The status and data that the part is answering on Port F, idle before the request. -/
def answer (i : Instr) (s : State) : Option (Status × List Byte) :=
  match (after i s).txF with
  | some (.response r) => some (r.status, r.data)
  | _ => none

/-- The kinds of order that wait for Port C's transmitter or are in it. -/
def ordersOut (s : State) : List Order :=
  (match s.txC with
    | some (.order o) => [o.order]
    | _ => []) ++ s.orders.map (·.order)

/-- The six entries of the example after R53: two tested units, at sites 0 and 3. -/
theorem test_tested_units :
    ((testedUnits 4 0x000B 0 [ent 2 1, ent 5 3, ent 1 0, ent 1 4, ent 0 1, ent 3 9]).map fun u => (u.site, u.bin))
      = [(0, 0), (3, 8)] := by decide +kernel

/-- The figures after R67. -/
theorem test_basis_points : basisPoints 180 200 = 9000 ∧ basisPoints 180 201 = 8955 := by decide +kernel

/-- The renumbering example after R115: slots 9, 3 and 40 get 0, 1 and 2, the new lot 3, the counter 4. -/
theorem test_sequence_renumbers :
    let q (n : Nat) : Lot := { lotIn .waiting noRun with queueSeq := n }
    let s : State := { State.reset with
      seqCounter := 4294967295, queue := [9, 3, 40]
      lots := vset (vset (vset State.reset.lots 9 (q 4294967100)) 3 (q 4294967050)) 40 (q 4294967290) }
    let t := takeSequence 17 s
    ((t.lot 9).queueSeq, (t.lot 3).queueSeq, (t.lot 40).queueSeq, (t.lot 17).queueSeq, t.seqCounter)
      = (0, 1, 2, 3, 4) := by decide +kernel

/-- The lookahead example after R119: of seven queued lots the one at the fifth place is chosen. Costs 5, 3, 1, 1 and 0
are made by kit, temperature and program. -/
theorem test_lookahead :
    let st (mask kit : Nat) (temp : Int) (prog : Nat) : Step :=
      { stp with classMask := BitVec.ofNat 8 mask, kit := kit, setpoint := temp, programId := BitVec.ofNat 16 prog }
    let put (l : LotSlot) (r : RouteIx) (cls : Nat) (e : Step) (s : State) : State :=
      { s with
        lots := vset s.lots l { lotIn .waiting noRun with route := r, cls := cls }
        routes := vset s.routes r ⟨1, [e], 1⟩ }
    let s := put 1 1 1 (st 1 12 125 3301) <| put 2 2 1 (st 4 9 125 9) <| put 3 3 2 (st 4 12 0 9)
      <| put 4 4 2 (st 1 12 125 3301) <| put 5 5 2 (st 4 12 125 9) <| put 6 6 3 (st 4 12 125 9)
      <| put 7 7 3 (st 4 12 125 3301) { floorOf .idle with queue := [1, 2, 3, 4, 5, 6, 7] }
    chooseLot (s.setCell 1 { cel .idle with cls := 2 }) 1 = some 5 := by decide +kernel

/-! ## One step of each command -/

theorem test_power_on : after .powerOnReset (busy (lotRunning .running .testing)) = State.reset := by decide +kernel

theorem test_frame_too_short : after (.frameArrival .c (List.replicate 63 0)) State.reset = State.reset := by
  decide +kernel

/-- 4.9.1, event 1: a handler's JAM on a RUNNING cell. -/
theorem test_state_jam :
    let k := (after (.state (env 101) 5) (lotRunning .running .testing)).cell 1
    (k.state, k.cause, k.downCount, k.goldenValid, k.current) = (.down, some .jam, 1, false, some 2)
      ∧ (k.changed, k.repTester, k.repHandler) = (true, some .ready, some .jam) := by decide +kernel

/-- 4.9.1, event 3: the ALARM that brings the down counter to E. -/
theorem test_state_escalates :
    let s := world (lotIn .running oneRun) (runIn .testing) { celRun .running with downCount := 2 } [3]
    let t := after (.state (env 100) 2) s
    ((t.cell 1).state, (t.cell 1).cause, (t.cell 1).downCount, (t.run 2).state)
      = (.quarantined, some .escalation, 3, .testing) := by decide +kernel

/-- A preparation of run 2 in the stage `g`. -/
def prepIn (g : Stage) : Prep :=
  { purpose := .new, origin := .assignment, target := some 2, stage := g, goldenPlanned := true, goldenTaken := false,
    orderedKit := some 12, orderedTemp := some 125, goldenSites := some 4, goldenMin := some 3, setAside := none }

/-- Cell 1 in the state `st`, with a preparation in the stage `g` and its deadline. -/
def preparing (st : CellState) (g : Stage) (d : DeadlineKind) : Cell :=
  { celRun st with prep := some (prepIn g), deadline := some ⟨d, 30000⟩, lastLoad := some ⟨3301, 4, 0xABCD⟩ }

/-- Lot 7001 with its first run ASSIGNED to the cell `k`. -/
def assigned (k : Cell) : State := world (lotIn .waiting oneRun) (runIn .assigned) k [3]

/-- 5.10.1, event 2: the match ends the changeover and the load begins, under the load limit of 120 s. -/
theorem test_setupDone :
    let k := { preparing .changeover .changeover .changeover with kit := none, temp := none, program := none }
    let t := after (.setupDone (env 101) 12 125) (assigned k)
    ((t.cell 1).state, (t.cell 1).kit, (t.cell 1).temp, (t.cell 1).deadline, ordersOut t)
      = (.loading, some 12, some 125, some ⟨.load, 140000⟩, [.load 3301 4]) := by decide +kernel

/-- 5.10.1, event 3: the load done, the golden check begins at both stations. -/
theorem test_loadDone :
    let k := { preparing .loading .loading .load with program := none }
    let t := after (.loadDone (env 100) 3301 4 0xABCD) (assigned k)
    ((t.cell 1).state, (t.cell 1).program, (t.cell 1).deadline, ordersOut t)
      = (.golden, some ⟨3301, 4, 0xABCD⟩, some ⟨.golden, 80000⟩, [.golden 4, .golden 4]) := by decide +kernel

/-- R102: a LOAD_FAIL in LOADING is a fault of cause LOAD; the ASSIGNED run is withdrawn. -/
theorem test_loadFail :
    let t := after (.loadFail (env 100) 3301 4) (assigned (preparing .loading .loading .load))
    ((t.cell 1).state, (t.cell 1).cause, (t.cell 1).program, (t.run 2).state, (t.lot 3).toAssign)
      = (.down, some .load, none, .free, 2) := by decide +kernel

/-- 5.10.1, event 4: sites 0, 1, 3 and 7 pass; three of four enabled sites meet the minimum, and the run starts. -/
theorem test_goldenDone :
    let t := after (.goldenDone (env 100) 0x008B) (assigned { preparing .golden .golden .golden with enabled := 0 })
    ((t.cell 1).state, (t.cell 1).enabled, (t.cell 1).goldenValid, (t.run 2).state, (t.lot 3).state, ordersOut t)
      = (.running, 0x000B, true, .testing, .running, [.start 7001 0 0x000B binMap, .start 7001 0 0x000B binMap]) := by
  decide +kernel

/-- Run 53 of 7.9.1 as its event 1 finds it. -/
def run53 : Run :=
  { runIn .testing with tested := 38, good := 31, ledger := #v[28, 3, 5, 2, 0, 0, 0, 0] }

/-- Its lot, of one run, and the cell with the expectation 310. -/
def lot53 : Lot :=
  { lotIn .running oneRun with
    q := 42, split := 1, runsPerStep := 1, toAssign := 0, stepStarted := true, step := 1
    figures := { StepFigures.zero with tested := 40, good := 32 } }
def floor53 (r : Run) (e : Seq) (d : Option Deadline) : State :=
  { world lot53 r { celRun .running with expected := some e, deadline := d } [] with
    limits := vset State.reset.limits 0 { LimitSet.unloaded with loaded := true, yfinal := 8000, trayTol := 3, inputTol := 5 } }

/-- 7.9.1, event 1: target 310 is not taken, and the run waits in CLOSING for 5 s. -/
theorem test_passEnd_waits :
    let t := after (.passEnd (env 101) 0 42 310) (floor53 run53 310 none)
    ((t.run 2).state, (t.run 2).handlerFed, (t.run 2).target, (t.cell 1).deadline)
      = (.closing, some 42, some 310, some ⟨.closing, 25000⟩) := by decide +kernel

/-- 7.9.1, event 4: the retest pass closes, what is outstanding becomes shortfall, and UNLOAD goes out. -/
theorem test_passEnd_closes :
    let r := { run53 with pass := 1, tested := 40, ledger := #v[30, 4, 1, 3, 0, 0, 0, 0], outstanding := 2, recovered := 2 }
    let t := after (.passEnd (env 101) 1 3 311) (floor53 r 312 none)
    ((t.run 2).state, (t.run 2).outstanding, (t.run 2).shortfall, (t.cell 1).deadline, ordersOut t)
      = (.ending, 0, 2, some ⟨.counts, 80000⟩, [.unload 7001 0]) := by decide +kernel

/-- 7.9.1, event 2: the touchdown reaches the target, and pass 1 begins with the five units of tray 2. -/
theorem test_touchdown_reaches_target :
    let r := { run53 with state := .closing, target := some 310, handlerFed := some 42 }
    let t := after (.touchdown (env 100) 310 [ent 0 1, ent 1 7]) (floor53 r 310 (some ⟨.closing, 25000⟩))
    ((t.run 2).state, (t.run 2).pass, (t.run 2).tested, (t.run 2).ledger)
        = (.testing, 1, 40, #v[29, 3, 0, 3, 0, 0, 0, 0])
      ∧ ((t.run 2).outstanding, (t.cell 1).expected, ordersOut t) = (5, some 311, [.retest 1 5 4]) := by decide +kernel

/-- 7.9.1, event 3: three units of a retest pass. -/
theorem test_touchdown_retest :
    let r := { run53 with pass := 1, tested := 40, ledger := #v[29, 3, 0, 3, 0, 0, 0, 0], outstanding := 5 }
    let t := after (.touchdown (env 100) 311 [ent 0 1, ent 1 2, ent 2 3]) (floor53 r 311 none)
    ((t.run 2).tested, (t.run 2).ledger, (t.run 2).outstanding, (t.run 2).recovered)
      = (40, #v[30, 4, 1, 3, 0, 0, 0, 0], 2, 2) := by decide +kernel

/-- 7.9.1, event 5: the counts agree, the step closes and the lot finishes with grades 30 and 4. -/
theorem test_runCounts :
    let r := { run53 with
      state := .ending, pass := 1, tested := 40, ledger := #v[30, 4, 1, 3, 0, 0, 0, 0], shortfall := 2, recovered := 2
      handlerFed := some 42 }
    let t := after (.runCounts (env 101) 42 #v[30, 4, 1, 4, 0, 0, 0, 0]) (floor53 r 312 (some ⟨.counts, 80000⟩))
    ((t.lot 3).state, (t.lot 3).gradeQty, (t.lot 3).holds, (t.run 2).state, (t.cell 1).state)
      = (.finished, #v[30, 4, 0, 0], [], .free, .idle) := by decide +kernel

/-- The defaults of Table 10-4 as SET_PROFILE carries them. -/
def profile : ProfileArgs := ⟨65534, 1, 64, 10, 120, 60, 5, 60, 1, 30, 4, 3, 1⟩

theorem test_setProfile :
    answer (.setProfile (hd 18) { profile with cellsInUse := 65 }) State.reset = some (.range, [])
      ∧ (after (.setProfile (hd 18) { profile with cellsInUse := 8 }) State.reset).profile.cellsInUse = 8 := by
  decide +kernel

theorem test_operate :
    let s : State := { floorOf .offline with phase := .config, profile := { Profile.default with cellsInUse := 1 } }
    ((after (.operate (hd 0)) s).phase, (after (.operate (hd 0)) s).stations) = (.operate, []) := by decide +kernel

theorem test_setClock :
    (answer (.setClock (hd 6) 9) (floorOf .idle), (after (.setClock (hd 6) 9) (floorOf .idle)).floorClock)
      = (some (.ok, [0, 0, 0, 0, 0, 5]), 9) := by decide +kernel

/-- The LOAD_LIMITS of 2.7.1, event 2. -/
def limits271 : LimitArgs :=
  { ymin := 12000, nmin := 0, fmax := vset (Vector.replicate 15 10000) 6 300, ywin := 7500, w := 40, nsite := 50,
    dmax := 500, cmax := 6, yfinal := 8600, trayTol := 3, inputTol := 5, polYield := 0, polBin := 1, polWindow := 9,
    polSite := 2, polConsec := 1 }

theorem test_loadLimits :
    let s := after (.loadLimits (hd 52) 9 limits271) State.reset
    let x := s.limit 9
    (answer (.loadLimits (hd 52) 9 limits271) State.reset, x.loaded, x.ymin, x.nmin, x.w, x.polWindow, x.polSite)
      = (some (.ok, [4]), true, 10000, 1, 32, .stop, .mark) := by decide +kernel

/-- A step record that names limit set 9 and a setpoint above the range. -/
def stepArgs : StepArgs :=
  ⟨1, 12, 180, 3301, 4, 0xABCD, 9, 4, 3, 2, 900, 0, 1, binMap, #v[0x21, 0x22, 0x10, 0, 0, 0, 0, 0]⟩

theorem test_loadRoute_not_found :
    answer (.loadRoute (hd 50) 5 4410 1 [stepArgs]) State.reset = some (.notFound, []) := by decide +kernel

theorem test_loadRoute_clamps :
    let s : State := { State.reset with limits := vset State.reset.limits 9 { LimitSet.unloaded with loaded := true } }
    (answer (.loadRoute (hd 50) 5 4410 1 [stepArgs]) s,
        ((after (.loadRoute (hd 50) 5 4410 1 [stepArgs]) s).route 5).steps.map (·.setpoint)) = (some (.ok, [1]), [175]) := by
  decide +kernel

theorem test_loadCell :
    (answer (.loadCell (hd 6) 1 102 102 0) (floorOf .offline), answer (.loadCell (hd 6) 2 100 103 0) (floorOf .offline),
        answer (.loadCell (hd 6) 1 102 101 8) (floorOf .offline),
        ((after (.loadCell (hd 6) 1 102 101 7) (floorOf .offline)).cell 1).cls)
      = (some (.conflict, []), some (.conflict, []), some (.range, []), 7) := by decide +kernel

/-- 6.9.1, first choice: a cell that matches starts the run at once, and the lot is RUNNING. -/
theorem test_lotAdd :
    let t := after (.lotAdd (hd 15) 7600 5 2400 2 1 0) (floorOf .idle)
    ((t.lot 0).state, (t.lot 0).q, (t.lot 0).runs[0], (t.run 0).state) = (.running, 2400, .run 0, .testing)
      ∧ ((t.cell 1).state, t.queue, t.seqCounter) = (.running, [], 1)
      ∧ ordersOut t = [.start 7600 0 15 binMap, .start 7600 0 15 binMap] := by decide +kernel

theorem test_lotPriority :
    let t := after (.lotPriority (hd 9) 7001 0) waitingLot
    ((t.lot 3).cls, (t.lot 3).classSince, t.queue) = (0, 20000, [3]) := by decide +kernel

/-- 8.7, event 6: MARK on a FINISHED lot makes it HELD. -/
theorem test_lotHold_finished :
    let t := after (.lotHold (hd 9) 7001 2) (world (lotIn .finished noRun) .free (cel .down) [])
    ((t.lot 3).state, (t.lot 3).holds.map (·.policy)) = (.held, [.mark]) := by decide +kernel

/-- 1.7.1, event 3: the release of the last hold resumes the STOPPED run. -/
theorem test_lotRelease :
    let x := { lotIn .held oneRun with
      holds := [⟨.yield, none, .stop, 1, 0, some 8932⟩], stepStarted := true, toAssign := 0 }
    let r := { runIn .stopped with stoppedFrom := some .testing }
    let t := after (.lotRelease (hd 10) 7001 0 0xFF) (world x r (celRun .stopped) [])
    ((t.lot 3).state, (t.lot 3).holds, (t.lot 3).yieldWaived, (t.run 2).state, (t.cell 1).state, t.queue)
      = (.running, [], true, .testing, .running, []) := by decide +kernel

theorem test_lotScrap :
    let t := after (.lotScrap (hd 8) 7001) (lotRunning .running .testing)
    ((t.lot 3).state, (t.run 2).state, (t.cell 1).state, (t.route 5).refs, t.queue, ordersOut t)
      = (.scrapped, .free, .idle, 0, [], [.stop]) := by decide +kernel

theorem test_lotRetire :
    (answer (.lotRetire (hd 8) 7001) waitingLot,
        ((after (.lotRetire (hd 8) 7001) (world (lotIn .scrapped noRun) .free (cel .idle) [])).lot 3).state)
      = (some (.wrongState, []), .vacant) := by decide +kernel

theorem test_lotQuery_not_found : answer (.lotQuery (hd 8) 7002) waitingLot = some (.notFound, []) := by decide +kernel

theorem test_runAbort :
    let t := after (.runAbort (hd 9) 7001 0) (lotRunning .running .testing)
    ((t.lot 3).state, (t.lot 3).holds.map (·.kind), (t.lot 3).closedRuns, (t.run 2).state, ordersOut t)
      = (.held, [.recon], 1, .free, [.stop]) := by decide +kernel

theorem test_cellClear :
    (answer (.cellClear (hd 1) 1) (floorOf .down), ((after (.cellClear (hd 1) 1) (floorOf .quarantined)).cell 1).state)
      = (some (.wrongState, [8, 1, 0, 1, 0]), .idle) := by decide +kernel

theorem test_cellReset :
    (answer (.cellReset (hd 1) 1) (floorOf .quarantined), ((after (.cellReset (hd 1) 1) (floorOf .idle)).cell 1).state)
      = (some (.wrongState, []), .offline) := by decide +kernel

theorem test_cellDrain :
    let t := after (.cellDrain (hd 2) 1 1) (floorOf .idle)
    ((t.cell 1).draining, (after (.cellDrain (hd 2) 1 0) t).cell 1) = (true, cel .idle) := by decide +kernel

theorem test_cellCountersClear :
    let t := after (.cellCountersClear (hd 1) 1) (world .vacant .free { cel .idle with acc := ⟨1, 2, 3, 4, 5⟩ } [])
    ((t.cell 1).acc, (t.cell 1).since) = (.zero, 20000) := by decide +kernel

theorem test_cellQuery_range :
    answer (.cellQuery (hd 1) 64) (floorOf .idle) = some (.range, []) := by decide +kernel

/-- Lot 8001 of 8.7: 950 of grade 1, 30 of grade 2, FINISHED. -/
def lot8001 : Lot := { lotIn .finished noRun with tag := 8001, gradeQty := #v[950, 30, 0, 0] }

/-- Shipment 5500 of 8.7, its maximum 2500, in state `st` with quantity `q` and members `ms`. -/
def ship5500 (st : ShipState) (q : Nat) (ms : List Member) : Shipment := ⟨5500, 4410, 1, 2500, q, st, ms⟩

/-- The floor with lot `x` and shipment `p` in record 0. -/
def shipFloor (x : Lot) (p : Shipment) : State :=
  { world x .free (cel .idle) [] with ships := vset State.reset.ships 0 p }

/-- 8.7, event 1. -/
theorem test_shipOpen :
    (answer (.shipOpen (hd 16) 5500 4410 1 2500) (shipFloor lot8001 .vacant),
        (after (.shipOpen (hd 16) 5500 4410 1 2500) (shipFloor lot8001 .vacant)).ship 0)
      = (some (.ok, [0]), ship5500 .opened 0 []) := by decide +kernel

/-- 8.7, events 2 and 4: 950 fits, and a sum one above the maximum is RANGE. -/
theorem test_shipAdd :
    (answer (.shipAdd (hd 16) 5500 8001) (shipFloor lot8001 (ship5500 .opened 0 [])),
        answer (.shipAdd (hd 16) 5500 8001) (shipFloor lot8001 (ship5500 .opened 1551 [])),
        ((after (.shipAdd (hd 16) 5500 8001) (shipFloor lot8001 (ship5500 .opened 0 []))).lot 3).marks)
      = (some (.ok, [0, 3, 182, 1]), some (.range, []), #v[.inShipment 0, .free, .free, .free]) := by decide +kernel

/-- The lot of the first member, its portion in shipment 0, and the shipment that holds it. -/
def inShip : Lot := { lot8001 with marks := #v[.inShipment 0, .free, .free, .free] }
def oneMember (st : ShipState) : Shipment := ship5500 st 950 [⟨8001, 3, 950⟩]

theorem test_shipRemove :
    let t := after (.shipRemove (hd 16) 5500 8001) (shipFloor inShip (oneMember .opened))
    (t.ship 0, (t.lot 3).marks) = (ship5500 .opened 0 [], lot8001.marks) := by decide +kernel

theorem test_shipSeal :
    ((after (.shipSeal (hd 8) 5500) (shipFloor inShip (oneMember .opened))).ship 0,
        answer (.shipSeal (hd 8) 5500) (shipFloor inShip (ship5500 .opened 0 [])))
      = (oneMember .sealed, some (.wrongState, [])) := by decide +kernel

/-- 8.7, event 7: a member whose lot is HELD refuses the release with its tag. -/
theorem test_shipRelease_held :
    answer (.shipRelease (hd 8) 5500) (shipFloor { inShip with state := .held } (oneMember .sealed))
      = some (.memberHeld, [0, 0, 0, 0, 0, 0, 0x1F, 0x41]) := by decide +kernel

/-- R161: a lot with a portion left stays FINISHED; one with none left is RELEASED. -/
theorem test_shipRelease :
    let t := after (.shipRelease (hd 8) 5500) (shipFloor inShip (oneMember .sealed))
    let u := after (.shipRelease (hd 8) 5500)
      (shipFloor { inShip with gradeQty := #v[950, 0, 0, 0] } (oneMember .sealed))
    ((t.ship 0).state, (t.lot 3).state, (u.lot 3).state, (u.route 5).refs) = (.released, .finished, .released, 0) := by
  decide +kernel

theorem test_shipCancel :
    let t := after (.shipCancel (hd 8) 5500) (shipFloor inShip (oneMember .sealed))
    (t.ship 0, (t.lot 3).marks) = (.vacant, lot8001.marks) := by decide +kernel

theorem test_shipRetire :
    (answer (.shipRetire (hd 8) 5500) (shipFloor inShip (oneMember .sealed)),
        (after (.shipRetire (hd 8) 5500) (shipFloor inShip (oneMember .released))).ship 0)
      = (some (.wrongState, []), .vacant) := by decide +kernel

theorem test_shipQuery_not_found :
    answer (.shipQuery (hd 8) 5501) (shipFloor inShip (oneMember .sealed)) = some (.notFound, []) := by decide +kernel

/-- R178: the count, then tag, slot, class, sequence and runs to assign of each entry. -/
theorem test_queueQuery :
    answer (.queueQuery (hd 0)) waitingLot
      = some (.ok, [0, 1, 0, 0, 0, 0, 0, 0, 0x1B, 0x59, 3, 2, 0, 0, 0, 0, 1]) := by decide +kernel

/-- R178, R174: STATUS in CONFIG; CELL_CLEAR is refused there. -/
theorem test_status_in_config :
    ((answer (.status (hd 0)) State.reset).map (·.1), answer (.cellClear (hd 1) 0) State.reset)
      = (some .ok, some (.wrongState, [])) := by decide +kernel

theorem test_floorReset :
    let t := after (.floorReset (hd 0)) (lotRunning .running .testing)
    ((t.lot 3).state, (t.run 2).state, (t.cell 1).state, (t.cell 1).kit, (t.route 5).refs, t.queue)
      = (.vacant, .free, .offline, some 12, 0, []) := by decide +kernel

theorem test_unknownRequest :
    ((answer (.unknownRequest (hd 0) 0x0399) State.reset).map (·.1),
        (answer (.unknownRequest ⟨2, 7, 0⟩ 0x0399) State.reset).map (·.1)) = (some .badArg, some .denied) := by
  decide +kernel

/-- R77: a tester last heard 10 s before is lost; one heard later is not. -/
theorem test_heartbeat :
    let at_ (n : Nat) := world .vacant .free { cel .idle with heardTester := some n } []
    ((after (.heartbeatExpiry 1 .tester) (at_ 10000)).cell 1 |>.state,
        (after (.heartbeatExpiry 1 .tester) (at_ 10001)).cell 1 |>.state) = (.lost, .idle) := by decide +kernel

theorem test_stageDeadline :
    let k := { preparing .changeover .changeover .changeover with deadline := some ⟨.changeover, 20000⟩ }
    let t := after (.stageDeadlineExpiry 1) (assigned k)
    ((t.cell 1).state, (t.cell 1).cause, (t.cell 1).current, (t.run 2).state) = (.down, some .timeout, none, .free) := by
  decide +kernel

theorem test_closingDeadline :
    let r := { run53 with state := .closing, target := some 310, handlerFed := some 42 }
    let t := after (.closingDeadlineExpiry 1) (floor53 r 310 (some ⟨.closing, 20000⟩))
    ((t.run 2).state, (t.run 2).pass, (t.lot 3).holds.map (·.kind), ordersOut t)
      = (.testing, 1, [.data], [.retest 1 5 4]) := by decide +kernel

/-- R150, R152: RECON at the run, then FINAL at the step, 31 good of 40 tested being below 8000. -/
theorem test_countsDeadline :
    let t := after (.countsDeadlineExpiry 1) (floor53 { run53 with state := .ending } 312 (some ⟨.counts, 20000⟩))
    ((t.lot 3).state, (t.lot 3).holds.map (·.kind), (t.run 2).state) = (.held, [.recon, .final], .free) := by decide +kernel

/-- R117: the class falls by one after 30 minutes. -/
theorem test_aging :
    let t := after (.aging 3) { waitingLot with timer := 1800000 }
    ((t.lot 3).cls, (t.lot 3).classSince, t.queue) = (1, 1800000, [3])
      ∧ after (.aging 3) { waitingLot with timer := 1799999 } = { waitingLot with timer := 1799999 } := by
  decide +kernel

/-- 10.8, event 3: the oldest notice leaves with the gap marker, and the flag is cleared. -/
theorem test_transmitComplete_gap :
    let n : NoticeFrame := ⟨1, 65534, 5, .lotFinished 7001 (Vector.replicate 4 0)⟩
    let s : State := { busy (floorOf .idle) with
      outbound := List.replicate 128 (.notice n), noticeCount := 128, gapFlag := true }
    let t := after (.transmitComplete .f) s
    (t.txF, t.noticeCount, t.gapFlag, t.outbound.length) = (some (.notice n true), 127, false, 127) := by decide +kernel

/-- 9.5, event 3: with no own frame waiting the oldest forwarded frame leaves. -/
theorem test_transmitComplete_forwards :
    let s : State := { busy (floorOf .idle) with fwdCF := [[1], [2]] }
    ((after (.transmitComplete .f) s).txF, (after (.transmitComplete .f) s).fwdCF) = (some (.forwarded [1]), [[2]]) := by
  decide +kernel

theorem test_tick : (nextOf (step State.reset)).map (fun t => (t.floorClock, t.timer)) = some (1, 1) := by decide +kernel

/-! ## Witnesses: states and operands that meet the hypotheses of each statement -/

/-- Idle at the first and at the last millisecond of the timer; a station heard 9,999 ms ago; a deadline one millisecond
ahead; a lot one millisecond short of its aging period; idle transmitters. -/
theorem witness_IdleStepsTickTheClocks :
    (State.reset.pending = [] ∧ State.reset.timer + 1 < 2 ^ 64)
      ∧ ({ State.reset with timer := 2 ^ 64 - 2 }.pending = [] ∧ { State.reset with timer := 2 ^ 64 - 2 }.timer + 1 < 2 ^ 64)
      ∧ ({ State.reset with timer := 2 ^ 64 - 1 }.pending = []
        ∧ 2 ^ 64 ≤ { State.reset with timer := 2 ^ 64 - 1 }.timer + 1)
      ∧ heartbeatDue (world .vacant .free { cel .idle with heardTester := some 10001 } []) 1 .tester = false
      ∧ (let s := world .vacant .free { celRun .running with deadline := some ⟨.counts, 20001⟩ } []
        ∀ d ∈ (s.cell 1).deadline, s.timer < d.expiry)
      ∧ (let s := { waitingLot with timer := 1799999 }
        s.timer < (s.lot 3).classSince + s.profile.aging * 60000)
      ∧ State.reset.txF = none ∧ State.reset.txC = none := by decide +kernel

/-- Bytes with their own frame check sequence. -/
def checked (b : List Byte) : List Byte := b ++ beBytes 4 (crc32 b).toNat

/-- The frame of a floor message of class `cls` and kind `kind` to station `dst`. -/
def message (cls : Byte) (kind dst : BitVec 16) : List Byte :=
  ethernetFrame 0xFFFFFFFFFFFF 5 (messageBytes cls kind dst 100 0 []) (List.replicate 30 0)

/-- What FramesGoByTheirChecks calls a good frame. -/
def goodFrame (b : List Byte) : Bool :=
  decide (64 ≤ b.length ∧ b.length ≤ 9018) && crc32 (b.take (b.length - 4)) == fieldAt 32 b (b.length - 4) 4

/-- Frames of 63 and 9,019 bytes; a good frame of 64 bytes of another type; one of the floor's type that fails the
message check; and messages just outside the kinds of reports, elsewhere and to the part. -/
theorem witness_FramesGoByTheirChecks :
    goodFrame (List.replicate 63 0) = false ∧ goodFrame (List.replicate 9019 0) = false
      ∧ (let b := checked (List.replicate 60 0)
        goodFrame b = true ∧ fieldAt 16 b 12 2 ≠ 0x88B5)
      ∧ (let b := checked (List.replicate 12 0 ++ [0x88, 0xB5] ++ List.replicate 46 0)
        goodFrame b = true ∧ fieldAt 16 b 12 2 = 0x88B5 ∧ messageCheckOk (payload b) = false)
      ∧ (let b := message 1 0x0100 7
        let m := payload b
        goodFrame b = true ∧ fieldAt 16 b 12 2 = 0x88B5 ∧ messageCheckOk m = true ∧ fieldAt 16 m 4 2 ≠ 65534
          ∧ numAt m 2 2 < 0x0101)
      ∧ (let b := message 1 0x0109 65534
        let m := payload b
        goodFrame b = true ∧ fieldAt 16 b 12 2 = 0x88B5 ∧ messageCheckOk m = true ∧ fieldAt 16 m 4 2 = 65534
          ∧ numAt m 1 1 ≠ 3 ∧ 0x0108 < numAt m 2 2) := by decide +kernel

/-- An order; a notice with the gap marker; a response whose body has 4,096 bytes. -/
theorem witness_FramesGoByTheirChecks_own :
    Order.stop.body.length ≤ 4096
      ∧ (let n : NoticeFrame := ⟨1, 65534, 5, .cellChanged 1 .idle none⟩
        let body := beBytes 6 n.floorTime.toNat ++ [1] ++ n.notice.fields
        numAt body 0 6 = n.floorTime.toNat ∧ numAt body 6 1 = 1 ∧ body.drop 7 = n.notice.fields ∧ 7 ≤ body.length
          ∧ body.length ≤ 4096)
      ∧ (BitVec.ofNat 8 Status.ok.code :: List.replicate 4095 (0 : Byte)).length ≤ 4096 := by decide +kernel

/-- A STATE in the shortest frame, a TOUCHDOWN of sixteen entries, and a PASS_END of 999,999 units. -/
theorem witness_ReportFramesCarryTheirReports :
    (let i : Instr := .state { env 100 with pad := List.replicate 29 0 } 0
     i.wf = true ∧ i.reportFrame.isSome = true)
      ∧ (let i : Instr := .touchdown (env 100) 65535 (List.replicate 16 (ent 15 15))
        i.wf = true ∧ i.reportFrame.isSome = true)
      ∧ (let i : Instr := .passEnd (env 101) 3 999999 65535
        i.wf = true ∧ i.reportFrame.isSome = true) := by decide +kernel

/-- A request without a body, one with a route of no step, and one of no known kind. -/
theorem witness_RequestFramesCarryTheirRequests :
    (let i : Instr := .operate (hd 0)
     i.wf = true ∧ (i.requestFrame 65534).isSome = true)
      ∧ (let i : Instr := .loadRoute (hd 6) 47 4410 0 []
        i.wf = true ∧ (i.requestFrame 65534).isSome = true)
      ∧ (let i : Instr := .unknownRequest (hd 3) 0x0399
        i.wf = true ∧ (i.requestFrame 65534).isSome = true) := by decide +kernel

/-- The forward queues and the order list at their last place and full, the notices at 127 and 128, and both ports
idle. -/
theorem witness_ListsTakeWhatIsMade :
    (busy (floorOf .idle)).txF = some (.forwarded []) ∧ (busy (floorOf .idle)).txC = some (.forwarded [])
      ∧ ({ busy State.reset with fwdCF := List.replicate 63 [] }.fwdCF.length < 64)
      ∧ ¬ ({ busy State.reset with fwdFC := List.replicate 64 [] }.fwdFC.length < 64)
      ∧ (State.reset.txF = none ∧ State.reset.outbound = [] ∧ State.reset.fwdCF = [])
      ∧ (State.reset.txC = none ∧ State.reset.orders = [] ∧ State.reset.fwdFC = [])
      ∧ (let s : State := { busy (floorOf .idle) with orders := List.replicate 254 ⟨101, 65534, .stop⟩ }
        s.txC = some (.forwarded []) ∧ (s.cell 1).tester = some 100 ∧ (s.cell 1).handler = some 101
          ∧ s.orders.length < 255)
      ∧ (let s : State := { busy State.reset with noticeCount := 127 }
        s.noticeCount < 128 ∧ s.txF = some (.forwarded []))
      ∧ (State.reset.noticeCount < 128 ∧ State.reset.txF = none ∧ State.reset.outbound = [])
      ∧ 128 ≤ { State.reset with noticeCount := 128 }.noticeCount
      ∧ ((ok (busy State.reset)).state.txF = some (.forwarded []))
      ∧ ((ok State.reset).state.txF = none ∧ (ok State.reset).state.outbound = []) := by decide +kernel

/-- A transmitter at work, and one idle with nothing waiting, on each port. -/
theorem witness_TransmittersChooseTheNextFrame :
    (busy State.reset).txF = some (.forwarded []) ∧ (busy State.reset).txC = some (.forwarded [])
      ∧ (State.reset.txF = none ∧ State.reset.outbound = [] ∧ State.reset.fwdCF = [] ∧ State.reset.noticeCount < 128)
      ∧ (State.reset.txC = none ∧ State.reset.orders = [] ∧ State.reset.fwdFC = []) := by decide +kernel

/-- Sixty-three and sixty-four responses waiting; a foreign source; an unknown kind and a wrong length; CELL_CLEAR in
CONFIG and SET_PROFILE in OPERATE. -/
theorem witness_RequestsAreJudgedInOrder :
    let r : Outbound := .response ⟨1, 65534, 0x0441, 0, .ok, []⟩
    let full (n : Nat) : State := { busy State.reset with outbound := List.replicate n r }
    (requestHead (.status (hd 0)) = some (hd 0) ∧ (Instr.status (hd 0)).kindCode = some 0x0341
      ∧ 64 ≤ responsesWaiting (full 64))
      ∧ (responsesWaiting (full 63) < 64 ∧ (⟨2, 7, 0⟩ : ReqHead).src ≠ (full 63).profile.floorHost)
      ∧ (requestHead (.unknownRequest (hd 0) 0x0399) = some (hd 0)
        ∧ (Instr.unknownRequest (hd 0) 0x0399).kindCode = some 0x0399
        ∧ responsesWaiting State.reset < 64 ∧ (hd 0).src = State.reset.profile.floorHost
        ∧ (Instr.status (hd 1)).wf = false)
      ∧ (admitted (.cellClear (hd 1) 0) (hd 1) State.reset ∧ State.reset.phase = .config
        ∧ (Instr.cellClear (hd 1) 0).kindCode = some 0x0320
        ∧ (0x0320 : BitVec 16).toNat ∉ [0x0301, 0x0302, 0x0303, 0x0304, 0x0305, 0x0306, 0x0341])
      ∧ (admitted (.setProfile (hd 18) profile) (hd 18) (floorOf .idle) ∧ (floorOf .idle).phase = .operate
        ∧ (Instr.setProfile (hd 18) profile).kindCode = some 0x0301) := by
  unfold admitted
  decide +kernel

/-- Where only one slot is filled, no tag stands twice. -/
theorem one_lot {s : State} (h : ∀ l, (s.lot l).state ≠ .vacant → l = 3) : s.lotTagsOk :=
  fun i j hi hj _ => (h i hi).trans (h j hj).symm

/-- Where only one shipment is filled, and all balance, the shipments are in order. -/
theorem one_ship {s : State} (b : ∀ n, (s.ship n).balanced) (h : ∀ n, (s.ship n).state ≠ .vacant → n = 0) : s.shipsOk :=
  ⟨b, fun i j hi hj _ => (h i hi).trans (h j hj).symm⟩

theorem witness_TagsFindTheirRecords :
    waitingLot.lotTagsOk ∧ (shipFloor lot8001 (oneMember .sealed)).shipsOk :=
  ⟨one_lot (by decide +kernel), one_ship (by unfold Shipment.balanced; decide +kernel) (by decide +kernel)⟩

/-- In CONFIG: values in range, values with the aging period one above its range, and equal stations. -/
theorem witness_ProfileAndClockAreSet :
    (admitted (.setProfile (hd 18) profile) (hd 18) State.reset ∧ State.reset.phase = .config
      ∧ profile.partStation ≠ profile.floorHost)
      ∧ (admitted (.setProfile (hd 18) { profile with aging := 241 }) (hd 18) State.reset
        ∧ ¬ ({ profile with aging := 241 }.aging.toNat ≤ 240))
      ∧ (admitted (.setProfile (hd 18) { profile with partStation := 1 }) (hd 18) State.reset
        ∧ { profile with partStation := 1 }.partStation = { profile with partStation := 1 }.floorHost)
      ∧ admitted (.setClock (hd 6) 9) (hd 6) (floorOf .idle) := by
  unfold admitted
  decide +kernel

theorem witness_OperateEntersThePhase :
    (admitted (.operate (hd 0)) (hd 0) (floorOf .idle) ∧ (floorOf .idle).phase = .operate)
      ∧ (let s : State := { floorOf .offline with phase := .config }
        admitted (.operate (hd 0)) (hd 0) s ∧ s.phase = .config ∧ ∀ e ∈ s.stations, e.station ≠ s.profile.partStation)
      ∧ (let s : State := { floorOf .offline with phase := .config, stations := [⟨65534, 1, .tester⟩] }
        admitted (.operate (hd 0)) (hd 0) s ∧ s.phase = .config
          ∧ ∃ e ∈ s.stations, e.station = s.profile.partStation) := by
  unfold admitted
  decide +kernel

/-- A route index above 47; an unloaded set; a referenced route; and a load that is taken. -/
theorem witness_LoadRouteReplacesTheRoute :
    let a : StepArgs := { stepArgs with limitSet := 0 }
    let s := floorOf .idle
    (admitted (.loadRoute (hd 6) 48 0 0 []) (hd 6) s ∧ ¬ ((48 : Byte).toNat ≤ 47))
      ∧ (admitted (.loadRoute (hd 50) 47 4410 1 [stepArgs]) (hd 50) s ∧ (47 : Byte).toNat ≤ 47 ∧ (1 : Byte).toNat ≤ 6
        ∧ (∀ b ∈ [stepArgs], stepInRange b = true) ∧ ∃ b ∈ [stepArgs], (s.limit (stepLimitIx b)).loaded = false)
      ∧ (admitted (.loadRoute (hd 50) 5 4410 1 [a]) (hd 50) s ∧ (∀ b ∈ [a], stepInRange b = true)
        ∧ (∀ b ∈ [a], (s.limit (stepLimitIx b)).loaded = true) ∧ (5 : RouteIx).val = (5 : Byte).toNat
        ∧ 0 < (s.route 5).refs)
      ∧ (admitted (.loadRoute (hd 50) 47 4410 1 [a]) (hd 50) s ∧ (47 : RouteIx).val = (47 : Byte).toNat
        ∧ (s.route 47).refs = 0) := by
  unfold admitted
  decide +kernel

theorem witness_LoadLimitsReplacesTheSet :
    (admitted (.loadLimits (hd 52) 64 limits271) (hd 52) State.reset ∧ 63 < (64 : Byte).toNat)
      ∧ (admitted (.loadLimits (hd 52) 63 limits271) (hd 52) State.reset ∧ (63 : LimitIx).val = (63 : Byte).toNat) := by
  unfold admitted
  decide +kernel

/-- A cell out of use; equal stations; a cell at work; and a cell that is configured. -/
theorem witness_LoadCellConfiguresTheCell :
    (admitted (.loadCell (hd 6) 64 102 103 7) (hd 6) State.reset
      ∧ ¬ ((64 : Byte).toNat < State.reset.profile.cellsInUse))
      ∧ (admitted (.loadCell (hd 6) 1 102 102 7) (hd 6) (floorOf .offline) ∧ (1 : CellIx).val = (1 : Byte).toNat
        ∧ (7 : Fin 8).val = (7 : Byte).toNat ∧ (1 : Byte).toNat < (floorOf .offline).profile.cellsInUse
        ∧ (102 : Station) ≠ 0 ∧ (102 : Station) ≠ 65535)
      ∧ (let s := floorOf .idle
        admitted (.loadCell (hd 6) 1 102 103 7) (hd 6) s ∧ s.phase = .operate ∧ (s.cell 1).state ≠ .offline
          ∧ ¬ ((102 : Station) = 103 ∨ ∃ e ∈ s.stations, e.cell ≠ 1 ∧ (e.station = 102 ∨ e.station = 103)))
      ∧ (let s := floorOf .offline
        admitted (.loadCell (hd 6) 63 102 65534 0) (hd 6) s ∧ (63 : Byte).toNat < s.profile.cellsInUse
          ∧ ¬ ((102 : Station) = 65534 ∨ ∃ e ∈ s.stations, e.cell ≠ 63 ∧ (e.station = 102 ∨ e.station = 65534))
          ∧ ¬ (s.phase = .operate ∧ ((s.cell 63).state ≠ .offline ∨ (s.cell 63).current ≠ none
            ∨ (s.cell 63).reserved ≠ none ∨ (s.cell 63).stack ≠ []))) := by
  unfold admitted
  decide +kernel

/-- A quantity of 0; an empty route; a tag in use; a full lot table; and a lot of 999,999 units that no cell takes. -/
theorem witness_LotAddFillsARecord :
    let add (tag : Tag) (route : Byte) (q : BitVec 24) : Instr := .lotAdd (hd 15) tag route q 3 4 1
    let s := floorOf .down
    (inOperate (add 7600 5 0) (hd 15) s ∧ ¬ (1 ≤ (0 : BitVec 24).toNat))
      ∧ (inOperate (add 7600 47 1) (hd 15) s ∧ (47 : RouteIx).val = (47 : Byte).toNat ∧ (s.route 47).steps = [])
      ∧ (inOperate (add 7001 5 1) (hd 15) waitingLot ∧ (waitingLot.route 5).steps ≠ [] ∧ findLot waitingLot 7001 ≠ none)
      ∧ (let f : State := { s with lots := Vector.replicate 256 (lotIn .waiting noRun) }
        inOperate (add 7600 5 1) (hd 15) f ∧ (f.route 5).steps ≠ [] ∧ findLot f 7600 = none
          ∧ ∀ l, (f.lot l).state ≠ .vacant)
      ∧ (inOperate (add 7600 5 999999) (hd 15) s ∧ (5 : RouteIx).val = (5 : Byte).toNat
        ∧ (s.route 5).steps.head? = some stp ∧ findLot s 7600 = none ∧ (s.lot 0).state = .vacant
        ∧ (∀ m : LotSlot, m < 0 → (s.lot m).state ≠ .vacant) ∧ 1 ≤ stp.maxRuns ∧ s.seqCounter < 4294967295
        ∧ 0 ∉ s.queue ∧ noCellFor stp s
        ∧ noCandidateFor (3 : Byte).toNat ((1 : Byte) != 0) stp (s.setLot 0 { Lot.vacant with cls := (3 : Byte).toNat })) := by
  unfold inOperate admitted noCellFor noCandidateFor
  decide +kernel

/-- A class of 4; an unknown tag; a FINISHED lot; the class the lot has; and a lot out of the
queue. -/
theorem witness_ClassChangesMoveTheLot :
    let p (tag : Tag) (cls : Byte) : Instr := .lotPriority (hd 9) tag cls
    let s := waitingLot
    (inOperate (p 7001 4) (hd 9) s ∧ 3 < (4 : Byte).toNat)
      ∧ (inOperate (p 7002 3) (hd 9) s ∧ findLot s 7002 = none)
      ∧ (let f := world (lotIn .finished noRun) .free (cel .down) []
        inOperate (p 7001 0) (hd 9) f ∧ findLot f 7001 = some 3
          ∧ ¬ ((f.lot 3).state = .waiting ∨ (f.lot 3).state = .running ∨ (f.lot 3).state = .held))
      ∧ (inOperate (p 7001 2) (hd 9) s ∧ findLot s 7001 = some 3 ∧ (s.lot 3).state = .waiting
        ∧ (s.lot 3).cls = (2 : Byte).toNat)
      ∧ (let f := world { lotIn .held noRun with holds := [stopHold] } .free (cel .down) []
        inOperate (p 7001 0) (hd 9) f ∧ findLot f 7001 = some 3 ∧ (f.lot 3).state = .held
          ∧ (f.lot 3).cls ≠ (0 : Byte).toNat ∧ 3 ∉ f.queue) := by
  unfold inOperate admitted
  decide +kernel

/-- A queued lot that moves to class 0; aging that is off, and aging due in this millisecond. -/
theorem witness_ClassChangesMoveTheLot_moves :
    let s := waitingLot
    (inOperate (.lotPriority (hd 9) 7001 0) (hd 9) s ∧ findLot s 7001 = some 3 ∧ (s.lot 3).state = .waiting
        ∧ (s.lot 3).cls ≠ (0 : Byte).toNat ∧ 3 ∈ s.queue ∧ noCellFor (stepOf s (s.lot 3)) s
        ∧ noCandidateFor (0 : Byte).toNat (s.lot 3).preempt (stepOf s (s.lot 3))
          (s.setLot 3 { s.lot 3 with cls := (0 : Byte).toNat, classSince := s.timer }))
      ∧ { s with profile := { Profile.default with aging := 0 } }.profile.aging = 0
      ∧ (let a : State := { s with timer := 1800000 }
        a.profile.aging ≠ 0 ∧ 3 ∈ a.queue ∧ (a.lot 3).cls = 2
          ∧ (a.lot 3).classSince + a.profile.aging * 60000 ≤ a.timer ∧ noCellFor (stepOf a (a.lot 3)) a) := by
  unfold inOperate admitted noCellFor noCandidateFor
  decide +kernel

/-- A policy of 3; an unknown tag; a SCRAPPED lot; a WAITING lot and a FINISHED one. -/
theorem witness_LotHoldRaisesEngineer :
    let hold (tag : Tag) (p : Byte) : Instr := .lotHold (hd 9) tag p
    let ready (s : State) : Prop := (s.lot 3).holdsKind .engineer none = false ∧ (s.lot 3).lotBlocked = false
      ∧ (s.lot 3).idle ∧ inPlace 3 s
    (inOperate (hold 7001 3) (hd 9) waitingLot ∧ 2 < (3 : Byte).toNat)
      ∧ (inOperate (hold 7002 2) (hd 9) waitingLot ∧ findLot waitingLot 7002 = none)
      ∧ (let s := world (lotIn .scrapped noRun) .free (cel .down) []
        inOperate (hold 7001 0) (hd 9) s ∧ findLot s 7001 = some 3 ∧ (s.lot 3).state = .scrapped)
      ∧ (inOperate (hold 7001 2) (hd 9) waitingLot ∧ Policy.mark.code = (2 : Byte).toNat ∧ findLot waitingLot 7001 = some 3
        ∧ (waitingLot.lot 3).state = .waiting ∧ ready waitingLot)
      ∧ (let s := world (lotIn .finished noRun) .free (cel .down) []
        inOperate (hold 7001 0) (hd 9) s ∧ Policy.stop.code = (0 : Byte).toNat ∧ findLot s 7001 = some 3
          ∧ (s.lot 3).state = .finished ∧ ready s) := by
  unfold inOperate admitted Lot.idle inPlace
  decide +kernel

/-- An ENGINEER record of STOP asked for STOP, for FINISH and for MARK; one of MARK asked for FINISH; and one of FINISH
asked for STOP on a lot with a TESTING run; each beside a run-scope record. -/
theorem witness_LotHoldRaisesEngineer_changes :
    let w := holdAt .window (some 1) .stop
    let floor (st : LotState) (p : Policy) : State :=
      world { lotIn st noRun with holds := [holdAt .engineer none p, w] } .free (cel .down) []
    let named (s : State) (old : Policy) (code : Byte) (p : Policy) : Prop :=
      inOperate (.lotHold (hd 9) 7001 code) (hd 9) s ∧ p.code = code.toNat ∧ findLot s 7001 = some 3
        ∧ ((s.lot 3).state = .waiting ∨ (s.lot 3).state = .running ∨ (s.lot 3).state = .held)
        ∧ (s.lot 3).holds = [] ++ holdAt .engineer none old :: [w] ∧ ∀ a ∈ [] ++ [w], a.kind ≠ .engineer
    (named (floor .held .stop) .stop 0 .stop ∧ ((floor .held .stop).lot 3).idle)
      ∧ named (floor .held .stop) .stop 1 .finish
      ∧ (named (floor .running .mark) .mark 1 .finish ∧ ((floor .running .mark).lot 3).idle)
      ∧ (let s := world { lotIn .held oneRun with holds := [holdAt .engineer none .finish, w] } (runIn .testing)
          (celRun .running) []
        named s .finish 0 .stop ∧ onlyRun 3 0 2 s ∧ (s.run 2).state = .testing ∧ (s.cell 1).state = .running)
      ∧ (let s := floor .held .stop
        named s .stop 2 .mark ∧ (s.lot 3).state = .held ∧ (s.lot 3).stepClosed = false
          ∧ (s.lot 3).routeComplete = false ∧ (s.lot 3).idle ∧ 1 ≤ (s.lot 3).toAssign
          ∧ (∀ a ∈ [] ++ [w], a.policy = .mark ∨ a.pos ≠ none) ∧ 3 ∉ s.queue ∧ notAging (s.lot 3) s
          ∧ noCellFor (stepOf s (s.lot 3)) s
          ∧ noCandidateFor (s.lot 3).cls (s.lot 3).preempt (stepOf s (s.lot 3)) s) := by
  unfold inOperate admitted onlyRun Lot.idle notAging noCellFor noCandidateFor
  refine ⟨?_, ?_, ?_, ?_, ?_⟩ <;> decide +kernel

/-- A TESTING run on a RUNNING cell; an ASSIGNED run in a changeover. -/
theorem witness_HoldsReachTheOpenRun :
    (let s := lotRunning .running .testing
     inOperate (.lotHold (hd 9) 7001 0) (hd 9) s ∧ findLot s 7001 = some 3 ∧ (s.lot 3).state = .running
        ∧ (s.lot 3).holdsKind .engineer none = false ∧ onlyRun 3 0 2 s ∧ (s.run 2).state = .testing
        ∧ (s.cell (s.run 2).cell).state = .running)
      ∧ (let s := assigned (preparing .changeover .changeover .changeover)
        inOperate (.lotHold (hd 9) 7001 1) (hd 9) s ∧ findLot s 7001 = some 3 ∧ Policy.finish.code = (1 : Byte).toNat
          ∧ Policy.finish ≠ .mark ∧ (s.lot 3).state = .waiting ∧ (s.lot 3).holdsKind .engineer none = false
          ∧ onlyRun 3 0 2 s ∧ (s.run 2).state = .assigned ∧ (s.cell 1).current = some 2
          ∧ (s.cell 1).reserved ≠ some 2 ∧ 2 ∉ (s.cell 1).stack ∧ (s.cell 1).prep = some (prepIn .changeover)
          ∧ (prepIn .changeover).target = some 2) := by
  unfold inOperate admitted onlyRun
  decide +kernel

/-- A kind of 11; a lot-scope kind with a position; a run-scope kind at position 4; a record that is not there. -/
theorem witness_LotReleaseFreesTheLot :
    let rel (k p : Byte) : Instr := .lotRelease (hd 10) 7001 k p
    let s := world { lotIn .held noRun with holds := [stopHold, { markHold with kind := .yield }] } .free (cel .down) []
    (inOperate (rel 11 0xFF) (hd 10) s ∧ 10 < (11 : Byte).toNat)
      ∧ (inOperate (rel 4 0) (hd 10) s ∧ (4 : Byte).toNat ≤ 4 ∧ (0 : Byte) ≠ 0xFF)
      ∧ (inOperate (rel 5 4) (hd 10) s ∧ 5 ≤ (5 : Byte).toNat ∧ (5 : Byte).toNat ≤ 10 ∧ 3 < (4 : Byte).toNat)
      ∧ (inOperate (rel 10 3) (hd 10) s ∧ HoldKind.lost.code = (10 : Byte).toNat ∧ HoldKind.lost.isLot = false
        ∧ (some (3 : RunPlace)).map (·.val) = some (3 : Byte).toNat ∧ findLot s 7001 = some 3
        ∧ (s.lot 3).holdsKind .lost (some 3) = false) := by
  unfold inOperate admitted
  decide +kernel

/-- A lot HELD within its step by one ENGINEER record, beside a MARK record. -/
theorem witness_LotReleaseFreesTheLot_returns :
    let s := world { lotIn .held noRun with holds := [stopHold, { markHold with kind := .yield }] } .free (cel .down) []
    inOperate (.lotRelease (hd 10) 7001 4 0xFF) (hd 10) s ∧ HoldKind.engineer.code = (4 : Byte).toNat ∧ HoldKind.engineer.isLot = true
        ∧ findLot s 7001 = some 3 ∧ (s.lot 3).holdsKind .engineer none = true ∧ (s.lot 3).state = .held
        ∧ (s.lot 3).stepClosed = false ∧ (s.lot 3).routeComplete = false ∧ (s.lot 3).idle ∧ 1 ≤ (s.lot 3).toAssign
        ∧ (∀ e ∈ (s.lot 3).holds.filter fun e => !(e.is .engineer none), e.policy = .mark ∨ e.pos ≠ none)
        ∧ 3 ∉ s.queue ∧ s.timer < (s.lot 3).classSince + s.profile.aging * 60000
        ∧ noCellFor (stepOf s (s.lot 3)) s
        ∧ noCandidateFor (s.lot 3).cls (s.lot 3).preempt (stepOf s (s.lot 3)) s := by
  unfold inOperate admitted Lot.idle noCellFor noCandidateFor
  decide +kernel

/-- A lot HELD past its route by one record. -/
theorem witness_LotReleaseFreesTheLot_finishes :
    let s := world { lotIn .held noRun with holds := [markHold], routeComplete := true, stepClosed := true } .free
      (cel .down) []
    inOperate (.lotRelease (hd 10) 7001 4 0xFF) (hd 10) s ∧ HoldKind.engineer.code = (4 : Byte).toNat
      ∧ HoldKind.engineer.isLot = true ∧ findLot s 7001 = some 3 ∧ (s.lot 3).holdsKind .engineer none = true
      ∧ (s.lot 3).holds.filter (fun e => !(e.is .engineer none)) = [] ∧ (s.lot 3).state = .held
      ∧ (s.lot 3).routeComplete = true ∧ (s.lot 3).idle ∧ 3 ∉ s.queue := by
  unfold inOperate admitted Lot.idle
  decide +kernel

/-- What the releases of a lot with one open run have in common. -/
def released (s : State) (kind pos : Byte) (k : HoldKind) (place : Option RunPlace) : Prop :=
  inOperate (.lotRelease (hd 10) 7001 kind pos) (hd 10) s ∧ k.code = kind.toNat
    ∧ (k.isLot = true ∧ place = none ∧ pos = 0xFF ∨ k.isLot = false ∧ place.map (·.val) = some pos.toNat)
    ∧ findLot s 7001 = some 3 ∧ (s.lot 3).holdsKind k place = true ∧ (s.lot 3).routeComplete = false ∧ 3 ∉ s.queue

/-- WINDOW and CONSEC of a run at work; ENGINEER of a run STOPPED from TESTING and from CLOSING, of one that must be
checked first, and of the top run of a stack. -/
theorem witness_LotReleaseFreesTheLot_runs :
    let lot (st : LotState) (h : Hold) : Lot := { lotIn st oneRun with holds := [h], toAssign := 0, stepStarted := true }
    let open' (s : State) : Prop := onlyRun 3 0 2 s ∧ (s.lot 3).stepClosed = false ∧ (s.lot 3).toAssign = 0
    let stopped (was : ActiveState) (k : Cell) : State :=
      world (lot .held stopHold) { runIn .stopped with stoppedFrom := some was } k []
    let free (s : State) : Prop := released s 4 0xFF .engineer none ∧ open' s ∧ (s.lot 3).state = .held
      ∧ (s.cell 1).state = .stopped ∧ (s.cell 1).prep = none ∧ setUpFor (s.cell 1) (stepOf s (s.lot 3))
    (let s := world (lot .running (holdAt .window (some 0) .mark)) (runIn .testing) (celRun .running) []
     released s 5 0 .window (some 0) ∧ open' s ∧ (s.cell 1).state ≠ .stopped ∧ (s.lot 3).state ≠ .held)
      ∧ (let s := world (lot .running (holdAt .consec (some 0) .mark)) (runIn .testing) (celRun .running) []
        released s 7 0 .consec (some 0) ∧ open' s)
      ∧ (let s := stopped .testing (celRun .stopped)
        free s ∧ (s.cell 1).current = some 2 ∧ (s.run 2).state = .stopped ∧ (s.cell 1).goldenValid = true
          ∧ (s.cell 1).deadline = none ∧ (s.run 2).stoppedFrom = some .testing)
      ∧ (let s := stopped .closing (celRun .stopped)
        free s ∧ (s.run 2).stoppedFrom = some .closing ∧ (s.run 2).targetReached = false)
      ∧ (let s := stopped .testing { celRun .stopped with goldenValid := false }
        free s ∧ (s.cell 1).goldenValid = false ∧ runDeadline (s.cell 1))
      ∧ (let s := world (lot .held stopHold) { runIn .suspended with suspendedFrom := some .testing }
          { cel .stopped with stack := [2] } []
        free s ∧ (s.cell 1).current = none ∧ (s.cell 1).stack = 2 :: [] ∧ (s.run 2).state = .suspended
          ∧ (s.run 2).suspendedFrom = some .testing) := by
  unfold released inOperate admitted onlyRun setUpFor runDeadline
  refine ⟨?_, ?_, ?_, ?_, ?_, ?_⟩ <;> decide +kernel

/-- A lot HELD at step close by FINAL, before its last step and at it. -/
theorem witness_LotReleaseFreesTheLot_advances :
    let floor (n : Nat) : State := world
      { lotIn .held noRun with
        holds := [holdAt .final none .finish], stepClosed := true, step := n
        figures := { StepFigures.zero with tested := 40, goodFinal := 30 } } .free (cel .down) []
    let held (s : State) : Prop := released s 2 0xFF .final none ∧ (s.lot 3).state = .held ∧ (s.lot 3).stepClosed = true
      ∧ (s.lot 3).idle ∧ ∀ e ∈ (s.lot 3).holds.filter fun e => !(e.is .final none), e.policy = .mark
    (let s := floor 0
     held s ∧ 0 < (s.lot 3).figures.goodFinal ∧ (s.route 5).steps[1]? = some stp ∧ s.seqCounter < 4294967295
      ∧ 1 ≤ stp.maxRuns ∧ 1 ≤ (s.lot 3).split ∧ notAging (s.lot 3) s ∧ noCellFor stp s
      ∧ noCandidateFor (s.lot 3).cls (s.lot 3).preempt stp s)
      ∧ (held (floor 1) ∧ ((floor 1).route 5).steps.length ≤ ((floor 1).lot 3).step + 1) := by
  unfold released inOperate admitted Lot.idle notAging noCellFor noCandidateFor
  refine ⟨?_, ?_⟩ <;> decide +kernel

/-- An unknown tag; a RELEASED lot; a portion in a shipment; a SCRAPPED lot; and a WAITING lot. -/
theorem witness_LotScrapScrapsTheLot :
    let scrap (tag : Tag) (s : State) : Prop := inOperate (.lotScrap (hd 8) tag) (hd 8) s
    let free (s : State) : Prop := ¬ ∃ (g : Fin 4) (n : ShipSlot), (s.lot 3).marks[g] = .inShipment n
    (scrap 7002 waitingLot ∧ findLot waitingLot 7002 = none)
      ∧ (let s := world (lotIn .released noRun) .free (cel .idle) []
        scrap 7001 s ∧ findLot s 7001 = some 3 ∧ (s.lot 3).state = .released)
      ∧ (let s := shipFloor inShip (oneMember .opened)
        scrap 8001 s ∧ findLot s 8001 = some 3 ∧ (s.lot 3).state ≠ .released ∧ ¬ free s)
      ∧ (let s := world (lotIn .scrapped noRun) .free (cel .idle) []
        scrap 7001 s ∧ findLot s 7001 = some 3 ∧ (s.lot 3).state = .scrapped ∧ free s)
      ∧ (scrap 7001 waitingLot ∧ findLot waitingLot 7001 = some 3 ∧ (waitingLot.lot 3).state ≠ .released
        ∧ (waitingLot.lot 3).state ≠ .scrapped ∧ free waitingLot ∧ (waitingLot.lot 3).idle) := by
  unfold inOperate admitted Lot.idle
  decide +kernel

/-- A lot whose one open run is TESTING on a RUNNING cell. -/
theorem witness_LotScrapScrapsTheLot_frees :
    let s := lotRunning .running .testing
    inOperate (.lotScrap (hd 8) 7001) (hd 8) s ∧ findLot s 7001 = some 3 ∧ (s.lot 3).state = .running ∧ (∀ g : Fin 4, (s.lot 3).marks[g] = .free)
          ∧ onlyRun 3 0 2 s ∧ (s.run 2).state = .testing ∧ (s.cell 1).state = .running ∧ (s.cell 1).current = some 2
          ∧ (s.cell 1).stack = [] ∧ (s.cell 1).deadline = none ∧ (s.cell 1).prep = none ∧ (s.cell 1).changed = false
          ∧ ∀ m ∈ s.queue, m ≠ 3 → compatible (s.cell 1) (stepOf s (s.lot m)) = false := by
  unfold inOperate admitted onlyRun
  decide +kernel

/-- An unknown tag; a WAITING lot; and a FINISHED lot of no good unit. -/
theorem witness_LotRetireVacatesTheRecord :
    (inOperate (.lotRetire (hd 8) 7002) (hd 8) waitingLot ∧ findLot waitingLot 7002 = none)
      ∧ (findLot waitingLot 7001 = some 3 ∧ (waitingLot.lot 3).state ≠ .released ∧ (waitingLot.lot 3).state ≠ .scrapped
        ∧ (waitingLot.lot 3).state ≠ .finished)
      ∧ (let s := world (lotIn .finished noRun) .free (cel .idle) []
        inOperate (.lotRetire (hd 8) 7001) (hd 8) s ∧ findLot s 7001 = some 3 ∧ (s.lot 3).state = .finished
          ∧ (∀ g : Fin 4, (s.lot 3).gradeQty[g] = 0) ∧ ∀ l, (s.lot l).state ≠ .vacant → l = 3) := by
  unfold inOperate admitted
  decide +kernel

theorem witness_QueriesChangeNothing :
    let s := waitingLot
    inOperate (.lotQuery (hd 8) 7001) (hd 8) s ∧ inOperate (.shipQuery (hd 8) 7001) (hd 8) s
      ∧ (inOperate (.cellQuery (hd 1) 64) (hd 1) s ∧ s.profile.cellsInUse ≤ (64 : Byte).toNat)
      ∧ (inOperate (.cellQuery (hd 1) 63) (hd 1) s ∧ (63 : CellIx).val = (63 : Byte).toNat ∧ 63 < s.profile.cellsInUse)
      ∧ inOperate (.queueQuery (hd 0)) (hd 0) s ∧ admitted (.status (hd 0)) (hd 0) State.reset
      ∧ ((s.lot 3).holds.length ≤ 29 ∧ ∀ r, (s.run r).ring.length ≤ 32) := by
  unfold inOperate admitted
  decide +kernel

/-- A position of 4; an unknown tag; a position with no open run; and a TESTING run. -/
theorem witness_RunAbortClosesTheRun :
    let s := lotRunning .running .testing
    (inOperate (.runAbort (hd 9) 7001 4) (hd 9) s ∧ 3 < (4 : Byte).toNat)
      ∧ (inOperate (.runAbort (hd 9) 7002 3) (hd 9) s ∧ findLot s 7002 = none)
      ∧ (inOperate (.runAbort (hd 9) 7001 3) (hd 9) s ∧ (3 : RunPlace).val = (3 : Byte).toNat
        ∧ findLot s 7001 = some 3 ∧ (s.lot 3).openAt 3 = none)
      ∧ (inOperate (.runAbort (hd 9) 7001 0) (hd 9) s ∧ (0 : RunPlace).val = (0 : Byte).toNat
        ∧ (s.lot 3).state = .running ∧ (s.lot 3).holdsKind .recon none = false ∧ onlyRun 3 0 2 s
        ∧ (s.run 2).state = .testing ∧ (s.lot 3).closedRuns + 1 < (s.lot 3).runsPerStep
        ∧ (s.cell 1).state = .running ∧ (s.cell 1).current = some 2 ∧ (s.cell 1).stack = []
        ∧ (s.cell 1).deadline = none ∧ (s.cell 1).prep = none ∧ (s.cell 1).changed = false
        ∧ ∀ m ∈ s.queue, m ≠ 3 → compatible (s.cell 1) (stepOf s (s.lot m)) = false) := by
  unfold inOperate admitted onlyRun
  decide +kernel

/-- A cell out of use; a DOWN cell; a QUARANTINED cell at rest; and one with a STOPPED run that a hold holds. -/
theorem witness_CellClearRecoversTheCell :
    (inOperate (.cellClear (hd 1) 64) (hd 1) (floorOf .idle) ∧ (floorOf .idle).profile.cellsInUse ≤ (64 : Byte).toNat)
      ∧ (let s := floorOf .down
        inOperate (.cellClear (hd 1) 1) (hd 1) s ∧ (1 : CellIx).val = (1 : Byte).toNat ∧ 1 < s.profile.cellsInUse
          ∧ (s.cell 1).state ≠ .quarantined)
      ∧ (let s := floorOf .quarantined
        (s.cell 1).state = .quarantined ∧ (s.cell 1).repTester = some .ready ∧ (s.cell 1).repHandler = some .ready
          ∧ (s.cell 1).current = none ∧ (s.cell 1).stack = [] ∧ nothingFor 1 s)
      ∧ (let x := { lotIn .held oneRun with holds := [stopHold] }
        let s := world x { runIn .stopped with stoppedFrom := some .testing } (celRun .quarantined) []
        inOperate (.cellClear (hd 1) 1) (hd 1) s ∧ (s.cell 1).state = .quarantined ∧ (s.cell 1).repTester = some .ready
          ∧ (s.cell 1).repHandler = some .ready ∧ (s.cell 1).current = some 2 ∧ (s.run 2).state = .stopped
          ∧ runBlocked s 2 = true) := by
  unfold inOperate admitted nothingFor
  decide +kernel

/-- A QUARANTINED cell with a TESTING run, set up for its step and with another kit. -/
theorem witness_CellClearRecoversTheCell_prepares :
    let floor (kit : Nat) : State :=
      world (lotIn .running oneRun) (runIn .testing) { celRun .quarantined with kit := some kit } [3]
    let ready (s : State) : Prop := inOperate (.cellClear (hd 1) 1) (hd 1) s ∧ (s.cell 1).state = .quarantined
      ∧ (s.cell 1).repTester = some .ready ∧ (s.cell 1).repHandler = some .ready ∧ (s.cell 1).current = some 2
      ∧ (s.run 2).state = .testing ∧ runDeadline (s.cell 1)
    (ready (floor 12) ∧ setupCost ((floor 12).cell 1) (stepOfRun (floor 12) 2) = 0)
      ∧ (ready (floor 9) ∧ ((floor 9).cell 1).kit ≠ some (stepOfRun (floor 9) 2).kit) := by
  unfold inOperate admitted runDeadline
  decide +kernel

/-- A golden check without a run; and a TESTING run. -/
theorem witness_CellResetTakesTheCellOffline_work :
    (let s := world .vacant .free { preparing .golden .golden .golden with current := none } []
     inOperate (.cellReset (hd 1) 1) (hd 1) s ∧ (s.cell 1).state ≠ .quarantined ∧ (s.cell 1).state ≠ .offline
      ∧ (s.cell 1).current = none ∧ (s.cell 1).reserved = none ∧ (s.cell 1).prep = some (prepIn .golden))
      ∧ (let s := lotRunning .running .testing
        inOperate (.cellReset (hd 1) 1) (hd 1) s ∧ (s.cell 1).state ≠ .quarantined ∧ (s.cell 1).current = some 2
          ∧ (s.cell 1).reserved = none ∧ (s.cell 1).prep = none ∧ onlyRun 3 0 2 s ∧ (s.run 2).cell = 1
          ∧ (s.run 2).state = .testing ∧ (s.lot 3).state = .running ∧ (s.lot 3).holdsKind .lost (some 0) = false
          ∧ (s.lot 3).lotBlocked = false ∧ inPlace 3 s) := by
  unfold inOperate admitted onlyRun inPlace
  decide +kernel

theorem witness_CellResetTakesTheCellOffline :
    (inOperate (.cellReset (hd 1) 255) (hd 1) (floorOf .idle) ∧ (floorOf .idle).profile.cellsInUse ≤ (255 : Byte).toNat)
      ∧ (inOperate (.cellReset (hd 1) 1) (hd 1) (floorOf .quarantined)
        ∧ ((floorOf .quarantined).cell 1).state = .quarantined)
      ∧ (let s := floorOf .offline
        inOperate (.cellReset (hd 1) 1) (hd 1) s ∧ (1 : CellIx).val = (1 : Byte).toNat ∧ 1 < s.profile.cellsInUse
          ∧ (s.cell 1).state = .offline ∧ (s.cell 1).current = none ∧ (s.cell 1).reserved = none
          ∧ (s.cell 1).prep = none)
      ∧ (let s := floorOf .idle
        inOperate (.cellReset (hd 1) 1) (hd 1) s ∧ (s.cell 1).state ≠ .quarantined ∧ (s.cell 1).state ≠ .offline
          ∧ (s.cell 1).current = none ∧ (s.cell 1).reserved = none ∧ (s.cell 1).prep = none) := by
  unfold inOperate admitted
  decide +kernel

theorem witness_DrainAndCountersClear :
    let s := floorOf .idle
    (inOperate (.cellDrain (hd 2) 63 2) (hd 2) s ∧ 1 < (2 : Byte).toNat)
      ∧ (inOperate (.cellDrain (hd 2) 64 1) (hd 2) s ∧ s.profile.cellsInUse ≤ (64 : Byte).toNat)
      ∧ (inOperate (.cellDrain (hd 2) 63 1) (hd 2) s ∧ (63 : CellIx).val = (63 : Byte).toNat
        ∧ 63 < s.profile.cellsInUse)
      ∧ (inOperate (.cellDrain (hd 2) 1 0) (hd 2) s
        ∧ ∀ l ∈ s.queue, compatible (s.cell 1) (stepOf s (s.lot l)) = false)
      ∧ inOperate (.cellCountersClear (hd 1) 64) (hd 1) s ∧ inOperate (.cellCountersClear (hd 1) 63) (hd 1) s := by
  unfold inOperate admitted
  decide +kernel

/-- A grade of 5; a tag in use; a full table; and a shipment of one unit. -/
theorem witness_ShipOpenFillsARecord :
    let s := shipFloor lot8001 .vacant
    (inOperate (.shipOpen (hd 16) 5500 4410 5 1) (hd 16) s ∧ ¬ ((5 : Byte).toNat ≤ 4))
      ∧ (let t := shipFloor inShip (oneMember .opened)
        inOperate (.shipOpen (hd 16) 5500 4410 4 1) (hd 16) t ∧ findShip t 5500 ≠ none)
      ∧ (let t : State := { s with ships := Vector.replicate 64 (oneMember .opened) }
        inOperate (.shipOpen (hd 16) 5501 4410 4 1) (hd 16) t ∧ findShip t 5501 = none
          ∧ ∀ n, (t.ship n).state ≠ .vacant)
      ∧ (inOperate (.shipOpen (hd 16) 5500 4410 1 999999) (hd 16) s ∧ findShip s 5500 = none
        ∧ (s.ship 0).state = .vacant ∧ ∀ m : ShipSlot, m < 0 → (s.ship m).state ≠ .vacant) := by
  unfold inOperate admitted
  decide +kernel

/-- SHIP_ADD of lot 8001 to shipment 5500, both there, of grade 1. -/
def addsTo (x : Lot) (p : Shipment) : Prop :=
  let s := shipFloor x p
  inOperate (.shipAdd (hd 16) 5500 8001) (hd 16) s ∧ findShip s 5500 = some 0 ∧ findLot s 8001 = some 3
    ∧ (s.ship 0).grade = (0 : Fin 4).val + 1

/-- An unknown shipment; a SEALED one; a HELD lot; another product. -/
theorem witness_MembersComeAndGo :
    (inOperate (.shipAdd (hd 16) 5500 8001) (hd 16) (shipFloor lot8001 .vacant)
      ∧ findShip (shipFloor lot8001 .vacant) 5500 = none)
      ∧ addsTo lot8001 (ship5500 .sealed 0 []) ∧ addsTo { lot8001 with state := .held } (ship5500 .opened 0 [])
      ∧ addsTo lot8001 { ship5500 .opened 0 [] with product := 1 } := by
  unfold addsTo inOperate admitted
  decide +kernel

/-- An empty portion; a portion in a shipment; eight members; a unit too many; and a portion that fits to the last
unit. -/
theorem witness_MembersComeAndGo_portions :
    let fits := shipFloor lot8001 (ship5500 .opened 1550 [])
    addsTo { lot8001 with gradeQty := Vector.replicate 4 0 } (ship5500 .opened 0 [])
      ∧ addsTo inShip (ship5500 .opened 0 [])
      ∧ addsTo lot8001 { ship5500 .opened 0 [] with members := List.replicate 8 ⟨1, 0, 1⟩ }
      ∧ addsTo lot8001 (ship5500 .opened 1551 [])
      ∧ (addsTo lot8001 (ship5500 .opened 1550 []) ∧ (fits.lot 3).state = .finished
        ∧ (fits.route (fits.lot 3).route).product = (fits.ship 0).product ∧ (fits.lot 3).marks[(0 : Fin 4)] = .free
        ∧ (fits.lot 3).gradeQty[(0 : Fin 4)] ≠ 0
        ∧ (fits.ship 0).quantity + (fits.lot 3).gradeQty[(0 : Fin 4)] ≤ (fits.ship 0).maximum) := by
  unfold addsTo inOperate admitted
  decide +kernel

/-- A member to remove, a tag that no member carries, an unknown shipment, and one that is not OPEN. -/
theorem witness_MembersComeAndGo_removes :
    (let s := shipFloor inShip (oneMember .opened)
     inOperate (.shipRemove (hd 16) 5500 8001) (hd 16) s ∧ findShip s 5500 = some 0 ∧ (s.ship 0).state = .opened
          ∧ (s.ship 0).members = [] ++ (⟨8001, 3, 950⟩ : Member) :: [] ∧ (s.ship 0).grade = (0 : Fin 4).val + 1
          ∧ (∀ m ∈ (s.ship 0).members, m.tag ≠ 8002) ∧ findShip s 5501 = none)
      ∧ ((shipFloor inShip (oneMember .sealed)).ship 0).state ≠ .opened := by
  unfold inOperate admitted
  decide +kernel

theorem witness_ShipmentsSealAndCancel :
    let s := shipFloor inShip (oneMember .sealed)
    let e := shipFloor inShip (oneMember .opened)
    (inOperate (.shipSeal (hd 8) 5501) (hd 8) e ∧ findShip e 5501 = none)
      ∧ (inOperate (.shipSeal (hd 8) 5500) (hd 8) s ∧ findShip s 5500 = some 0 ∧ (s.ship 0).state ≠ .opened)
      ∧ (inOperate (.shipSeal (hd 8) 5500) (hd 8) e ∧ (e.ship 0).state = .opened ∧ (e.ship 0).members ≠ [])
      ∧ ((s.ship 0).state = .sealed ∧ inOperate (.shipAdd (hd 16) 5500 8001) (hd 16) s ∧ findLot s 8001 ≠ none
        ∧ inOperate (.shipRemove (hd 16) 5500 8001) (hd 16) s)
      ∧ (inOperate (.shipCancel (hd 8) 5500) (hd 8) s ∧ (s.ship 0).grade = (0 : Fin 4).val + 1
        ∧ (s.ship 0).state ≠ .released)
      ∧ (let r := shipFloor lot8001 (oneMember .released)
        inOperate (.shipCancel (hd 8) 5500) (hd 8) r ∧ findShip r 5500 = some 0 ∧ (r.ship 0).state = .released) := by
  unfold inOperate admitted
  decide +kernel

/-- An unknown tag; an OPEN shipment; a member that is HELD; and members that are all FINISHED. -/
theorem witness_ShipReleaseReleasesThePortions :
    let rel : Instr := .shipRelease (hd 8) 5500
    let s := shipFloor inShip (oneMember .sealed)
    let held := shipFloor { inShip with state := .held } (oneMember .sealed)
    (inOperate (.shipRelease (hd 8) 1) (hd 8) s ∧ findShip s 1 = none)
      ∧ (inOperate rel (hd 8) (shipFloor inShip (oneMember .opened))
        ∧ ((shipFloor inShip (oneMember .opened)).ship 0).state ≠ .sealed)
      ∧ (inOperate rel (hd 8) held ∧ findShip held 5500 = some 0 ∧ (held.ship 0).state = .sealed
        ∧ (held.ship 0).members = [] ++ (⟨8001, 3, 950⟩ : Member) :: [] ∧ (held.lot 3).state ≠ .finished)
      ∧ (inOperate rel (hd 8) s ∧ findShip s 5500 = some 0 ∧ (s.ship 0).grade = (0 : Fin 4).val + 1
        ∧ (s.ship 0).state = .sealed ∧ (∀ m ∈ (s.ship 0).members, (s.lot m.slot).state = .finished)
        ∧ ((s.ship 0).members.map (·.slot)).Nodup) := by
  unfold inOperate admitted
  decide +kernel

theorem witness_ShipRetireVacatesTheRecord :
    let s := shipFloor inShip (oneMember .sealed)
    let r := shipFloor lot8001 (oneMember .released)
    (inOperate (.shipRetire (hd 8) 1) (hd 8) s ∧ findShip s 1 = none)
      ∧ (inOperate (.shipRetire (hd 8) 5500) (hd 8) s ∧ findShip s 5500 = some 0 ∧ (s.ship 0).state ≠ .released)
      ∧ (inOperate (.shipRetire (hd 8) 5500) (hd 8) r ∧ findShip r 5500 = some 0 ∧ (r.ship 0).state = .released
        ∧ (∀ n, (r.ship n).balanced) ∧ ∀ n, (r.ship n).state ≠ .vacant → n = 0) := by
  unfold inOperate admitted Shipment.balanced
  decide +kernel

theorem witness_FloorResetEmptiesTheFloor :
    inOperate (.floorReset (hd 0)) (hd 0) (lotRunning .running .testing) := by
  unfold inOperate admitted
  decide +kernel

/-- A report of 63 bytes; one in CONFIG; one from a station of no cell; and one from cell 1's tester. -/
theorem witness_ReportsAreHeard :
    let i : Instr := .state (env 100) 0
    (i.reportParts.isSome = true ∧ i.reportFrame.isSome = true)
      ∧ (Instr.state { env 100 with pad := List.replicate 28 0 } 0).wf = false
      ∧ (i.wf = true ∧ State.reset.phase = .config)
      ∧ ((Instr.state (env 200) 0).wf = true ∧ findStation (floorOf .idle) (env 200).src = none)
      ∧ fromStation i (env 100) 1 .tester (floorOf .idle) := by
  unfold fromStation
  decide +kernel

/-- A code of no state of the role; READY of a handler whose tester is not; JAM on a LOST cell; PAUSED on a RUNNING
cell. -/
theorem witness_StateReportsAreRecorded :
    (fromStation (.state (env 100) 3) (env 100) 1 .tester (floorOf .idle) ∧ stationReportOf .tester 3 = none)
      ∧ (let s := world .vacant .free { cel .down with repTester := none } []
        fromStation (.state (env 101) 0) (env 101) 1 .handler s ∧ stationReportOf .handler 0 = some .ready
          ∧ Cell.bothReady { s.cell 1 with repHandler := some .ready } = false)
      ∧ (fromStation (.state (env 101) 5) (env 101) 1 .handler (floorOf .lost) ∧ stationReportOf .handler 5 = some .jam
        ∧ ((floorOf .lost).cell 1).state ∈ [CellState.offline, .lost, .down, .quarantined])
      ∧ (fromStation (.state (env 101) 4) (env 101) 1 .handler (floorOf .running)
        ∧ stationReportOf .handler 4 = some .paused ∧ ((floorOf .running).cell 1).state ≠ .pausing) := by
  unfold fromStation
  decide +kernel

/-- A JAM and an ALARM on a RUNNING cell; a golden check whose deadline ends in this millisecond. -/
theorem witness_FaultsTakeTheCellOut :
    (let s := lotRunning .running .testing
     fromStation (.state (env 101) 5) (env 101) 1 .handler s ∧ fromStation (.state (env 100) 2) (env 100) 1 .tester s
      ∧ (s.cell 1).state.operational = true ∧ (s.cell 1).prep = none
      ∧ (∀ d ∈ (s.cell 1).deadline, d.kind = .closing ∨ d.kind = .counts) ∧ noWithdrawal (s.cell 1) s)
      ∧ (let s := world (lotIn .running oneRun) (runIn .testing)
          { preparing .golden .golden .golden with deadline := some ⟨.golden, 20000⟩ } [3]
        (s.cell 1).deadline = some ⟨.golden, 20000⟩
          ∧ DeadlineKind.golden ∈ [DeadlineKind.changeover, .load, .golden] ∧ 20000 ≤ s.timer
          ∧ (s.cell 1).prep = some (prepIn .golden) ∧ (s.cell 1).state ≠ .down ∧ (s.cell 1).state ≠ .quarantined
          ∧ noWithdrawal (s.cell 1) s) := by
  unfold fromStation noWithdrawal
  decide +kernel

/-- A tester last heard exactly 10 s ago, on an IDLE cell and on one with a TESTING run. -/
theorem witness_FaultsTakeTheCellOut_silence :
    let k (st : CellState) (r : Option RunIx) : Cell := { cel st with heardTester := some 10000, current := r }
    let silent (s : State) : Prop := (s.cell 1).state ∉ [CellState.offline, .lost, .quarantined]
      ∧ (s.cell 1).heard .tester = some 10000 ∧ (∀ u ∈ (s.cell 1).heard .tester, u ≤ 10000)
      ∧ (∀ u ∈ (s.cell 1).clearTime, u ≤ 10000) ∧ 10000 + 1000 * s.profile.heartbeat ≤ s.timer
      ∧ (s.cell 1).prep = none ∧ (s.cell 1).reserved = none
    (let s := world .vacant .free (k .idle none) []
     silent s ∧ (s.cell 1).current = none)
      ∧ (let s := world (lotIn .running oneRun) (runIn .testing) (k .running (some 2)) [3]
        silent s ∧ (s.cell 1).current = some 2 ∧ onlyRun 3 0 2 s ∧ (s.run 2).cell = 1 ∧ (s.run 2).state = .testing
          ∧ (s.lot 3).state = .running ∧ (s.lot 3).holdsKind .lost (some 0) = false ∧ (s.lot 3).lotBlocked = false
          ∧ inPlace 3 s) := by
  unfold onlyRun inPlace
  decide +kernel

/-- A lot out of the queue, its last run ASSIGNED to a cell in a golden check. -/
def checkedOnly : State :=
  world { lotIn .waiting oneRun with toAssign := 0 } (runIn .assigned) (preparing .golden .golden .golden) []

/-- What a withdrawal within a report asks of that floor. -/
def withdraws (s : State) : Prop :=
  (s.cell 1).state ∈ [CellState.changeover, .loading, .golden] ∧ (s.cell 1).prep = some (prepIn .golden)
    ∧ (s.cell 1).current = some 2 ∧ (s.cell 1).reserved = none ∧ 2 ∉ (s.cell 1).stack ∧ onlyRun 3 0 2 s
    ∧ (s.run 2).cell = 1 ∧ (s.run 2).state = .assigned ∧ (s.lot 3).state = .waiting ∧ (s.lot 3).lotBlocked = false
    ∧ 3 ∉ s.queue ∧ notAging (s.lot 3) s ∧ noCellFor (stepOf s (s.lot 3)) s
    ∧ noCandidateFor (s.lot 3).cls (s.lot 3).preempt (stepOf s (s.lot 3)) s

theorem witness_FaultsTakeTheCellOut_withdraws :
    fromStation (.state (env 101) 5) (env 101) 1 .handler checkedOnly ∧ withdraws checkedOnly := by
  unfold fromStation withdraws onlyRun notAging noCellFor noCandidateFor
  decide +kernel

/-- A DOWN cell whose handler becomes READY, without a run and with an ENDING one. -/
theorem witness_ReadyRecoversTheCell :
    let s := world .vacant .free { cel .down with repHandler := some .jam, changed := true } []
    let e := world (lotIn .running oneRun) (runIn .ending) { celRun .down with repHandler := some .jam } [3]
    let told (s : State) : Prop := fromStation (.state (env 101) 0) (env 101) 1 .handler s
      ∧ (s.cell 1).state ∈ [CellState.offline, .lost, .down] ∧ (s.cell 1).repTester = some .ready
    (told s ∧ (s.cell 1).current = none ∧ (s.cell 1).stack = [] ∧ nothingFor 1 s)
      ∧ (told e ∧ (e.cell 1).current = some 2 ∧ (e.run 2).state = .ending) := by
  unfold fromStation nothingFor
  decide +kernel

/-- A handler that becomes READY: a STOPPED run that a hold holds back; a TESTING run under another kit, after LOST, and
after DOWN with the golden check switched off; and a CLOSING one under its deadline. -/
theorem witness_ReadyRecoversTheCell_runs :
    let floor (x : Lot) (r : Run) (st : CellState) (kit : Nat) (d : Option Deadline) : State :=
      world x r { celRun st with repHandler := none, kit := some kit, deadline := d } []
    let told (s : State) : Prop := fromStation (.state (env 101) 0) (env 101) 1 .handler s
      ∧ (s.cell 1).state ∈ [CellState.offline, .lost, .down] ∧ (s.cell 1).repTester = some .ready
      ∧ (s.cell 1).current = some 2
    let noGolden (s : State) : State := { s with profile := { s.profile with goldenAfterDown := false } }
    let resumes (s : State) : Prop := told s ∧ setupCost (s.cell 1) (stepOfRun s 2) = 0 ∧ runDeadline (s.cell 1)
      ∧ ((s.cell 1).state != .down || s.profile.goldenAfterDown || tooFewSites (s.cell 1) (stepOfRun s 2)) = false
      ∧ (s.run 2).cell = 1
    (let s := floor { lotIn .held oneRun with holds := [stopHold] } { runIn .stopped with stoppedFrom := some .testing }
        .down 12 none
     told s ∧ (s.run 2).state = .stopped ∧ runBlocked s 2 = true)
      ∧ (let s := floor (lotIn .running oneRun) (runIn .testing) .down 9 none
        told s ∧ (s.run 2).state = .testing ∧ runDeadline (s.cell 1) ∧ (s.cell 1).kit ≠ some (stepOfRun s 2).kit)
      ∧ (let s := floor (lotIn .running oneRun) (runIn .testing) .lost 12 none
        told s ∧ (s.run 2).state = .testing ∧ runDeadline (s.cell 1) ∧ setupCost (s.cell 1) (stepOfRun s 2) = 0
          ∧ (s.cell 1).state ≠ .down)
      ∧ (let s := noGolden (floor (lotIn .running oneRun) (runIn .testing) .down 12 none)
        resumes s ∧ (s.run 2).state = .testing)
      ∧ (let s := noGolden (floor (lotIn .running oneRun) { runIn .closing with target := some 310 } .down 12
          (some ⟨.closing, 25000⟩))
        resumes s ∧ (s.run 2).state = .closing ∧ (s.run 2).targetReached = false
          ∧ (s.cell 1).deadline.map (·.kind) = some .closing) := by
  unfold fromStation runDeadline
  refine ⟨?_, ?_, ?_, ?_, ?_⟩ <;> decide +kernel

/-- A reserved run whose kit differs; no run reserved, with a TESTING and with an ENDING run. -/
theorem witness_PreemptionsSuspendAndPop :
    let hot : Run := { runIn .assigned with lot := 4, cell := 1 }
    let s := (world (lotIn .running oneRun) (runIn .testing)
      { celRun .pausing with kit := some 9, reserved := some 5 } []).setRun 5 hot
    let t := lotRunning .pausing .testing
    (fromStation (.state (env 101) 4) (env 101) 1 .handler s ∧ (s.cell 1).state = .pausing
      ∧ (s.cell 1).current = some 2 ∧ (s.cell 1).reserved = some 5 ∧ (s.run 2).state = .testing
      ∧ (lotOfRun s 2).lotBlocked = false ∧ (s.cell 1).deadline = none
      ∧ kitDiffers (s.cell 1) (stepOfRun s 5) = true)
      ∧ (fromStation (.state (env 101) 4) (env 101) 1 .handler t ∧ (t.cell 1).state = .pausing
        ∧ (t.cell 1).current = some 2 ∧ (t.cell 1).reserved = none ∧ (t.run 2).state = .testing)
      ∧ (let e := lotRunning .pausing .ending
        (e.cell 1).state = .pausing ∧ (e.cell 1).reserved = none ∧ (e.run 2).state = .ending) := by
  unfold fromStation
  decide +kernel

/-- A stack whose top a hold holds back, and one whose top matches the cell. -/
theorem witness_PreemptionsSuspendAndPop_stack :
    let r := { runIn .suspended with suspendedFrom := some .testing }
    (let s := world { lotIn .held oneRun with holds := [stopHold] } r { cel .running with stack := [2] } []
     (s.cell 1).stack = 2 :: [] ∧ runBlocked s 2 = true ∧ (s.cell 1).state ≠ .stopped)
      ∧ (let s := world (lotIn .running oneRun) r { cel .stopped with stack := [2] } [3]
        (s.cell 1).stack = 2 :: [] ∧ runBlocked s 2 = false ∧ (s.run 2).state = .suspended
          ∧ (s.run 2).suspendedFrom = some .testing ∧ setupCost (s.cell 1) (stepOfRun s 2) = 0
          ∧ (s.cell 1).goldenValid = true
          ∧ (stepOfRun s 2).minSites ≤ siteNumber (usableSites (s.cell 1) (stepOfRun s 2))
          ∧ (s.cell 1).state ≠ .running) := by decide +kernel

/-- The counts of an ENDING run agree over a stack whose top run another lot's hold holds back, and holds back no
longer. -/
theorem witness_PreemptionsSuspendAndPop_counts :
    let i : Instr := .runCounts (env 101) 38 #v[28, 3, 5, 2, 0, 0, 0, 0]
    let floor (hs : List Hold) : State :=
      let s := world (lotIn .running oneRun) { run53 with state := .ending } { celRun .running with stack := [9] } []
      { s with
        lots := vset s.lots 4 { lotIn .running (vset noRun 0 (.run 9)) with tag := 7002, holds := hs }
        runs := vset s.runs 9 { runIn .suspended with lot := 4, suspendedFrom := some .testing } }
    let near (tol a b : Nat) : Prop := a ≤ b + tol ∧ b ≤ a + tol
    let ends (s : State) : Prop := fromStation i (env 101) 1 .handler s
      ∧ near (limitsOf s (s.lot 3)).inputTol 38 (s.run 2).tested
      ∧ (∀ t : Fin 8, near (limitsOf s (s.lot 3)).trayTol
        ((#v[28, 3, 5, 2, 0, 0, 0, 0] : Vector (BitVec 24) 8)[t]).toNat (s.run 2).ledger[t])
      ∧ (s.run 2).shortfall ≤ (limitsOf s (s.lot 3)).trayTol ∧ (s.run 2).surplus ≤ (limitsOf s (s.lot 3)).trayTol
      ∧ onlyRun 3 0 2 s ∧ (s.run 2).state = .ending ∧ (s.run 2).cell = 1 ∧ (s.lot 3).state = .running
      ∧ (s.lot 3).lotBlocked = false ∧ (s.lot 3).closedRuns + 1 < (s.lot 3).runsPerStep
      ∧ (s.cell 1).state = .running ∧ (s.cell 1).current = some 2 ∧ (s.cell 1).stack = 9 :: []
      ∧ 2 ∉ (s.cell 1).stack ∧ (s.run 9).lot ≠ 3 ∧ (s.cell 1).prep = none ∧ ∀ d ∈ (s.cell 1).deadline, d.kind = .counts
    (ends (floor [stopHold]) ∧ runBlocked (floor [stopHold]) 9 = true)
      ∧ (let s := floor []
        ends s ∧ runBlocked s 9 = false ∧ (s.run 9).state = .suspended ∧ (s.run 9).suspendedFrom = some .testing
          ∧ setUpFor (s.cell 1) (stepOfRun s 9) ∧ (s.cell 1).goldenValid = true) := by
  unfold fromStation onlyRun setUpFor
  refine ⟨?_, ?_⟩ <;> decide +kernel

/-- A SETUP_DONE outside CHANGEOVER; one that matches; one that does not. -/
theorem witness_SetupDoneEndsTheChangeover :
    let d (kit : Byte) (temp : BitVec 16) : Instr := .setupDone (env 101) kit temp
    let k := { preparing .changeover .changeover .changeover with kit := none, temp := none, program := none }
    let s := assigned k
    let out := world (lotIn .running oneRun) (runIn .testing) k [3]
    (fromStation (.setupDone (env 100) 12 125) (env 100) 1 .tester (floorOf .idle)
      ∧ fromStation (d 9 200) (env 101) 1 .handler (floorOf .idle) ∧ ((floorOf .idle).cell 1).state ≠ .changeover)
      ∧ (fromStation (d 12 125) (env 101) 1 .handler s ∧ (s.cell 1).state = .changeover
        ∧ (s.cell 1).prep = some (prepIn .changeover) ∧ (prepIn .changeover).target = some 2
        ∧ (prepIn .changeover).purpose ≠ .periodic ∧ (prepIn .changeover).orderedKit = some (12 : Byte).toNat
        ∧ (prepIn .changeover).orderedTemp = some (125 : BitVec 16).toInt
        ∧ (∀ e ∈ (s.cell 1).deadline, e.kind = .changeover) ∧ (stepOfRun s 2).kit = (12 : Byte).toNat
        ∧ (stepOfRun s 2).setpoint = (125 : BitVec 16).toInt
        ∧ programDiffers { s.cell 1 with kit := some 12, temp := some 125 } (stepOfRun s 2) = true)
      ∧ (fromStation (d 9 125) (env 101) 1 .handler out ∧ (out.cell 1).state = .changeover
        ∧ (prepIn .changeover).orderedKit ≠ some (9 : Byte).toNat ∧ noWithdrawal (out.cell 1) out) := by
  unfold fromStation noWithdrawal
  decide +kernel

/-- A LOAD_DONE of the last load order and one of another, outside LOADING and in it. -/
theorem witness_LoadReportsEndTheLoading :
    let d (rev : Byte) : Instr := .loadDone (env 100) 3301 rev 0xABCD
    let k := { preparing .loading .loading .load with program := none }
    let s := assigned k
    let t := world (lotIn .running oneRun) (runIn .testing) k [3]
    let idle := world .vacant .free { cel .idle with lastLoad := some ⟨3301, 4, 0xABCD⟩ } []
    (fromStation (d 4) (env 100) 1 .tester idle ∧ (idle.cell 1).lastLoad = some ⟨3301, 4, 0xABCD⟩
      ∧ (idle.cell 1).state ≠ .loading ∧ (idle.cell 1).lastLoad ≠ some ⟨3301, 5, 0xABCD⟩)
      ∧ (fromStation (d 4) (env 100) 1 .tester s ∧ (s.cell 1).state = .loading
        ∧ (s.cell 1).prep = some (prepIn .loading) ∧ (s.cell 1).lastLoad = some ⟨3301, 4, 0xABCD⟩
        ∧ (prepIn .loading).target = some 2 ∧ (∀ e ∈ (s.cell 1).deadline, e.kind = .load)
        ∧ (s.cell 1).kit = some (stepOfRun s 2).kit ∧ (s.cell 1).temp = some (stepOfRun s 2).setpoint
        ∧ 3301 = (stepOfRun s 2).programId ∧ 4 = (stepOfRun s 2).revision)
      ∧ (fromStation (d 5) (env 100) 1 .tester t ∧ (t.cell 1).state = .loading
        ∧ (t.cell 1).lastLoad ≠ some ⟨3301, 5, 0xABCD⟩ ∧ noWithdrawal { t.cell 1 with program := none } t)
      ∧ fromStation (.loadFail (env 100) 3301 4) (env 100) 1 .tester t
      ∧ fromStation (.loadFail (env 101) 3301 4) (env 101) 1 .handler idle := by
  unfold fromStation noWithdrawal
  decide +kernel

/-- A check outside GOLDEN; three sites that pass of a minimum of three; and two that fail a periodic check. -/
theorem witness_GoldenChecksPassAndFail :
    let g (mask : SiteMask) : Instr := .goldenDone (env 100) mask
    let s := assigned { preparing .golden .golden .golden with enabled := 0 }
    (fromStation (g 7) (env 100) 1 .tester (floorOf .idle) ∧ ((floorOf .idle).cell 1).state ≠ .golden)
      ∧ (fromStation (g 0x8B) (env 100) 1 .tester s ∧ (s.cell 1).state = .golden
        ∧ (s.cell 1).prep = some (prepIn .golden) ∧ (prepIn .golden).goldenSites = some 4
        ∧ (prepIn .golden).goldenMin = some 3
        ∧ 3 ≤ siteNumber ((0x8B : SiteMask) &&& BitVec.ofNat 16 (2 ^ 4 - 1)) ∧ (prepIn .golden).target = some 2
        ∧ (s.cell 1).current = some 2 ∧ (prepIn .golden).setAside = none
        ∧ (∀ d ∈ (s.cell 1).deadline, d.kind = .golden) ∧ setupCost (s.cell 1) (stepOf s (s.lot 3)) = 0
        ∧ onlyRun 3 0 2 s ∧ (s.run 2).cell = 1 ∧ (s.run 2).state = .assigned ∧ (s.lot 3).state = .waiting
        ∧ inPlace 3 s ∧ (s.lot 3).holdsKind .site (some 0) = false ∧ (s.lot 3).holdsKind .consec (some 0) = false)
      ∧ fromStation (.goldenDone (env 101) 7) (env 101) 1 .handler (floorOf .idle) := by
  unfold fromStation onlyRun inPlace
  decide +kernel

theorem witness_GoldenChecksPassAndFail_fails :
    let p : Prep := { prepIn .golden with purpose := .periodic, origin := .periodic }
    let s := world (lotIn .running oneRun) (runIn .testing) { preparing .golden .golden .golden with prep := some p } [3]
    fromStation (.goldenDone (env 100) 9) (env 100) 1 .tester s ∧ (s.cell 1).state = .golden ∧ (s.cell 1).prep = some p
      ∧ p.goldenSites = some 4 ∧ p.goldenMin = some 3
      ∧ siteNumber ((9 : SiteMask) &&& BitVec.ofNat 16 (2 ^ 4 - 1)) < 3 ∧ (s.cell 1).current = some 2
      ∧ (s.cell 1).reserved = none ∧ p.setAside = none ∧ (∀ d ∈ (s.cell 1).deadline, d.kind = .golden)
      ∧ onlyRun 3 0 2 s ∧ (s.run 2).state = .testing ∧ (s.run 2).cell = 1 ∧ (s.lot 3).state = .running
      ∧ (s.lot 3).holdsKind .golden (some 0) = false ∧ (s.lot 3).lotBlocked = false ∧ inPlace 3 s := by
  unfold fromStation onlyRun inPlace
  decide +kernel

/-- A periodic check that three sites pass, with SITE and CONSEC at the run's position: of a TESTING run, and of a
CLOSING one whose deadline is set aside. -/
theorem witness_GoldenChecksPassAndFail_periodic :
    let p (a : Option SetAside) : Prep := { prepIn .golden with purpose := .periodic, origin := .periodic, setAside := a }
    let floor (r : Run) (a : Option SetAside) : State :=
      world { lotIn .running oneRun with holds := [holdAt .site (some 0) .mark, holdAt .consec (some 0) .mark] } r
        { preparing .golden .golden .golden with prep := some (p a) } [3]
    let passes (s : State) (a : Option SetAside) : Prop := fromStation (.goldenDone (env 100) 7) (env 100) 1 .tester s
      ∧ (s.cell 1).state = .golden ∧ (s.cell 1).prep = some (p a) ∧ (p a).goldenSites = some 4
      ∧ (p a).goldenMin = some 3 ∧ 3 ≤ siteNumber ((7 : SiteMask) &&& BitVec.ofNat 16 (2 ^ 4 - 1))
      ∧ (p a).target = some 2 ∧ (s.cell 1).current = some 2 ∧ (∀ d ∈ (s.cell 1).deadline, d.kind = .golden)
      ∧ onlyRun 3 0 2 s ∧ (s.run 2).cell = 1 ∧ (s.lot 3).state = .running ∧ inPlace 3 s
    (let s := floor (runIn .testing) none
     passes s none ∧ (s.run 2).state = .testing)
      ∧ (let s := floor { runIn .closing with target := some 310 } (some ⟨.closing, 4000⟩)
        passes s (some ⟨.closing, 4000⟩) ∧ (s.run 2).state = .closing ∧ (s.run 2).targetReached = false) := by
  unfold fromStation onlyRun inPlace
  refine ⟨?_, ?_⟩ <;> decide +kernel

/-- The distances 0, 1, 32,767, 32,768, 65,534 and 65,535 from the expectation, and none, for a TESTING run. -/
theorem witness_TouchdownNumbersAreJudged :
    let i : Instr := .touchdown (env 100) 310 [ent 0 1]
    let s := world (lotIn .running oneRun) (runIn .testing) { celRun .running with expected := some 10 } [3]
    let d (q : Seq) : Nat := (q.toNat + 65536 - (10 : Seq).toNat) % 65536
    (fromStation i (env 100) 1 .tester s ∧ (s.cell 1).state ∉ [CellState.offline, .lost, .quarantined]
      ∧ (s.cell 1).current = some 2 ∧ (s.run 2).state ≠ .free ∧ (s.run 2).state ≠ .assigned
      ∧ (s.cell 1).expected = some 10 ∧ ((lotRunning .running .testing).cell 1).expected = none)
      ∧ d 10 = 0 ∧ d 11 = 1 ∧ d 32777 = 32767 ∧ d 32778 = 32768 ∧ d 8 = 65534 ∧ d 9 = 65535 := by
  unfold fromStation
  decide +kernel

/-- A QUARANTINED and a DOWN cell, an IDLE one with no run, and an ENDING run with an expectation met. -/
theorem witness_TouchdownsAreSorted :
    let i : Instr := .touchdown (env 100) 310 [ent 0 1]
    (fromStation (.touchdown (env 101) 310 [ent 0 1]) (env 101) 1 .handler (floorOf .idle)
      ∧ fromStation i (env 100) 1 .tester (floorOf .quarantined)
      ∧ ((floorOf .quarantined).cell 1).state ∈ [CellState.offline, .lost, .quarantined])
      ∧ (fromStation i (env 100) 1 .tester (floorOf .down) ∧ ((floorOf .down).cell 1).state = .down
        ∧ ∀ r ∈ ((floorOf .down).cell 1).current,
          ((floorOf .down).run r).state = .free ∨ ((floorOf .down).run r).state = .assigned)
      ∧ (let s := floorOf .idle
        fromStation i (env 100) 1 .tester s ∧ (s.cell 1).state.operational = true ∧ (s.cell 1).current = none
          ∧ (s.cell 1).reserved = none ∧ (s.cell 1).prep = none)
      ∧ (let s := world (lotIn .running oneRun) (runIn .ending) { celRun .running with expected := some 310 } [3]
        fromStation i (env 100) 1 .tester s ∧ (s.cell 1).state ∉ [CellState.offline, .lost, .quarantined]
          ∧ (s.cell 1).current = some 2 ∧ (s.run 2).state = .ending ∧ (s.cell 1).expected = some 310) := by
  unfold fromStation
  decide +kernel

theorem witness_TouchdownsAreSorted_withdraws :
    fromStation (.touchdown (env 100) 310 [ent 0 1]) (env 100) 1 .tester checkedOnly ∧ withdraws checkedOnly := by
  unfold fromStation withdraws onlyRun notAging noCellFor noCandidateFor
  decide +kernel

/-- A TESTING run one unit short of its counters' maximum, in pass 0 with the checks off, or in pass 1. -/
def farRun (pass : Nat) : Run :=
  { runIn .testing with tested := 16777214, good := 16777214, sinceGolden := 65535, pass := pass }

theorem witness_TouchdownsAreCounted :
    let s := world (lotIn .running oneRun) (farRun 0) { celRun .running with expected := some 310 } [3]
    fromStation (.touchdown (env 100) 310 [ent 0 1, ent 1 7]) (env 100) 1 .tester s
      ∧ (s.cell 1).state ∉ [CellState.offline, .lost, .quarantined]
      ∧ (s.cell 1).current = some 2 ∧ (s.run 2).lot = 3 ∧ (s.run 2).state = .testing ∧ (s.run 2).pass = 0
      ∧ (s.run 2).target = none ∧ (s.cell 1).expected = some 310
      ∧ checksOff (limitsOf s (s.lot 3)) (stepOf s (s.lot 3)) ∧ (s.run 2).bounded ∧ (s.lot 3).figures.bounded := by
  unfold fromStation checksOff Run.bounded StepFigures.bounded SiteFigures.bounded RingEntry.bounded
  decide +kernel

theorem witness_TouchdownsAreCounted_retest :
    let t := world (lotIn .running oneRun) (farRun 1) (celRun .running) [3]
    fromStation (.touchdown (env 100) 310 [ent 0 1, ent 1 7]) (env 100) 1 .tester t
      ∧ (t.cell 1).state ∉ [CellState.offline, .lost, .quarantined] ∧ (t.cell 1).current = some 2
      ∧ (t.run 2).state = .testing ∧ (t.run 2).pass ≠ 0 ∧ (t.run 2).target = none ∧ (t.cell 1).expected = none
      ∧ (t.run 2).bounded := by
  unfold fromStation Run.bounded SiteFigures.bounded RingEntry.bounded
  decide +kernel

/-- Limits that the figures breach by the least amount, and that they just meet. -/
theorem witness_ChecksRaiseAtTheBreach :
    let lim : LimitSet := { LimitSet.unloaded with
      ymin := 9000, nmin := 200, fmax := vset (Vector.replicate 15 10000) 6 300, ywin := 7500, w := 4, nsite := 50,
      dmax := 500, cmax := 6 }
    let site (n f k : Nat) : SiteFigures := ⟨n, f, k⟩
    let sites : Vector SiteFigures 16 := vset (vset (Vector.replicate 16 .zero) 0 (site 100 0 0)) 1 (site 100 6 6)
    let before : Vector SiteFigures 16 := vset sites 1 (site 99 5 5)
    let r := { runIn .testing with sites := sites, ring := List.replicate 4 ⟨4, 2⟩ }
    let f : StepFigures := { StepFigures.zero with tested := 201, good := 180, bins := vset (Vector.replicate 15 0) 6 21 }
    let s := world { lotIn .running oneRun with figures := f } r (celRun .running) [3]
    (0 < lim.cmax ∧ before[(1 : Fin 16)].streak + 1 = lim.cmax ∧ (s.run 2).sites[(1 : Fin 16)].streak = lim.cmax)
      ∧ (0 < lim.ywin ∧ (s.run 2).ring.length = lim.w
        ∧ ((s.run 2).ring.map (·.good)).sum * 10000 / ((s.run 2).ring.map (·.tested)).sum < lim.ywin)
      ∧ ((∀ a : Fin 16, (s.run 2).sites[a].bounded) ∧ 1 ≤ lim.nsite ∧ (s.cell 1).enabled.getLsbD 1 = true
        ∧ lim.nsite ≤ (s.run 2).sites[(1 : Fin 16)].tested ∧ lim.dmax < 10000 ∧ lim.dmax < 600 - 0)
      ∧ (lim.nmin ≤ (s.lot 3).figures.tested ∧ (s.lot 3).binWaived = false ∧ lim.fmax[(6 : Fin 15)] < 10000
        ∧ lim.fmax[(6 : Fin 15)] < (s.lot 3).figures.bins[(6 : Fin 15)] * 10000 / (s.lot 3).figures.tested)
      ∧ (0 < lim.ymin ∧ (s.lot 3).yieldWaived = false
        ∧ (s.lot 3).figures.good * 10000 / (s.lot 3).figures.tested < lim.ymin)
      ∧ (lim.ymin ≤ 180 * 10000 / 200 ∧ LimitSet.unloaded.cmax = 0 ∧ 10000 ≤ LimitSet.unloaded.dmax) := by
  unfold SiteFigures.bounded
  decide +kernel

/-- Limits and figures within their ranges, each divisor at its least; an ENDING run, a retest pass and a first pass; a
golden interval not reached and reached; and a target ahead, and taken for a parked run and for a CLOSING one, with
units to retest and without. -/
theorem witness_ChecksRaiseAtTheBreach_order :
    let lim : LimitSet := { LimitSet.unloaded with loaded := true }
    let run : Run := { runIn .testing with ring := List.replicate 4 ⟨1, 0⟩, sites := Vector.replicate 16 ⟨1, 0, 0⟩ }
    let interval (n : Nat) (r : Run) : State :=
      { world (lotIn .running oneRun) r (celRun .running) [3] with
        routes := vset State.reset.routes 5 ⟨4410, [{ stp with goldenInterval := n }], 1⟩ }
    let closing (trays : Vector Nat 8) : State :=
      floor53 { run53 with state := .closing, target := some 310, ledger := trays } 310 (some ⟨.closing, 25000⟩)
    let sum (s : State) : Nat := (((List.finRange 8).filter fun t => (stepOfRun s 2).trays[t] == .retest).map fun t =>
      (s.run 2).ledger[t]).sum
    (lim.inRange ∧ run.bounded ∧ run.ring.length = lim.w ∧ lim.nsite ≤ run.sites[(0 : Fin 16)].tested
      ∧ lim.nmin ≤ { lotIn .running oneRun with figures := { StepFigures.zero with tested := 1 } }.figures.tested)
      ∧ ((runIn .ending).state = .ending ∧ (farRun 1).state ≠ .ending ∧ (farRun 1).pass ≠ 0 ∧ (farRun 0).pass = 0)
      ∧ (let s := interval 3 { runIn .testing with sinceGolden := 2 }
        ¬ (stepOfRun s 2).goldenInterval ≤ (s.run 2).sinceGolden)
      ∧ (let s := interval 3 { runIn .testing with sinceGolden := 3 }
        0 < (stepOfRun s 2).goldenInterval ∧ (stepOfRun s 2).goldenInterval ≤ (s.run 2).sinceGolden
          ∧ (s.cell 1).state = .running ∧ (s.run 2).state = .testing ∧ runDeadline (s.cell 1))
      ∧ ((runIn .testing).target = none
        ∧ 32768 ≤ ((309 : Seq).toNat + 65536 - (310 : Seq).toNat) % 65536
        ∧ ((310 : Seq).toNat + 65536 - (310 : Seq).toNat) % 65536 ≤ 32767)
      ∧ (let s := floor53 { run53 with state := .stopped, target := some 310 } 310 none
        (s.run 2).target = some 310 ∧ (s.run 2).state = .stopped)
      ∧ (let s := closing #v[28, 3, 5, 2, 0, 0, 0, 0]
        (s.run 2).target = some 310 ∧ (s.run 2).state = .closing ∧ (s.cell (s.run 2).cell).prep = none
          ∧ (s.cell (s.run 2).cell).deadline.map (·.kind) = some .closing
          ∧ (s.run 2).pass < (stepOfRun s 2).maxRetest ∧ 0 < sum s ∧ sum s ≤ 16777215)
      ∧ sum (closing #v[38, 0, 0, 0, 0, 0, 0, 0]) = 0 := by
  unfold LimitSet.inRange Run.bounded SiteFigures.bounded RingEntry.bounded runDeadline
  decide +kernel

/-- A PASS_END of another pass; one whose target has not been taken; one whose target has, with units to retest and
without; and a CLOSING deadline that ends in this millisecond. -/
theorem witness_PassEndsCloseThePass :
    let i (pass : Byte) (last : Seq) : Instr := .passEnd (env 101) pass 42 last
    let s := floor53 run53 310 none
    let sum := (((List.finRange 8).filter fun t => (stepOfRun s 2).trays[t] == .retest).map fun t =>
      (s.run 2).ledger[t]).sum
    (fromStation (.passEnd (env 100) 0 42 310) (env 100) 1 .tester s ∧ fromStation (i 1 310) (env 101) 1 .handler s
      ∧ (s.cell 1).current = some 2 ∧ (1 : Byte).toNat ≠ (s.run 2).pass)
      ∧ (fromStation (i 0 310) (env 101) 1 .handler s ∧ (s.run 2).state = .testing ∧ (0 : Byte).toNat = (s.run 2).pass
        ∧ (s.cell 1).expected = some 310 ∧ 32768 ≤ ((310 : Seq).toNat + 131071 - (310 : Seq).toNat) % 65536
        ∧ ∀ d ∈ (s.cell 1).deadline, d.kind = .closing ∨ d.kind = .counts)
      ∧ (fromStation (i 0 309) (env 101) 1 .handler s
        ∧ ((310 : Seq).toNat + 131071 - (309 : Seq).toNat) % 65536 ≤ 32767 ∧ (s.run 2).cell = 1
        ∧ (s.run 2).pass < (stepOfRun s 2).maxRetest ∧ 0 < sum ∧ sum ≤ 16777215)
      ∧ (let t := floor53 { run53 with ledger := #v[38, 0, 0, 0, 0, 0, 0, 0] } 310 none
        fromStation (i 0 309) (env 101) 1 .handler t
          ∧ (((List.finRange 8).filter fun u => (stepOfRun t 2).trays[u] == .retest).map fun u =>
            (t.run 2).ledger[u]).sum = 0 ∧ runDeadline (t.cell 1))
      ∧ (let r := { run53 with state := .closing, target := some 310, ledger := #v[38, 0, 0, 0, 0, 0, 0, 0] }
        let t := floor53 r 310 (some ⟨.closing, 20000⟩)
        (t.cell 1).deadline = some ⟨.closing, 20000⟩ ∧ 20000 ≤ t.timer ∧ (t.cell 1).current = some 2 ∧ onlyRun 3 0 2 t
          ∧ (t.run 2).state = .closing ∧ (t.run 2).cell = 1 ∧ (t.lot 3).state = .running
          ∧ (t.lot 3).holdsKind .data (some 0) = false ∧ (t.lot 3).lotBlocked = false ∧ inPlace 3 t
          ∧ ∀ u : Fin 8, (stepOf t (t.lot 3)).trays[u] = .retest → (t.run 2).ledger[u] = 0) := by
  unfold fromStation onlyRun inPlace runDeadline
  decide +kernel

/-- Under a golden check's deadline, a target ahead and one taken in the last pass; a run STOPPED from TESTING, its target
ahead and taken; and the end of pass 1. -/
theorem witness_PassEndsCloseThePass_parked :
    let i (pass : Byte) (last : Seq) : Instr := .passEnd (env 101) pass 42 last
    let checking' (r : Run) : State :=
      let s := floor53 r 310 none
      s.setCell 1 { s.cell 1 with prep := some (prepIn .golden), deadline := some ⟨.golden, 60000⟩ }
    let last1 : Run := { run53 with pass := 1, outstanding := 2 }
    (let s := checking' run53
     fromStation (i 0 310) (env 101) 1 .handler s ∧ (s.cell 1).current = some 2 ∧ (s.run 2).state = .testing
      ∧ (0 : Byte).toNat = (s.run 2).pass ∧ (s.cell 1).expected = some 310
      ∧ 32768 ≤ ((310 : Seq).toNat + 131071 - (310 : Seq).toNat) % 65536
      ∧ (s.cell 1).deadline = some ⟨.golden, 60000⟩
      ∧ DeadlineKind.golden ∈ [DeadlineKind.changeover, .load, .golden] ∧ (s.cell 1).prep = some (prepIn .golden))
      ∧ (let s := checking' last1
        fromStation (i 1 309) (env 101) 1 .handler s ∧ (1 : Byte).toNat = (s.run 2).pass
          ∧ ((310 : Seq).toNat + 131071 - (309 : Seq).toNat) % 65536 ≤ 32767 ∧ (s.run 2).cell = 1
          ∧ (stepOfRun s 2).maxRetest ≤ (s.run 2).pass ∧ (s.cell 1).deadline = some ⟨.golden, 60000⟩)
      ∧ (let s := floor53 { run53 with state := .stopped, stoppedFrom := some .testing } 310 none
        fromStation (i 0 310) (env 101) 1 .handler s ∧ fromStation (i 0 309) (env 101) 1 .handler s
          ∧ (s.cell 1).current = some 2 ∧ (s.run 2).state = .stopped ∧ (s.run 2).stoppedFrom = some .testing
          ∧ (0 : Byte).toNat = (s.run 2).pass ∧ (s.cell 1).expected = some 310)
      ∧ (let s := floor53 last1 310 none
        fromStation (i 1 309) (env 101) 1 .handler s ∧ (s.run 2).pass ≠ 0 ∧ (s.run 2).state = .testing
          ∧ (stepOfRun s 2).maxRetest ≤ (s.run 2).pass ∧ runDeadline (s.cell 1)) := by
  unfold fromStation runDeadline
  decide +kernel

/-- The lot of two runs with one of them ENDING, on a cell whose COUNTS deadline ends in this millisecond. -/
def floorEnding : State :=
  world (lotIn .running oneRun) { run53 with state := .ending }
    { celRun .running with deadline := some ⟨.counts, 20000⟩, draining := true } [3]

theorem witness_CountsCloseTheRun :
    let s := floorEnding
    onlyRun 3 0 2 s ∧ (s.run 2).state = .ending ∧ (s.run 2).cell = 1 ∧ (s.lot 3).state = .running
      ∧ (s.lot 3).lotBlocked = false ∧ (s.lot 3).closedRuns + 1 < (s.lot 3).runsPerStep ∧ (s.cell 1).state = .running
      ∧ (s.cell 1).current = some 2 ∧ (s.cell 1).stack = [] ∧ (s.cell 1).prep = none ∧ (s.cell 1).changed = false
      ∧ nothingFor 1 s ∧ (s.lot 3).holdsKind .recon none = false
      ∧ (s.cell 1).deadline = some ⟨.counts, 20000⟩ ∧ 20000 ≤ s.timer := by
  unfold onlyRun nothingFor
  decide +kernel

/-- Counts that agree, counts one beyond the tolerance of 0, a cell whose run is not ENDING, and a tester's counts. -/
theorem witness_CountsCloseTheRun_reports :
    let s := floorEnding
    let near (tol a b : Nat) : Prop := a ≤ b + tol ∧ b ≤ a + tol
    let good : Vector (BitVec 24) 8 := #v[28, 3, 5, 2, 0, 0, 0, 0]
    let w := lotRunning .running .testing
    (fromStation (.runCounts (env 101) 38 good) (env 101) 1 .handler s
      ∧ near (limitsOf s (s.lot 3)).inputTol 38 (s.run 2).tested
      ∧ (∀ t : Fin 8, near (limitsOf s (s.lot 3)).trayTol good[t].toNat (s.run 2).ledger[t])
      ∧ (s.run 2).shortfall ≤ (limitsOf s (s.lot 3)).trayTol ∧ (s.run 2).surplus ≤ (limitsOf s (s.lot 3)).trayTol
      ∧ ∀ d ∈ (s.cell 1).deadline, d.kind = .counts)
      ∧ ¬ near (limitsOf s (s.lot 3)).inputTol 39 (s.run 2).tested
      ∧ (fromStation (.runCounts (env 101) 38 good) (env 101) 1 .handler w
        ∧ ∀ q ∈ (w.cell 1).current, (w.run q).state ≠ .ending)
      ∧ fromStation (.runCounts (env 100) 38 good) (env 100) 1 .tester s := by
  unfold fromStation
  decide +kernel

/-- A HELD lot at its step's end: with a STOP hold; a yield of 7750 against 8000; an input of one beyond the tolerance;
and both. -/
theorem witness_StepsCloseByTheirChecks :
    let x (hs : List Hold) (good fed : Nat) : Lot := { lotIn .running noRun with
      q := 42, holds := hs, toAssign := 0
      figures := { StepFigures.zero with tested := 40, good := good, goodFinal := good, fedSum := fed } }
    let on (x : Lot) : State := { world x .free (cel .idle) [] with
      limits := vset State.reset.limits 0 { LimitSet.unloaded with loaded := true, yfinal := 8000, inputTol := 5 } }
    let low (s : State) : Prop := let f := (s.lot 3).figures
      0 < (limitsOf s (s.lot 3)).yfinal ∧ 0 < f.tested
        ∧ min f.goodFinal f.tested * 10000 / f.tested < (limitsOf s (s.lot 3)).yfinal
    let near (s : State) : Prop := (s.lot 3).figures.fedSum ≤ (s.lot 3).q + (limitsOf s (s.lot 3)).inputTol
      ∧ (s.lot 3).q ≤ (s.lot 3).figures.fedSum + (limitsOf s (s.lot 3)).inputTol
    let still (s : State) : Prop := (∀ p, (s.lot 3).openAt p = none) ∧ 3 ∉ s.queue
    (¬ low (on (x [stopHold] 32 47)) ∧ near (on (x [stopHold] 32 47)) ∧ still (on (x [stopHold] 32 47)))
      ∧ (low (on (x [] 31 37)) ∧ near (on (x [] 31 37)) ∧ still (on (x [] 31 37))
        ∧ ((on (x [] 31 37)).lot 3).holdsKind .final none = false)
      ∧ (¬ low (on (x [] 32 48)) ∧ ¬ near (on (x [] 32 48)) ∧ ((on (x [] 32 48)).lot 3).holdsKind .recon none = false)
      ∧ (low (on (x [] 31 36)) ∧ ¬ near (on (x [] 31 36))) := by decide +kernel

/-- A lot that advances to its next step, with a MARK hold; and lots past their route, by the last step and by no good
unit. -/
theorem witness_StepsCloseByTheirChecks_advances :
    let x (step good : Nat) : Lot := { lotIn .running noRun with
      q := 40, holds := [markHold], toAssign := 0, step := step
      figures := { StepFigures.zero with tested := 40, good := good, goodFinal := good, fedSum := 40 } }
    let s := world (x 0 30) .free (cel .down) []
    (0 < (s.lot 3).figures.goodFinal ∧ (s.route (s.lot 3).route).steps[(s.lot 3).step + 1]? = some stp ∧ 3 ∉ s.queue
      ∧ s.seqCounter < 4294967295 ∧ 1 ≤ stp.maxRuns ∧ 1 ≤ (s.lot 3).split
      ∧ s.timer < (s.lot 3).classSince + s.profile.aging * 60000 ∧ noCellFor stp s
      ∧ noCandidateFor (s.lot 3).cls (s.lot 3).preempt stp s ∧ ∀ h ∈ (s.lot 3).holds, h.policy = .mark)
      ∧ (let t := world (x 1 30) .free (cel .down) []
        (t.route (t.lot 3).route).steps.length ≤ (t.lot 3).step + 1)
      ∧ ((world (x 0 0) .free (cel .down) []).lot 3).figures.goodFinal = 0 := by
  unfold noCellFor noCandidateFor
  decide +kernel

/-- 7.9.1, event 5: the last run of a lot's last step, its final yield unlimited. -/
theorem witness_StepsCloseByTheirChecks_finishes :
    let r := { run53 with state := .ending, pass := 1, tested := 40, ledger := #v[30, 4, 1, 3, 0, 0, 0, 0], shortfall := 2 }
    let s : State := { floor53 r 312 (some ⟨.counts, 80000⟩) with
      limits := vset State.reset.limits 0 { LimitSet.unloaded with loaded := true, trayTol := 3, inputTol := 5 } }
    let trays : Vector (BitVec 24) 8 := #v[30, 4, 1, 4, 0, 0, 0, 0]
    let near (tol a b : Nat) : Prop := a ≤ b + tol ∧ b ≤ a + tol
    let lim := limitsOf s (s.lot 3)
    let f := (s.lot 3).figures.withRun (stepOf s (s.lot 3)) { s.run 2 with handlerFed := some 42 }
    fromStation (.runCounts (env 101) 42 trays) (env 101) 1 .handler s ∧ near lim.inputTol 42 (s.run 2).tested
      ∧ (∀ t : Fin 8, near lim.trayTol trays[t].toNat (s.run 2).ledger[t]) ∧ (s.run 2).shortfall ≤ lim.trayTol
      ∧ (s.run 2).surplus ≤ lim.trayTol ∧ onlyRun 3 0 2 s ∧ (s.run 2).state = .ending ∧ (s.run 2).cell = 1
      ∧ (s.lot 3).state = .running ∧ (s.lot 3).holds = [] ∧ (s.lot 3).closedRuns + 1 = (s.lot 3).runsPerStep
      ∧ (s.route (s.lot 3).route).steps.length ≤ (s.lot 3).step + 1 ∧ near lim.inputTol f.fedSum (s.lot 3).q
      ∧ lim.yfinal = 0 ∧ (s.cell 1).state = .running ∧ (s.cell 1).current = some 2 ∧ (s.cell 1).stack = []
      ∧ (s.cell 1).prep = none ∧ (∀ d ∈ (s.cell 1).deadline, d.kind = .counts) ∧ (s.cell 1).changed = false
      ∧ nothingFor 1 s := by
  unfold fromStation onlyRun nothingFor
  decide +kernel

/-- A balanced run one unit short of the maximum, and run 53 at its pass end. -/
theorem witness_LedgersBalance :
    let balanced (x : Run) : Prop := x.ledger.toList.sum + x.outstanding + x.shortfall = x.tested + x.surplus
    let far : Run := { Run.free with tested := 16777214, ledger := #v[16777214, 0, 0, 0, 0, 0, 0, 0] }
    (balanced far ∧ far.tested + [(⟨0, 0⟩ : TestedUnit)].length ≤ 16777215
      ∧ ∀ t : Fin 8, far.ledger[t] + [(⟨0, 0⟩ : TestedUnit)].length ≤ 16777215)
      ∧ (balanced run53 ∧ (run53.pass = 0 → run53.outstanding = 0) ∧ run53.shortfall + run53.outstanding ≤ 16777215
        ∧ run53.ledger.toList.sum ≤ 16777215) := by decide +kernel

/-- A queue with a hot entry behind another, and one without; and the cell that a CELL_DRAIN gives its lot. -/
theorem witness_DispatchChoosesByItsKeys :
    let lots (a b : Nat) : State :=
      { floorOf .idle with
        lots := vset (vset State.reset.lots 3 { lotIn .waiting noRun with cls := a }) 4
          { lotIn .waiting noRun with cls := b, tag := 7002 }
        queue := [3, 4] }
    let s := lots 2 0
    let fits (s : State) (m : LotSlot) : Bool := compatible (s.cell 1) (stepOf s (s.lot m))
    (s.queue = [3] ++ 4 :: [] ∧ fits s 4 = true ∧ (s.lot 4).cls = 0 ∧ ∀ m ∈ [(3 : LotSlot)], (s.lot m).cls ≠ 0)
      ∧ (let t := lots 2 2
        (t.queue.filter fun m => fits t m).take t.profile.lookahead = [] ++ 3 :: [4]
          ∧ (∀ m ∈ t.queue, (t.lot m).cls ≠ 0)
          ∧ ∀ m ∈ [(4 : LotSlot)], setupCost (t.cell 1) (stepOf t (t.lot 3)) ≤ setupCost (t.cell 1) (stepOf t (t.lot m)))
      ∧ (∀ m ∈ (floorOf .idle).queue, fits (floorOf .idle) m = false)
      ∧ (let t := world (lotIn .waiting noRun) .free { cel .idle with draining := true } [3]
        inOperate (.cellDrain (hd 2) 1 0) (hd 2) t ∧ (1 : CellIx).val = (1 : Byte).toNat ∧ 1 < t.profile.cellsInUse
          ∧ (t.cell 1).state = .idle ∧ (t.cell 1).stack = []
          ∧ chooseLot (t.setCell 1 { t.cell 1 with draining := false }) 1 = some 3)
      ∧ (Cell.powerOn.kit = none ∧ Cell.powerOn.temp = none ∧ Cell.powerOn.program = none) := by
  unfold inOperate admitted
  decide +kernel

/-- The counter one short of its last value, and at it. -/
theorem witness_QueueKeepsItsOrder :
    ({ waitingLot with seqCounter := 4294967294 }.seqCounter < 4294967295)
      ∧ ({ waitingLot with seqCounter := 4294967295 }.seqCounter = 4294967295 ∧ waitingLot.queue.Nodup
        ∧ waitingLot.queue[0]? = some 3 ∧ (3 : LotSlot) ≠ 17)
      ∧ (17 ∉ waitingLot.queue
        ∧ waitingLot.queue.Pairwise (fun a b => queueBefore waitingLot a b = true)) := by decide +kernel

/-- A cell that needs a changeover, one that matches, and one to preempt; then an ASSIGNED run, its lot in the queue and
out of it. -/
theorem witness_AssignmentsBindARun :
    let s (k : Cell) : State := world (lotIn .waiting noRun) .free k [3]
    let k := cel .idle
    (((s k).run 0).state = .free ∧ (∀ q : RunIx, q < 0 → ((s k).run q).state ≠ .free)
      ∧ ((s k).lot 3).runs[(0 : RunPlace)] = .absent
      ∧ ∀ q : RunPlace, q < 0 → ((s k).lot 3).runs[q] ≠ .absent)
      ∧ (let t := s { k with kit := some 9 }
        (t.cell 1).state = .idle ∧ (t.cell 1).deadline = none ∧ (t.cell 1).kit ≠ some (stepOf t (t.lot 3)).kit)
      ∧ (setupCost ((s k).cell 1) (stepOf (s k) ((s k).lot 3)) = 0 ∧ ((s k).cell 1).goldenValid = true
        ∧ (stepOf (s k) ((s k).lot 3)).minSites
          ≤ siteNumber (usableSites ((s k).cell 1) (stepOf (s k) ((s k).lot 3))))
      ∧ ((s (cel .running)).cell 1).state = .running
      ∧ (bestCell (s (cel .down)) 3 = none ∧ 0 < ((s k).lot 3).toAssign ∧ bestCell (s k) 3 = some 1) := by decide +kernel

theorem witness_AssignmentsBindARun_preempts :
    let hot : Lot := { lotIn .waiting noRun with cls := 0, preempt := true, tag := 7002 }
    let s := (lotRunning .running .testing).setLot 4 hot
    ((s.lot 4).cls = 0 ∧ (s.lot 4).preempt = true ∧ 0 < (s.lot 4).toAssign ∧ bestCandidate s 4 = some 1)
      ∧ ((s.lot 3).cls ≠ 0 ∧ bestCandidate (floorOf .idle) 3 = none) := by decide +kernel

theorem witness_AssignmentsBindARun_withdraws :
    let on (x : Lot) (q : List LotSlot) : State := world x (runIn .assigned) (preparing .changeover .changeover .changeover) q
    let s := on (lotIn .waiting oneRun) [3]
    let t := on { lotIn .waiting oneRun with toAssign := 0 } []
    ((s.lot 3).state = .waiting ∧ (s.lot 3).lotBlocked = false ∧ 2 ∉ (s.cell 1).stack ∧ 3 ∈ s.queue)
      ∧ ((t.lot 3).state = .waiting ∧ (t.lot 3).lotBlocked = false ∧ 2 ∉ (t.cell 1).stack ∧ 3 ∉ t.queue
        ∧ t.timer < (t.lot 3).classSince + t.profile.aging * 60000 ∧ noCellFor (stepOf t (t.lot 3)) t
        ∧ noCandidateFor (t.lot 3).cls (t.lot 3).preempt (stepOf t (t.lot 3)) t) := by
  unfold noCellFor noCandidateFor
  decide +kernel

/-- A step that a command takes, from a floor at work that meets the invariants of the links. -/
theorem witness_StepsKeepTheLinks :
    let s := busy (lotRunning .running .testing)
    (nextOf (step { s with pending := [.status (hd 0)] })).isSome = true ∧ s.linksOk ∧ s.portsBusy := by
  unfold State.linksOk State.portsBusy
  decide +kernel

theorem witness_StepsKeepTheBounds :
    let s := lotRunning .running .testing
    (nextOf (step { s with pending := [.touchdown (env 100) 310 [ent 0 1]] })).isSome = true ∧ s.tablesOk ∧ s.figuresOk
      ∧ s.cellsOk ∧ s.queueOk := by
  refine ⟨by decide +kernel, ?_, ?_, ?_, ?_⟩
  · unfold State.tablesOk Step.inRange LimitSet.inRange
    decide +kernel
  · unfold State.figuresOk StepFigures.bounded Run.bounded SiteFigures.bounded RingEntry.bounded
    decide +kernel
  · unfold State.cellsOk Cell.bounded Accumulators.bounded
    decide +kernel
  · unfold State.queueOk
    decide +kernel

theorem witness_StepsKeepTheKeys :
    let s := shipFloor inShip (oneMember .sealed)
    s.lotTagsOk ∧ s.refsOk ∧ s.shipsOk ∧ s.stationsOk ∧ s.holdsOk
      ∧ (nextOf (step { s with pending := [.shipRelease (hd 8) 5500] })).isSome = true :=
  ⟨one_lot (by decide +kernel), by unfold State.refsOk; decide +kernel,
    one_ship (by unfold Shipment.balanced; decide +kernel) (by decide +kernel), by unfold State.stationsOk; decide +kernel,
    by unfold State.holdsOk Lot.holdsOk; decide +kernel, by decide +kernel⟩

theorem witness_StepsKeepTheLots :
    let s := lotRunning .running .testing
    ((s.lot 3).state ≠ .vacant
      ∧ (nextOf (step { s with pending := [.lotScrap (hd 8) 7001] })).map (fun t => (t.lot 3).state) = some .scrapped)
      ∧ (Instr.lotScrap (hd 8) 7001 ≠ .powerOnReset ∧ s.phase = .operate) := by decide +kernel

/-- A QUARANTINED cell whose station reports READY. -/
theorem witness_QuarantineHolds :
    let s := floorOf .quarantined
    s.phase = .operate ∧ (nextOf (exec (.state (env 101) 0) s)).isSome = true ∧ (s.cell 1).state = .quarantined
      ∧ (s.cell 1).prep = none ∧ ∀ d ∈ (s.cell 1).deadline, d.kind = .closing ∨ d.kind = .counts := by decide +kernel

end Sys2Proof.Tests
end

section
/-! LOT_RETIRE (R27): which lots it accepts, the state it leaves, and the tag it frees. -/

namespace Sys2Proof.Machine

/-! ## A request in OPERATE -/

theorem hasRoom_eq_true_of_admitted {i : Instr} {h : ReqHead} {s : State} (ha : admitted i h s) : hasRoom s = true :=
  decide_eq_true ha.1

/-- A request that finds the part in OPERATE is answered by its own rule, SET_PROFILE alone excepted (R174). -/
theorem serve_of_inOperate {i : Instr} {h : ReqHead} {kind : BitVec 16} {own : State → Reply} {s : State}
    (ho : inOperate i h s) (hi : Instr.isSetProfile i = false) :
    serve i h kind own s = respond h kind (own s) := by
  obtain ⟨ha, hphase⟩ := ho
  have hroom : hasRoom s = true := hasRoom_eq_true_of_admitted ha
  obtain ⟨-, hsrc, hwf⟩ := ha
  have hjudge : judge i h i.wf s own = own s := by simp [judge, hsrc, hwf, hphase, hi]
  rw [serve, if_pos hroom, hjudge]

/-! ## Finding a lot by its tag (R1) -/

/-- A found lot is not VACANT and carries the tag. -/
theorem findLot_eq_some {s : State} {t : Tag} {l : LotSlot} (h : findLot s t = some l) :
    (s.lot l).state ≠ .vacant ∧ (s.lot l).tag = t := by
  simpa using List.find?_some h

theorem findLot_eq_none_iff {s : State} {t : Tag} :
    findLot s t = none ↔ ∀ i, (s.lot i).state ≠ .vacant → (s.lot i).tag ≠ t := by
  simp [findLot]

/-- Where no two lots share a tag, vacating the lot that carries one frees it (R1). -/
theorem findLot_eq_none_of_vacated {s t : State} {tag : Tag} {l : LotSlot} (hu : s.lotTagsOk)
    (hf : findLot s tag = some l) (hl : (t.lot l).state = .vacant) (hne : ∀ i, i ≠ l → t.lot i = s.lot i) :
    findLot t tag = none := by
  obtain ⟨hlive, htag⟩ := findLot_eq_some hf
  rw [findLot_eq_none_iff]
  intro i hi hti
  by_cases hil : i = l
  · exact hi (hil ▸ hl)
  · rw [hne i hil] at hi hti
    exact hil (hu i l hi hlive (hti.trans htag.symm))

/-! ## Retiring a lot (R27) -/

theorem Lot.retirable_iff (x : Lot) :
    x.retirable = true ↔ x.state = .released ∨ x.state = .scrapped
      ∨ (x.state = .finished ∧ ∀ g : Fin 4, x.gradeQty[g] = 0) := by
  simp [Lot.retirable, or_assoc, Fin.forall_iff]

@[simp] theorem modRefs_lot (r : RouteIx) (f : Nat → Nat) (s : State) (l : LotSlot) :
    (modRefs r f s).lot l = s.lot l := rfl

/-- A lot retired, table by table: its record VACANT, and its route's count lowered if it was FINISHED (R5). -/
theorem retireLot_eq (l : LotSlot) (s : State) :
    retireLot l s = { s with
      lots := vset s.lots l .vacant
      routes := if (s.lot l).state = .finished then
          vset s.routes (s.lot l).route
            { s.route (s.lot l).route with refs := (s.route (s.lot l).route).refs - 1 } else s.routes } := by
  unfold retireLot
  split <;> rfl

theorem retireLot_lot_same (l : LotSlot) (s : State) : (retireLot l s).lot l = .vacant := setLot_lot ..

theorem retireLot_lot_ne {l i : LotSlot} (s : State) (h : i ≠ l) : (retireLot l s).lot i = s.lot i := by
  rw [retireLot, setLot_lot_ne _ _ h.symm]
  split
  · exact modRefs_lot ..
  · rfl

theorem retireLot_ships (l : LotSlot) (s : State) : (retireLot l s).ships = s.ships := by
  rw [retireLot_eq]

theorem findLot_retireLot {s : State} {tag : Tag} {l : LotSlot} (hu : s.lotTagsOk) (hf : findLot s tag = some l) :
    findLot (retireLot l s) tag = none :=
  findLot_eq_none_of_vacated hu hf (by rw [retireLot_lot_same]; rfl) fun _ => retireLot_lot_ne s

/-! ## LOT_RETIRE -/

theorem exec_lotRetire {h : ReqHead} {tag : Tag} {s : State} (ho : inOperate (.lotRetire h tag) h s) :
    exec (.lotRetire h tag) s = .next (respond h 0x0315 (ownLotRetire tag s)) :=
  congrArg Host.Outcome.next (serve_of_inOperate ho rfl)

theorem ownLotRetire_of_none {tag : Tag} {s : State} (hf : findLot s tag = none) :
    ownLotRetire tag s = refuse .notFound s := by
  simp [ownLotRetire, hf]

theorem ownLotRetire_of_some {tag : Tag} {s : State} {l : LotSlot} (hf : findLot s tag = some l) :
    ownLotRetire tag s = if (s.lot l).retirable then ok (retireLot l s) else refuse .wrongState s := by
  simp [ownLotRetire, hf]

/-- Settles O25: the acceptance is `Lot.retirable_iff`, the next state `retireLot_eq`, the freed tag
`findLot_retireLot`. -/
theorem lotRetireVacatesTheRecord : Obligations.LotRetireVacatesTheRecord := by
  intro h tag s ho
  rw [exec_lotRetire ho]
  refine ⟨fun hf => by rw [ownLotRetire_of_none hf], fun l hf => ?_⟩
  intro x accepted t
  have haccepted : x.retirable = true ↔ accepted := x.retirable_iff
  have ht : t = retireLot l s := (retireLot_eq l s).symm
  rw [ownLotRetire_of_some hf, ht, ← haccepted]
  constructor
  · intro hrefused
    rw [if_neg hrefused]
  · intro hretirable
    rw [if_pos hretirable]
    exact ⟨rfl, retireLot_ships l s, fun hu => findLot_retireLot hu hf⟩

end Sys2Proof.Machine
end

section
/-! LOAD_LIMITS (R40): the clamped value of each count field and policy, and how many fields a load clamps. -/

namespace Sys2Proof.Machine

/-! ## Each clamped field (R40) -/

/-- The codes that are no policy are those above MARK's (R184). -/
theorem policyOf_isNone_iff (b : Byte) : (policyOf b).isNone = true ↔ 2 < b.toNat := by
  unfold policyOf
  generalize b.toNat = n
  match n with
  | 0 | 1 | 2 | k + 3 => simp

theorem clampPolicy_eq (b : Byte) :
    clampPolicy b = if b = 1 then .finish else if b = 2 then .mark else .stop := by
  by_cases hfinish : b = 1
  · subst hfinish; rfl
  by_cases hmark : b = 2
  · subst hmark; rfl
  rw [if_neg hfinish, if_neg hmark]
  by_cases hstop : b = 0
  · subst hstop; rfl
  have hnone : policyOf b = none :=
    Option.isNone_iff_eq_none.mp ((policyOf_isNone_iff b).mpr (by bv_omega))
  rw [clampPolicy, hnone, Option.getD_none]

theorem clampCount_eq (v : BitVec 16) : clampCount v = if v = 0 then 1 else v.toNat := by
  simp [clampCount, ← BitVec.toNat_inj]

theorem clampWindow_eq (v : Byte) :
    clampWindow v = if v.toNat ≤ 3 then 4 else if 33 ≤ v.toNat then 32 else v.toNat := by
  simp only [clampWindow, Nat.lt_succ_iff, Nat.succ_le_iff]

/-! ## The clamp count (R40) -/

/-- What one field adds to the clamp count when `p` says that it is clamped. -/
noncomputable def oneIf (p : Prop) : Nat := @ite Nat p (Classical.propDecidable p) 1 0

/-- A count of fields is the sum of what each of them adds. -/
theorem countP_eq_sum_oneIf {α : Type} {q : α → Bool} {p : α → Prop} (h : ∀ v, q v = true ↔ p v) (l : List α) :
    l.countP q = (l.map fun v => oneIf (p v)).sum := by
  induction l with
  | nil => rfl
  | cons v vs ih =>
    have hv : (if q v = true then 1 else 0) = oneIf (p v) := by
      classical
      exact if_congr (h v) rfl rfl
    rw [List.countP_cons, ih, hv, List.map_cons, List.sum_cons, Nat.add_comm]

/-- The entries of a vector, named by their indices. -/
theorem toList_eq_map_finRange {α : Type} {n : Nat} (v : Vector α n) : v.toList = (List.finRange n).map v.get := by
  apply List.ext_getElem
  · simp
  · intro i _ _
    simp [Vector.get_eq_getElem]

theorem limitsClampCount_eq (a : LimitArgs) :
    limitsClampCount a =
      oneIf (10000 < a.ymin.toNat) + oneIf (10000 < a.ywin.toNat) + oneIf (10000 < a.dmax.toNat)
        + oneIf (10000 < a.yfinal.toNat) + ((List.finRange 15).map fun h => oneIf (10000 < (a.fmax.get h).toNat)).sum
        + oneIf (a.nmin = 0) + oneIf (a.nsite = 0) + oneIf (a.w.toNat ≤ 3 ∨ 33 ≤ a.w.toNat)
        + oneIf (2 < a.polYield.toNat) + oneIf (2 < a.polBin.toNat) + oneIf (2 < a.polWindow.toNat)
        + oneIf (2 < a.polSite.toNat) + oneIf (2 < a.polConsec.toNat) := by
  have hbp (v : BitVec 16) : decide (10000 < v.toNat) = true ↔ 10000 < v.toNat := decide_eq_true_iff
  have hcount (v : BitVec 16) : decide (v.toNat = 0) = true ↔ v = 0 := by simp [← BitVec.toNat_inj]
  have hwindow (v : Byte) : (v.toNat < 4 || 32 < v.toNat) = true ↔ v.toNat ≤ 3 ∨ 33 ≤ v.toNat := by
    simp only [Bool.or_eq_true, decide_eq_true_iff, Nat.lt_succ_iff, Nat.succ_le_iff]
  rw [limitsClampCount, countP_eq_sum_oneIf hbp, countP_eq_sum_oneIf hcount, countP_eq_sum_oneIf hwindow,
    countP_eq_sum_oneIf policyOf_isNone_iff, toList_eq_map_finRange]
  simp only [List.map_append, List.sum_append, List.map_map, Function.comp_def, List.map_cons, List.map_nil,
    List.sum_cons, List.sum_nil]
  omega

/-- 4 + 15 basis-point fields, Nmin and Nsite, W, and 5 policies. -/
theorem limitsClampCount_le (a : LimitArgs) : limitsClampCount a ≤ 27 := by
  have hbp : ([a.ymin, a.ywin, a.dmax, a.yfinal] ++ a.fmax.toList).length = 19 := by simp
  exact Nat.add_le_add (Nat.add_le_add (Nat.add_le_add (hbp ▸ List.countP_le_length) List.countP_le_length)
    List.countP_le_length) List.countP_le_length

/-- Settles O16: the stored values are `clampCount_eq`, `clampWindow_eq` and `clampPolicy_eq`, the count is
`limitsClampCount_eq`, its bound `limitsClampCount_le`. -/
theorem limitCountsAndPoliciesClamp : Obligations.LimitCountsAndPoliciesClamp := by
  intro a
  exact ⟨clampCount_eq a.nmin, clampCount_eq a.nsite, clampWindow_eq a.w, clampPolicy_eq a.polYield,
    clampPolicy_eq a.polBin, clampPolicy_eq a.polWindow, clampPolicy_eq a.polSite, clampPolicy_eq a.polConsec,
    rfl, rfl, rfl, limitsClampCount_eq a, limitsClampCount_le a⟩

end Sys2Proof.Machine
end

section
/-! SHIP_RETIRE (R163): the shipment a tag finds, and the tag freed when its record becomes VACANT. -/

namespace Sys2Proof.Machine

/-! ## Finding a shipment by its tag (R154) -/

/-- A found shipment is not VACANT and carries the tag. -/
theorem findShip_eq_some {s : State} {t : Tag} {n : ShipSlot} (h : findShip s t = some n) :
    (s.ship n).state ≠ .vacant ∧ (s.ship n).tag = t := by
  simpa using List.find?_some h

theorem findShip_eq_none_iff {s : State} {t : Tag} :
    findShip s t = none ↔ ∀ i, (s.ship i).state ≠ .vacant → (s.ship i).tag ≠ t := by
  simp [findShip]

/-- Where no two shipments share a tag, vacating the shipment that carries one frees it (R154). -/
theorem findShip_setShip_vacant {s : State} {tag : Tag} {n : ShipSlot} (hs : s.shipsOk)
    (hf : findShip s tag = some n) : findShip (s.setShip n .vacant) tag = none := by
  obtain ⟨hlive, htag⟩ := findShip_eq_some hf
  obtain ⟨-, hunique⟩ := hs
  rw [findShip_eq_none_iff]
  intro i hi hti
  by_cases hni : n = i
  · subst hni
    rw [setShip_ship] at hi
    exact hi rfl
  · rw [setShip_ship_ne _ _ hni] at hi hti
    exact hni (hunique n i hlive hi (htag.trans hti.symm))

/-! ## SHIP_RETIRE -/

theorem exec_shipRetire {h : ReqHead} {tag : Tag} {s : State} (ho : inOperate (.shipRetire h tag) h s) :
    exec (.shipRetire h tag) s = .next (respond h 0x0336 (ownShipRetire tag s)) :=
  congrArg Host.Outcome.next (serve_of_inOperate ho rfl)

theorem ownShipRetire_of_none {tag : Tag} {s : State} (hf : findShip s tag = none) :
    ownShipRetire tag s = refuse .notFound s := by
  simp [ownShipRetire, hf]

theorem ownShipRetire_of_some {tag : Tag} {s : State} {n : ShipSlot} (hf : findShip s tag = some n) :
    ownShipRetire tag s =
      if (s.ship n).state = .released then ok (s.setShip n .vacant) else refuse .wrongState s := by
  simp [ownShipRetire, hf]

/-- Settles O35: the refusals and the vacated record are `ownShipRetire_of_none` and `ownShipRetire_of_some`, the freed
tag `findShip_setShip_vacant`. -/
theorem shipRetireVacatesTheRecord : Obligations.ShipRetireVacatesTheRecord := by
  intro h tag s ho
  rw [exec_shipRetire ho]
  refine ⟨fun hf => by rw [ownShipRetire_of_none hf], fun n hf => ?_⟩
  rw [ownShipRetire_of_some hf]
  constructor
  · intro hrefused
    rw [if_neg hrefused]
  · intro hreleased
    rw [if_pos hreleased]
    exact ⟨rfl, rfl, fun hs => findShip_setShip_vacant hs hf⟩

end Sys2Proof.Machine
end

section
/-! What a shared operation spares: it makes no response, and it leaves a cell that is parked QUARANTINED as it is,
unless the cell is the one the operation is asked to work on. One lemma for each shared operation, along the lemmas of
`Acts`. -/

set_option Elab.async false

namespace Sys2Proof.Machine

/-- A QUARANTINED cell with no preparation and no stage deadline (R86). -/
def Cell.Parked (k : Cell) : Prop :=
  k.state = .quarantined ∧ k.prep = none ∧ ∀ d ∈ k.deadline, d.kind = .closing ∨ d.kind = .counts

/-- What an operation spares: no response joins the outbound list, and the parked cells among `p` stay parked. -/
structure Spares (p : CellIx → Prop) (s t : State) : Prop where
  responses : responsesWaiting t ≤ responsesWaiting s
  parked : ∀ c, p c → (s.cell c).Parked → (t.cell c).Parked

variable {p : CellIx → Prop}

theorem Spares.refl (s : State) : Spares p s s := ⟨le_refl _, fun _ _ h => h⟩

theorem Spares.trans {s t u : State} (h : Spares p s t) (k : Spares p t u) : Spares p s u :=
  ⟨k.responses.trans h.responses, fun c hc hs => k.parked c hc (h.parked c hc hs)⟩

theorem Spares.ite {q : Prop} [Decidable q] {s a b : State} (h : q → Spares p s a) (k : ¬ q → Spares p s b) :
    Spares p s (if q then a else b) := by
  split
  · exact h ‹_›
  · exact k ‹_›

/-- A cell that is not parked has nothing to be spared. -/
theorem Spares.awake {s t : State} (c : CellIx) (hc : ¬ (s.cell c).Parked)
    (h : Spares (fun d => p d ∧ d ≠ c) s t) : Spares p s t :=
  ⟨h.responses, fun d hd hs => h.parked d ⟨hd, fun e => hc (e ▸ hs)⟩ hs⟩

theorem Cell.not_parked_of_state {k : Cell} (h : k.state ≠ .quarantined) : ¬ k.Parked := fun hk => h hk.1

theorem Cell.not_parked_of_prep {k : Cell} {q : Prep} (h : k.prep = some q) : ¬ k.Parked := fun hk => by
  simp [hk.2.1] at h

theorem not_spared (c : CellIx) : ¬ (p c ∧ c ≠ c) := fun h => h.2 rfl

/-! ## Writes of one record -/

/-- An operation that leaves the outbound list and the cells alone. -/
theorem Spares.of_eq {s t : State} (ho : t.outbound = s.outbound) (hc : t.cells = s.cells) : Spares p s t :=
  ⟨by rw [responsesWaiting, ho]; rfl, fun c _ h => by rw [State.cell, hc]; exact h⟩

theorem Spares.setLot (s : State) (i : LotSlot) (x : Lot) : Spares p s (s.setLot i x) := .of_eq rfl rfl

theorem Spares.modLot (s : State) (i : LotSlot) (f : Lot → Lot) : Spares p s (s.modLot i f) := .of_eq rfl rfl

theorem Spares.setRun (s : State) (r : RunIx) (x : Run) : Spares p s (s.setRun r x) := .of_eq rfl rfl

theorem Spares.modRun (s : State) (r : RunIx) (f : Run → Run) : Spares p s (s.modRun r f) := .of_eq rfl rfl

/-- A write of a cell that, if spared, stays parked. -/
theorem Spares.modCell (s : State) (c : CellIx) (f : Cell → Cell)
    (h : p c → (s.cell c).Parked → (f (s.cell c)).Parked) : Spares p s (s.modCell c f) := by
  refine ⟨le_refl _, fun d hd hs => ?_⟩
  by_cases e : c = d
  · subst e
    simpa using h hd hs
  · rwa [modCell_cell_ne s f e]

/-- A write of a cell's fields other than its state, its preparation and its deadline. -/
theorem Spares.modCell_same (s : State) (c : CellIx) (f : Cell → Cell)
    (h : ∀ k : Cell, (f k).state = k.state ∧ (f k).prep = k.prep ∧ (f k).deadline = k.deadline := by
      intro; exact ⟨rfl, rfl, rfl⟩) : Spares p s (s.modCell c f) := by
  obtain ⟨hs, hp, hd⟩ := h (s.cell c)
  exact .modCell s c f fun _ k => by simpa [Cell.Parked, hs, hp, hd] using k

/-- A write of a cell that is not spared. -/
theorem Spares.modCell_of_not {s : State} {c : CellIx} (hc : ¬ p c) (f : Cell → Cell) : Spares p s (s.modCell c f) :=
  .modCell s c f fun h => absurd h hc

theorem Spares.enterCell {c : CellIx} (hc : ¬ p c) (st : CellState) (cause : Option Cause) (s : State) :
    Spares p s (enterCell c st cause s) := .modCell_of_not hc _

/-! ## The ports -/

theorem responsesWaiting_kickF_le (s : State) : responsesWaiting (kickF s) ≤ responsesWaiting s := by
  unfold kickF
  split
  · exact le_refl _
  · split
    · next n rest e =>
      rw [responsesWaiting, responsesWaiting, e]
      exact (List.sublist_cons_self _ _).countP_le
    · next r rest e =>
      rw [responsesWaiting, responsesWaiting, e]
      exact (List.sublist_cons_self _ _).countP_le
    · split <;> exact le_refl _

theorem Spares.forwardCF (b : List Byte) (s : State) : Spares p s (forwardCF b s) :=
  ⟨by
    unfold Machine.forwardCF
    split
    · exact responsesWaiting_kickF_le _
    · exact le_refl _, fun c _ h => by simpa using h⟩

theorem Spares.appendOrder (o : OrderFrame) (s : State) : Spares p s (appendOrder o s) :=
  .of_eq (by
    unfold Machine.appendOrder
    split
    · exact kickC_outbound _
    · rfl) (by simp)

theorem Spares.forwardFC (b : List Byte) (s : State) : Spares p s (forwardFC b s) :=
  .of_eq (by
    unfold Machine.forwardFC
    split
    · exact kickC_outbound _
    · rfl) (by simp)

theorem Spares.postNotice (n : Notice) (s : State) : Spares p s (postNotice n s) :=
  ⟨by
    unfold Machine.postNotice
    split
    · exact (responsesWaiting_kickF_le _).trans (by simp [responsesWaiting, Outbound.isResponse])
    · exact le_refl _, fun c _ h => by simpa using h⟩

theorem Spares.sendOrder (c : CellIx) (role : Role) (o : Order) (s : State) : Spares p s (sendOrder c role o s) := by
  unfold Machine.sendOrder
  split
  · exact .appendOrder _ _
  · exact .refl _

theorem Spares.sendBoth (c : CellIx) (o : Order) (s : State) : Spares p s (sendBoth c o s) :=
  (Spares.sendOrder _ _ _ _).trans (.sendOrder _ _ _ _)

/-! ## RUN -/

theorem Cell.Parked.armRun {k : Cell} (h : k.Parked) (now : Nat) {d : DeadlineKind} (hd : d = .closing ∨ d = .counts)
    (ms : Nat) : (k.armRun now d ms).Parked := by
  obtain ⟨hs, hp, hk⟩ := h
  have hdue : ∀ e ∈ some (⟨d, now + ms⟩ : Deadline), e.kind = .closing ∨ e.kind = .counts := by simpa using hd
  unfold Cell.armRun
  split
  · split
    · exact ⟨hs, by simp [Cell.modPrep, hp], hk⟩
    · exact ⟨hs, hp, hdue⟩
  · exact ⟨hs, hp, hdue⟩

theorem Cell.Parked.cancelRun {k : Cell} (h : k.Parked) (d : DeadlineKind) : (k.cancelRun d).Parked := by
  obtain ⟨hs, hp, hk⟩ := h
  unfold Cell.cancelRun
  dsimp only
  split
  · exact ⟨hs, by simp [Cell.modPrep, hp], by simp [Cell.modPrep]⟩
  · exact ⟨hs, by simp [Cell.modPrep, hp], hk⟩

theorem Spares.armRunDeadline (c : CellIx) {d : DeadlineKind} (hd : d = .closing ∨ d = .counts) (n : Nat) (s : State) :
    Spares p s (armRunDeadline c d n s) := .modCell _ _ _ fun _ h => h.armRun _ hd _

theorem Spares.cancelRunDeadline (c : CellIx) (d : DeadlineKind) (s : State) : Spares p s (cancelRunDeadline c d s) :=
  .modCell _ _ _ fun _ h => h.cancelRun _

theorem Spares.passClose (r : RunIx) (s : State) : Spares p s (passClose r s) := by
  unfold Machine.passClose
  dsimp only
  split
  · exact (Spares.setRun _ _ _).trans (.sendOrder _ _ _ _)
  · exact (Spares.sendOrder _ _ _ _).trans ((Spares.setRun _ _ _).trans (.armRunDeadline _ (.inr rfl) _ _))

theorem Spares.targetReport (r : RunIx) (s : State) : Spares p s (targetReport r s) := by
  unfold Machine.targetReport
  split
  · exact (Spares.cancelRunDeadline _ _ _).trans (.passClose _ _)
  · exact .modRun _ _ _
  · exact .modRun _ _ _
  all_goals exact .refl _

theorem Spares.lotReachesTesting (l : LotSlot) (s : State) : Spares p s (lotReachesTesting l s) := .modLot _ _ _

theorem Spares.startRun {c : CellIx} (hc : ¬ p c) (r : RunIx) (s : State) : Spares p s (startRun c r s) :=
  ((Spares.sendBoth _ _ _).trans (.enterCell hc _ _ _)).trans ((Spares.modRun _ _ _).trans (.lotReachesTesting _ _))

theorem Spares.resumeClosing (r : RunIx) (s : State) : Spares p s (resumeClosing r s) := by
  unfold Machine.resumeClosing
  refine .ite (fun _ => .refl _) fun _ => .ite (fun _ => .passClose _ _) fun _ => .ite (fun _ => .refl _) fun _ => ?_
  exact .armRunDeadline _ (.inl rfl) _ _

theorem Spares.resumeRun {c : CellIx} (hc : ¬ p c) (r : RunIx) (s : State) : Spares p s (resumeRun c r s) :=
  ((Spares.sendBoth _ _ _).trans (.enterCell hc _ _ _)).trans ((Spares.modRun _ _ _).trans (.resumeClosing _ _))

theorem Cell.Parked.forget {k : Cell} (h : k.Parked) (r : RunIx) : (k.forget r).Parked := by
  obtain ⟨hs, hp, hk⟩ := h
  exact ⟨hs, by simp [Cell.forget, hp], hk⟩

theorem Spares.freeRun (r : RunIx) (s : State) : Spares p s (freeRun r s) :=
  (Spares.setRun s r .free).trans (.modCell _ (s.run r).cell (fun k => k.forget r) fun _ h => h.forget _)

/-! ## PRP -/

theorem Spares.beginChangeover {c : CellIx} (hc : ¬ p c) (st : Step) (s : State) : Spares p s (beginChangeover c st s) :=
  (((Spares.modCell_of_not hc _).trans (.sendOrder _ _ _ _)).trans (.modCell_of_not hc _)).trans (.enterCell hc _ _ _)

theorem Spares.beginLoading {c : CellIx} (hc : ¬ p c) (st : Step) (s : State) : Spares p s (beginLoading c st s) :=
  (((Spares.modCell_of_not hc _).trans (.sendOrder _ _ _ _)).trans (.modCell_of_not hc _)).trans (.enterCell hc _ _ _)

theorem Spares.beginGolden {c : CellIx} (hc : ¬ p c) (st : Step) (s : State) : Spares p s (beginGolden c st s) :=
  (((Spares.modCell_of_not hc _).trans (.sendBoth _ _ _)).trans (.modCell_of_not hc _)).trans (.enterCell hc _ _ _)

theorem Spares.endForTarget {c : CellIx} (hc : ¬ p c) (r : RunIx) (s : State) : Spares p s (endForTarget c r s) := by
  unfold Machine.endForTarget
  refine (Spares.modCell_of_not hc fun k => k.dropPrep s.timer).trans ?_
  dsimp only
  split
  · exact .startRun hc _ _
  · exact .resumeRun hc _ _
  · exact .resumeRun hc _ _
  · exact .ite (fun _ => .enterCell hc _ _ _) fun _ => .resumeRun hc _ _
  · exact .ite (fun _ => (Spares.modCell_of_not hc _).trans (.enterCell hc _ _ _)) fun _ => .resumeRun hc _ _
  · exact .enterCell hc _ _ _
  · exact .refl _

theorem Spares.chooseStage {c : CellIx} (hc : ¬ p c) (r : RunIx) (s : State) : Spares p s (chooseStage c r s) := by
  unfold Machine.chooseStage
  dsimp only
  split
  · exact .refl _
  · exact .ite (fun _ => .beginChangeover hc _ _) fun _ => .ite (fun _ => .beginLoading hc _ _) fun _ =>
      .ite (fun _ => .beginGolden hc _ _) fun _ => .endForTarget hc _ _

theorem Spares.prepBegin {c : CellIx} (hc : ¬ p c) (r : RunIx) (o : Origin) (s : State) :
    Spares p s (prepBegin c r o s) := (Spares.modCell_of_not hc _).trans (.chooseStage hc _ _)

theorem Spares.discardPrep (c : CellIx) (failed : Bool) (s : State) : Spares p s (discardPrep c failed s) := by
  unfold Machine.discardPrep
  split
  · exact .refl _
  · next q hq =>
    refine .awake c (Cell.not_parked_of_prep hq) ((Spares.modCell_of_not (not_spared c) fun k => k.cancelStage).trans ?_)
    refine Spares.trans (.ite (fun _ => ?_) fun _ => .refl _) (.modCell_of_not (not_spared c) _)
    exact (Spares.modCell_of_not (not_spared c) _).trans (.postNotice _ _)

/-! ## DSP -/

theorem mem_of_firstLeast {α : Type} {lt : α → α → Bool} {l : List α} {a : α} (h : firstLeast lt l = some a) :
    a ∈ l := by
  induction l generalizing a with
  | nil => simp [firstLeast] at h
  | cons b l ih =>
    unfold firstLeast at h
    split at h
    · simp_all
    · next d hd =>
      split at h
      · obtain rfl : d = a := by simpa using h
        exact List.mem_cons_of_mem _ (ih hd)
      · simp_all

theorem eligible_of_bestCell {s : State} {l : LotSlot} {c : CellIx} (h : bestCell s l = some c) :
    eligible (s.cell c) = true ∧ compatible (s.cell c) (stepOf s (s.lot l)) = true := by
  simpa using mem_of_firstLeast h

theorem preemptable_of_bestCandidate {s : State} {l : LotSlot} {c : CellIx} (h : bestCandidate s l = some c) :
    preemptable s (stepOf s (s.lot l)) c = true := by
  simpa using mem_of_firstLeast h

theorem not_parked_of_eligible {k : Cell} (h : eligible k = true) : ¬ k.Parked :=
  Cell.not_parked_of_state (by simp only [eligible, Bool.and_eq_true, beq_iff_eq] at h; simp [h.1.1])

theorem not_parked_of_preemptable {s : State} {st : Step} {c : CellIx} (h : preemptable s st c = true) :
    ¬ (s.cell c).Parked :=
  Cell.not_parked_of_state (by simp only [preemptable, Bool.and_eq_true, beq_iff_eq] at h; simp [h.1.1.1.1])

theorem Spares.setQueue (s : State) (q : List LotSlot) : Spares p s { s with queue := q } := .of_eq rfl rfl

theorem Spares.queueRemove (l : LotSlot) (s : State) : Spares p s (queueRemove l s) := .setQueue _ _

theorem Spares.queueMove (l : LotSlot) (s : State) : Spares p s (queueMove l s) := .of_eq rfl rfl

theorem Spares.takeSequence (l : LotSlot) (s : State) : Spares p s (takeSequence l s) := by
  unfold Machine.takeSequence
  refine Spares.trans (t := if s.seqCounter < Config.maxSequence then s else renumberQueue s) ?_ (.of_eq rfl rfl)
  exact .ite (fun _ => .refl _) fun _ => by
    unfold Machine.renumberQueue
    rw [renumberFrom_rest]
    exact .of_eq rfl rfl

theorem Spares.bindRun (l : LotSlot) (c : CellIx) (r : RunIx) (q : RunPlace) (reserve : Bool) (s : State) :
    Spares p s (bindRun l c r q reserve s) := by
  unfold Machine.bindRun
  refine Spares.trans ?_ (.ite (fun _ => .queueRemove _ _) fun _ => .refl _)
  refine Spares.trans ?_ (.postNotice _ _)
  refine Spares.trans ((Spares.setRun _ _ _).trans (.modLot _ _ _)) (.modCell_same _ _ _ fun k => ?_)
  cases reserve <;> exact ⟨rfl, rfl, rfl⟩

theorem Spares.assignRun {c : CellIx} (hc : ¬ p c) (l : LotSlot) (s : State) : Spares p s (assignRun l c s) := by
  unfold Machine.assignRun
  split
  · exact (Spares.bindRun _ _ _ _ _ _).trans (.prepBegin hc _ _ _)
  · exact .refl _

theorem Spares.reserveRun {c : CellIx} (hc : ¬ p c) (l : LotSlot) (s : State) : Spares p s (reserveRun l c s) := by
  unfold Machine.reserveRun
  split
  · exact ((Spares.bindRun _ _ _ _ _ _).trans (.sendOrder _ _ _ _)).trans (.enterCell hc _ _ _)
  · exact .refl _

theorem Spares.matchRounds (n : Nat) (l : LotSlot) (s : State) : Spares p s (matchRounds n l s) := by
  induction n generalizing s with
  | zero => exact .refl _
  | succ n ih =>
    unfold Machine.matchRounds
    refine .ite (fun _ => .refl _) fun _ => ?_
    split
    · exact .refl _
    · next c hb =>
      refine Spares.trans ?_ (ih _)
      exact .awake c (not_parked_of_eligible (eligible_of_bestCell hb).1) (.assignRun (not_spared c) _ _)

theorem Spares.searchRounds (n : Nat) (l : LotSlot) (s : State) : Spares p s (searchRounds n l s) := by
  induction n generalizing s with
  | zero => exact .refl _
  | succ n ih =>
    unfold Machine.searchRounds
    refine .ite (fun _ => .refl _) fun _ => ?_
    split
    · exact .refl _
    · next c hb =>
      refine Spares.trans ?_ (ih _)
      exact .awake c (not_parked_of_preemptable (preemptable_of_bestCandidate hb)) (.reserveRun (not_spared c) _ _)

theorem Spares.matchLot (l : LotSlot) (s : State) : Spares p s (matchLot l s) := .matchRounds _ _ _

theorem Spares.preemptSearch (l : LotSlot) (s : State) : Spares p s (preemptSearch l s) :=
  .ite (fun _ => .searchRounds _ _ _) fun _ => .refl _

theorem Spares.matchCell (c : CellIx) (s : State) : Spares p s (matchCell c s) := by
  unfold Machine.matchCell
  refine .ite (fun he => ?_) fun _ => .refl _
  split
  · exact .awake c (not_parked_of_eligible he) (.assignRun (not_spared c) _ _)
  · exact .refl _

theorem Spares.ageLot (l : LotSlot) (s : State) : Spares p s (ageLot l s) := .modLot _ _ _

theorem Spares.enterQueue (l : LotSlot) (s : State) : Spares p s (enterQueue l s) := by
  have hage : Spares p s (ageAtEntry l (queueInsert l s)) :=
    (Spares.setQueue _ _).trans (.ite (fun _ => (Spares.ageLot _ _).trans (.queueMove _ _)) fun _ => .refl _)
  exact (hage.trans (.matchLot _ _)).trans (.preemptSearch _ _)

theorem Spares.queueTest (l : LotSlot) (s : State) : Spares p s (queueTest l s) :=
  .ite (fun _ => .ite (fun _ => .refl _) fun _ => .queueRemove _ _) fun _ =>
    .ite (fun _ => .enterQueue _ _) fun _ => .refl _

/-! ## CEL -/

theorem Spares.goIdle {c : CellIx} (hc : ¬ p c) (s : State) : Spares p s (goIdle c s) := by
  refine (Spares.enterCell hc .idle none s).trans (Spares.trans (.ite (fun _ => ?_) fun _ => .refl _) (.matchCell _ _))
  exact (Spares.modCell_same _ _ _).trans (.postNotice _ _)

theorem Spares.popOrIdle {c : CellIx} (hc : ¬ p c) (s : State) : Spares p s (popOrIdle c s) := by
  unfold Machine.popOrIdle
  split
  · exact .goIdle hc _
  · exact .ite (fun _ => .enterCell hc _ _ _) fun _ => (Spares.modCell_same _ _ _).trans (.prepBegin hc _ _ _)

theorem Spares.nextStage {c : CellIx} (hc : ¬ p c) (s : State) : Spares p s (nextStage c s) := by
  unfold Machine.nextStage
  split
  · exact .refl _
  · split
    · exact .chooseStage hc _ _
    · exact (Spares.modCell_of_not hc _).trans (.popOrIdle hc _)

theorem Spares.heldTest (l : LotSlot) (s : State) : Spares p s (heldTest l s) :=
  .ite (fun _ => .modLot _ _ _) fun _ => .refl _

theorem Spares.withdraw (r : RunIx) (s : State) : Spares p s (withdraw r s) :=
  (((Spares.freeRun r s).trans (.modLot _ _ _)).trans (.heldTest _ _)).trans (.queueTest _ _)

/-- Of a parked cell a vacated run leaves nothing to do. -/
theorem vacate_of_parked {r : RunIx} {s : State} (h : (s.cell (s.run r).cell).Parked) : vacate r s = freeRun r s := by
  obtain ⟨hs, -, -⟩ := h
  simp [vacate, hs]

theorem Spares.vacate (r : RunIx) (s : State) : Spares p s (vacate r s) := by
  by_cases h : (s.cell (s.run r).cell).Parked
  · rw [vacate_of_parked h]
    exact .freeRun _ _
  refine .awake _ h ?_
  generalize hcell : (s.run r).cell = c at h
  unfold Machine.vacate
  rw [hcell]
  refine (Spares.freeRun r s).trans ?_
  dsimp only
  split
  · split
    · exact .popOrIdle (not_spared c) _
    · exact .popOrIdle (not_spared c) _
    · split
      · exact (Spares.modCell_same _ _ _).trans (.prepBegin (not_spared c) _ _ _)
      · exact .popOrIdle (not_spared c) _
    all_goals exact .refl _
  · exact .ite (fun _ => .popOrIdle (not_spared c) _) fun _ => .refl _

theorem Spares.withdrawCurrent (c : CellIx) (s : State) : Spares p s (withdrawCurrent c s) := by
  unfold Machine.withdrawCurrent
  split
  · exact .ite (fun _ => .withdraw _ _) fun _ => .refl _
  · exact .refl _

theorem Spares.withdrawReserved (c : CellIx) (s : State) : Spares p s (withdrawReserved c s) := by
  unfold Machine.withdrawReserved
  split
  · exact .withdraw _ _
  · exact .refl _

theorem Spares.interrupt (c : CellIx) (failed : Bool) (s : State) : Spares p s (interrupt c failed s) :=
  (((Spares.discardPrep c failed s).trans (.modCell_same _ _ _)).trans (.withdrawCurrent _ _)).trans
    (.withdrawReserved _ _)

theorem Spares.enterMarked {c : CellIx} (hc : ¬ p c) (st : CellState) (cause : Option Cause) (s : State) :
    Spares p s (enterMarked c st cause s) := (Spares.enterCell hc _ _ _).trans (.modCell_same _ _ _)

theorem Spares.enterQuarantined {c : CellIx} (hc : ¬ p c) (cause : Cause) (failed : Bool) (s : State) :
    Spares p s (enterQuarantined c cause failed s) :=
  ((Spares.enterMarked hc _ _ _).trans (.interrupt _ _ _)).trans (.postNotice _ _)

theorem Spares.enterDown {c : CellIx} (hc : ¬ p c) (cause : Cause) (s : State) : Spares p s (enterDown c cause s) := by
  refine (Spares.modCell_same s c fun k => { k with downCount := satAdd 15 (s.cell c).downCount 1 }).trans ?_
  refine .ite (fun _ => .enterQuarantined hc _ _ _) fun _ => Spares.trans ?_ (.postNotice _ _)
  refine Spares.trans ((Spares.enterMarked hc .down (some cause) _).trans (.interrupt c false _)) ?_
  exact .ite (fun _ => .modCell_same _ _ Cell.silenced) fun _ => .refl _

theorem Spares.enterStopped {c : CellIx} (hc : ¬ p c) (s : State) : Spares p s (enterStopped c s) := by
  unfold Machine.enterStopped
  refine (Spares.enterCell hc .stopped none s).trans ?_
  dsimp only
  split
  · exact .ite (fun _ => .prepBegin hc _ _ _) fun _ => .refl _
  · exact .refl _

theorem Spares.recover {c : CellIx} (hc : ¬ p c) (o : Origin) (s : State) : Spares p s (recover c o s) := by
  unfold Machine.recover
  refine (Spares.modCell_same s c fun k => { k with cause := none }).trans ?_
  dsimp only
  split
  · exact .popOrIdle hc _
  · split
    · exact .enterStopped hc _
    · exact .enterCell hc _ _ _
    · exact .prepBegin hc _ _ _
    · exact .prepBegin hc _ _ _
    · exact .prepBegin hc _ _ _
    all_goals exact .refl _

/-! ## LOT -/

theorem Spares.stopRun (r : RunIx) (s : State) : Spares p s (stopRun r s) := by
  unfold Machine.stopRun
  extract_lets run c ordered stopped cancelled
  have hcancelled : Spares p s cancelled :=
    ((Spares.sendOrder _ _ _ _).trans (.modRun ordered r _)).trans
      (.ite (fun _ => .cancelRunDeadline c .closing stopped) fun _ => .refl _)
  refine hcancelled.trans ?_
  split
  · next h => exact .awake c (Cell.not_parked_of_state (by rw [h]; decide)) (.enterCell (not_spared c) _ _ _)
  · next h =>
    exact .awake c (Cell.not_parked_of_state (by rw [h]; decide))
      ((Spares.enterCell (not_spared c) _ _ _).trans (.withdrawReserved _ _))
  all_goals exact .refl _

theorem Spares.stopOpen (r : RunIx) (s : State) : Spares p s (stopOpen r s) :=
  .ite (fun _ => .stopRun _ _) fun _ => .ite (fun _ => .withdraw _ _) fun _ => .refl _

theorem Spares.finishOpen (r : RunIx) (s : State) : Spares p s (finishOpen r s) :=
  .ite (fun _ => .withdraw _ _) fun _ => .refl _

theorem Spares.stopStarted (r : RunIx) (s : State) : Spares p s (stopStarted r s) :=
  .ite (fun _ => .stopRun _ _) fun _ => .refl _

theorem Spares.eachOpen (l : LotSlot) (skip : Option RunIx) {f : RunIx → State → State}
    (hf : ∀ r s, Spares p s (f r s)) (s : State) : Spares p s (eachOpen l skip f s) := by
  unfold Machine.eachOpen
  generalize places = ps
  induction ps generalizing s with
  | nil => exact .refl _
  | cons a ps ih =>
    rw [List.foldl_cons]
    refine Spares.trans ?_ (ih _)
    split
    · exact .ite (fun _ => .refl _) fun _ => hf _ _
    · exact .refl _

theorem Spares.policyEffect (l : LotSlot) (pos : Option RunPlace) (q : Policy) (skip : Option RunIx) (s : State) :
    Spares p s (policyEffect l pos q skip s) := by
  unfold Machine.policyEffect
  split
  · exact .refl _
  · exact .eachOpen _ _ Spares.stopOpen _
  · exact .eachOpen _ _ Spares.finishOpen _
  · exact .refl _
  · split
    · exact .ite (fun _ => .refl _) fun _ => .stopStarted _ _
    · exact .refl _

theorem Spares.addHold (l : LotSlot) (k : HoldKind) (pos : Option RunPlace) (v : Option Nat) (g : Policy)
    (skip : Option RunIx) (s : State) : Spares p s (addHold l k pos v g skip s) := by
  unfold Machine.addHold
  refine Spares.trans ?_ (.ite (fun _ => .modLot _ _ _) fun _ => .refl _)
  refine Spares.trans ?_ ((Spares.queueTest _ _).trans (.heldTest _ _))
  exact ((Spares.setLot _ _ _).trans (.postNotice _ _)).trans (.policyEffect _ _ _ _ _)

theorem Spares.raiseHold (l : LotSlot) (k : HoldKind) (pos : Option RunPlace) (v : Option Nat) (g : Policy)
    (skip : Option RunIx) (s : State) : Spares p s (raiseHold l k pos v g skip s) :=
  .ite (fun _ => .ite (fun _ => .modLot _ _ _) fun _ => .addHold _ _ _ _ _ _ _) fun _ => .refl _

theorem Spares.raiseOnRun (r : RunIx) (k : HoldKind) (v : Option Nat) (s : State) :
    Spares p s (raiseOnRun r k v s) := .raiseHold _ _ _ _ _ _ _

theorem Spares.raiseOnLot (l : LotSlot) (k : HoldKind) (v : Option Nat) (s : State) :
    Spares p s (raiseOnLot l k v s) := .raiseHold _ _ _ _ _ _ _

theorem Spares.advance (l : LotSlot) (s : State) : Spares p s (advance l s) := by
  refine (Spares.postNotice (.stepDone (s.lot l).tag (s.lot l).step (s.lot l).figures.tested
    (s.lot l).figures.goodFinal) s).trans ?_
  refine .ite (fun _ => ?_) fun _ => (Spares.setLot _ _ _).trans (.ite (fun _ => .postNotice _ _) fun _ => .refl _)
  exact ((Spares.setLot _ _ _).trans (.takeSequence _ _)).trans (.queueTest _ _)

theorem Spares.stepOutcome (l : LotSlot) (s : State) : Spares p s (stepOutcome l s) :=
  .ite (fun _ => .refl _) fun _ => .ite (fun _ => .modLot _ _ _) fun _ => .advance _ _

theorem Spares.closeChecks (l : LotSlot) (s : State) : Spares p s (closeChecks l s) := by
  unfold Machine.closeChecks
  extract_lets x lim yf checked compared
  have hchecked : Spares p s checked := .ite (fun _ => .raiseOnLot _ _ _ _) fun _ => .refl _
  have hcompared : Spares p checked compared := .ite (fun _ => .raiseOnLot _ _ _ _) fun _ => .refl _
  exact (hchecked.trans hcompared).trans ((Spares.modLot _ _ _).trans (.stepOutcome _ _))

theorem Spares.reportClose (r : RunIx) (s : State) : Spares p s (reportClose r s) := by
  unfold Machine.reportClose
  refine Spares.trans ?_ (.heldTest _ _)
  exact (Spares.modLot _ _ _).trans (.ite (fun _ => .closeChecks _ _) fun _ => .refl _)

theorem Spares.cancelDeadlines (r : RunIx) (s : State) : Spares p s (cancelDeadlines r s) :=
  .ite (fun _ => (Spares.cancelRunDeadline _ _ _).trans (.cancelRunDeadline _ _ _)) fun _ => .refl _

theorem Spares.closeRun (r : RunIx) (s : State) : Spares p s (closeRun r s) :=
  ((Spares.cancelDeadlines r s).trans (.reportClose _ _)).trans (.vacate _ _)

theorem Spares.removeHold (l : LotSlot) (k : HoldKind) (pos : Option RunPlace) (s : State) :
    Spares p s (removeHold l k pos s) := by
  unfold Machine.removeHold
  extract_lets removed posted released
  have hreleased : Spares p s released := ((Spares.modLot _ _ _).trans (.postNotice _ removed)).trans (.modLot posted _ _)
  refine hreleased.trans ?_
  split
  · exact .refl _
  · split
    · exact .modRun _ _ _
    · exact .refl _

theorem Spares.freeOpen (r : RunIx) (s : State) : Spares p s (freeOpen r s) := by
  refine .ite (fun _ => .refl _) fun h => ?_
  have hc : ¬ (s.cell (s.run r).cell).Parked := Cell.not_parked_of_state (by rw [not_not.1 h]; decide)
  refine .awake _ hc (.ite (fun _ => .prepBegin (not_spared _) _ _ _) fun _ => ?_)
  exact .ite (fun _ => .popOrIdle (not_spared _) _) fun _ => .refl _

theorem Spares.leaveHeld (l : LotSlot) (s : State) : Spares p s (leaveHeld l s) :=
  .ite (fun _ => .modLot _ _ _) fun _ => .refl _

theorem Spares.leaveStepClose (l : LotSlot) (s : State) : Spares p s (leaveStepClose l s) :=
  .ite (fun _ => .advance _ _) fun _ => .refl _

theorem Spares.leaveRouteEnd (l : LotSlot) (s : State) : Spares p s (leaveRouteEnd l s) :=
  .ite (fun _ => (Spares.modLot _ _ _).trans (.postNotice _ _)) fun _ => .refl _

theorem Spares.freeing (l : LotSlot) (s : State) : Spares p s (freeing l s) :=
  ((((Spares.eachOpen l none Spares.freeOpen s).trans (.leaveHeld _ _)).trans (.queueTest _ _)).trans
    (.leaveStepClose _ _)).trans (.leaveRouteEnd _ _)

theorem Spares.removeIfPresent (l : LotSlot) (k : HoldKind) (q : RunPlace) (s : State) :
    Spares p s (removeIfPresent l k q s) := .ite (fun _ => .removeHold _ _ _ _) fun _ => .refl _

theorem Spares.goldenRelease (r : RunIx) (s : State) : Spares p s (goldenRelease r s) :=
  ((Spares.removeIfPresent _ _ _ _).trans (.removeIfPresent _ _ _ _)).trans (.freeing _ _)

theorem Spares.raiseOnCurrent (c : CellIx) (k : HoldKind) (v : Option Nat) (s : State) :
    Spares p s (raiseOnCurrent c k v s) := by
  unfold Machine.raiseOnCurrent
  split
  · exact .ite (fun _ => .raiseOnRun _ _ _ _) fun _ => .refl _
  · exact .refl _

theorem Spares.enterLost {c : CellIx} (hc : ¬ p c) (s : State) : Spares p s (enterLost c s) := by
  refine Spares.trans (Spares.trans ?_ (.postNotice _ _)) (.raiseOnCurrent _ _ _ _)
  exact ((Spares.enterMarked hc _ _ _).trans (.interrupt _ _ _)).trans (.modCell_same _ _ _)

end Sys2Proof.Machine
end

section
/-! What a command keeps: every invariant of Safety.lean (`Rules`), the identity of the lots, in OPERATE the phase and
the profile, and the parked cells (`Effect`). Most requests and all reports and events do it steadily (`Steady`), which
composes; the few that fill or empty records are taken one by one. -/

set_option Elab.async false

namespace Sys2Proof.Machine

/-- Every invariant of Safety.lean that `s` meets, `t` meets. -/
structure Rules (s t : State) : Prop where
  tables : s.tablesOk → t.tablesOk
  figures : s.tablesOk → s.figuresOk → t.figuresOk
  cells : s.cellsOk → t.cellsOk
  queue : s.queueOk → t.queueOk
  links : s.linksOk → t.linksOk
  busy : s.portsBusy → t.portsBusy
  tags : s.lotTagsOk → t.lotTagsOk
  refs : s.refsOk → t.refsOk
  ships : s.shipsOk → t.shipsOk
  stations : s.stationsOk → t.stationsOk
  holds : s.holdsOk → t.holdsOk

theorem Rules.refl (s : State) : Rules s s := ⟨id, fun _ => id, id, id, id, id, id, id, id, id, id⟩

theorem Rules.trans {s t u : State} (h : Rules s t) (k : Rules t u) : Rules s u :=
  ⟨k.tables ∘ h.tables, fun a b => k.figures (h.tables a) (h.figures a b), k.cells ∘ h.cells, k.queue ∘ h.queue,
    k.links ∘ h.links, k.busy ∘ h.busy, k.tags ∘ h.tags, k.refs ∘ h.refs, k.ships ∘ h.ships, k.stations ∘ h.stations,
    k.holds ∘ h.holds⟩

/-- What identifies a lot, and its step index, which never falls (R1, R19, R22). -/
structure SameLot (x y : Lot) : Prop where
  tag : y.tag = x.tag
  route : y.route = x.route
  split : y.split = x.split
  preempt : y.preempt = x.preempt
  started : y.started = x.started
  step : x.step ≤ y.step
  vacant : y.state = .vacant ↔ x.state = .vacant

theorem SameLot.refl (x : Lot) : SameLot x x := ⟨rfl, rfl, rfl, rfl, rfl, le_refl _, .rfl⟩

theorem SameLot.trans {x y z : Lot} (h : SameLot x y) (k : SameLot y z) : SameLot x z :=
  ⟨k.tag.trans h.tag, k.route.trans h.route, k.split.trans h.split, k.preempt.trans h.preempt,
    k.started.trans h.started, h.step.trans k.step, k.vacant.trans h.vacant⟩

theorem LotKept.vacant_iff {x y : Lot} (h : LotKept x y) : y.state = .vacant ↔ x.state = .vacant := by
  rcases h.state with e | ⟨hx, hy⟩
  · rw [e]
  · exact ⟨fun e => by simp [e, LotState.counted] at hy, fun e => by simp [e, LotState.counted] at hx⟩

theorem LotKept.same {x y : Lot} (h : LotKept x y) : SameLot x y :=
  ⟨h.tag, h.route, h.split, h.preempt, h.started, h.step, h.vacant_iff⟩

theorem LotKept.counted {x y : Lot} (h : LotKept x y) : y.state.counted = x.state.counted := by
  rcases h.state with e | ⟨hx, hy⟩
  · rw [e]
  · rw [hx, hy]

theorem lotTagsOk_of_same {s t : State} (h : ∀ l, SameLot (s.lot l) (t.lot l)) (k : s.lotTagsOk) : t.lotTagsOk := by
  intro i j hi hj hij
  rw [ne_eq, (h i).vacant] at hi
  rw [ne_eq, (h j).vacant] at hj
  exact k i j hi hj (by rw [← (h i).tag, ← (h j).tag, hij])

theorem stationsOk_of_config {s t : State} (hs : t.stations = s.stations)
    (hc : ∀ e ∈ s.stations, CellConfig (s.cell e.cell) (t.cell e.cell)) (k : s.stationsOk) : t.stationsOk := by
  obtain ⟨hnodup, hheld⟩ := k
  refine ⟨by rwa [hs], fun e he => ?_⟩
  rw [hs] at he
  obtain ⟨hconf, hst⟩ := hheld e he
  refine ⟨(hc e he).configured.trans hconf, ?_⟩
  rw [← hst]
  cases e.role
  · exact (hc e he).tester
  · exact (hc e he).handler

theorem Keeps.rules {s t : State} (h : Keeps s t) : Rules s t where
  tables := h.tables
  figures := h.figures
  cells := h.bounded
  queue := h.queue
  links := h.links
  busy := h.busy
  tags := lotTagsOk_of_same fun l => (h.lots l).same
  refs k r := by
    have hr := k r
    rw [State.route] at hr ⊢
    rw [h.routes, hr]
    refine List.countP_congr fun l _ => ?_
    rw [(h.lots l).counted, (h.lots l).route]
  ships k := by simpa [State.shipsOk, State.ship, h.ships] using k
  stations := stationsOk_of_config h.stations fun e _ => h.cells e.cell
  holds := h.holds

/-- What a report, an event and most requests do, but for the response. -/
structure Steady (p : CellIx → Prop) (s t : State) : Prop where
  rules : Rules s t
  lots : ∀ l, SameLot (s.lot l) (t.lot l)
  phase : t.phase = s.phase
  profile : t.profile = s.profile
  pending : t.pending = s.pending
  spares : Spares p s t

variable {p : CellIx → Prop}

theorem Steady.refl (s : State) : Steady p s s := ⟨.refl _, fun _ => .refl _, rfl, rfl, rfl, .refl _⟩

theorem Steady.trans {s t u : State} (h : Steady p s t) (k : Steady p t u) : Steady p s u :=
  ⟨h.rules.trans k.rules, fun l => (h.lots l).trans (k.lots l), k.phase.trans h.phase, k.profile.trans h.profile,
    k.pending.trans h.pending, h.spares.trans k.spares⟩

theorem Steady.ite {q : Prop} [Decidable q] {s a b : State} (h : q → Steady p s a) (k : ¬ q → Steady p s b) :
    Steady p s (if q then a else b) := by
  split
  · exact h ‹_›
  · exact k ‹_›

theorem Keeps.steady {s t : State} (h : Keeps s t) (k : Spares p s t) : Steady p s t :=
  ⟨h.rules, fun l => (h.lots l).same, h.phase, h.profile, h.pending, k⟩

theorem Acts.steady {s t : State} (h : Acts s t) (k : Spares p s t) : Steady p s t := h.keeps.steady k

/-- What a command keeps, every one but POWER_ON_RESET; the cells of `p` are those it does not clear. -/
structure Effect (p : CellIx → Prop) (s t : State) : Prop where
  rules : Rules s t
  lots : ∀ l, (s.lot l).state ≠ .vacant → (t.lot l).state ≠ .vacant → SameLot (s.lot l) (t.lot l)
  config : s.phase = .operate → t.phase = .operate ∧ t.profile = s.profile
  pending : t.pending = s.pending
  parked : s.phase = .operate → ∀ c, p c → (s.cell c).Parked → (t.cell c).Parked

theorem Steady.effect {s t : State} (h : Steady p s t) : Effect p s t :=
  ⟨h.rules, fun l _ _ => h.lots l, fun hp => ⟨h.phase.trans hp, h.profile⟩, h.pending,
    fun _ => h.spares.parked⟩

theorem Effect.refl (s : State) : Effect p s s := (Steady.refl s).effect

/-! ## Requests (R173, R174) -/

/-- What a request's own rule answers keeps what a command keeps, and makes no response of its own. -/
structure ReplyKeeps (p : CellIx → Prop) (s : State) (r : Reply) : Prop where
  effect : Effect p s r.state
  responses : responsesWaiting r.state ≤ responsesWaiting s

theorem ReplyKeeps.refuseWith (st : Status) (data : List Byte) (s : State) : ReplyKeeps p s (refuseWith st data s) :=
  ⟨.refl _, le_refl _⟩

theorem ReplyKeeps.refuse (st : Status) (s : State) : ReplyKeeps p s (refuse st s) := .refuseWith _ _ _

theorem Steady.okWith {s t : State} (h : Steady p s t) (data : List Byte) : ReplyKeeps p s (okWith data t) :=
  ⟨h.effect, h.spares.responses⟩

theorem Steady.ok {s t : State} (h : Steady p s t) : ReplyKeeps p s (ok t) := h.okWith _

theorem ReplyKeeps.ite {q : Prop} [Decidable q] {s : State} {a b : Reply} (h : q → ReplyKeeps p s a)
    (k : ¬ q → ReplyKeeps p s b) : ReplyKeeps p s (if q then a else b) := by
  split
  · exact h ‹_›
  · exact k ‹_›

/-- With room for it, a response is one more thing that the ports do. -/
theorem Acts.appendResponse (r : Response) {s : State} (hroom : responsesWaiting s < Config.responseCapacity) :
    Acts s (appendResponse r s) := by
  refine .ofPorts (by simp) (by simp) (by simp) (by simp) (by simp) (by simp) (by simp) (by simp) (by simp) (by simp)
    (by simp) (by simp) (by simp) (by simp) (fun h => ?_) (fun h => kickF_busy h.2)
  obtain ⟨h1, h2, h3, h4, h5, -⟩ := h
  refine kickF_links ⟨h1, h2, h3, ?_, h5, ?_⟩
  · simpa [noticesWaiting, List.countP_append, Outbound.isResponse] using h4
  · simpa [responsesWaiting, List.countP_append, Outbound.isResponse] using hroom

theorem Effect.respond {s : State} (h : ReqHead) (kind : BitVec 16) {r : Reply} (hr : ReplyKeeps p s r)
    (hroom : hasRoom s = true) : Effect p s (respond h kind r) := by
  have hlt : responsesWaiting s < Config.responseCapacity := of_decide_eq_true hroom
  unfold Machine.respond
  generalize (⟨_, _, _, _, _, _⟩ : Response) = made
  have hacts : Acts r.state (appendResponse made r.state) := .appendResponse _ (hr.responses.trans_lt hlt)
  refine ⟨hr.effect.rules.trans hacts.keeps.rules, fun l => ?_, fun hp => ?_, hacts.pending.trans hr.effect.pending,
    fun hp c hc hs => ?_⟩
  · rw [appendResponse_lot]
    exact hr.effect.lots l
  · rw [appendResponse_phase, appendResponse_profile]
    exact hr.effect.config hp
  · rw [appendResponse_cell]
    exact hr.effect.parked hp c hc hs

theorem Effect.serve {i : Instr} {h : ReqHead} {kind : BitVec 16} {own : State → Reply} {s : State}
    (hown : i.wf = true → (s.phase = .operate → Instr.isSetProfile i = false) → ReplyKeeps p s (own s)) :
    Effect p s (serve i h kind own s) := by
  unfold Machine.serve
  split
  · next hroom =>
    refine .respond h kind ?_ hroom
    unfold judge
    refine .ite (fun _ => .refuse _ _) fun _ => .ite (fun _ => .refuse _ _) fun hwf => ?_
    refine .ite (fun _ => .refuse _ _) fun _ => .ite (fun _ => .refuse _ _) fun hlocked => ?_
    exact hown (by simpa using hwf) fun hp => by simpa [hp] using hlocked
  · exact .refl _

theorem Effect.serveBad (h : ReqHead) (kind : BitVec 16) (s : State) : Effect p s (serveBad h kind s) := by
  unfold Machine.serveBad
  split
  · next hroom => exact .respond h kind (.ite (fun _ => .refuse _ _) fun _ => .refuse _ _) hroom
  · exact .refl _

end Sys2Proof.Machine
end

section
/-! The requests, one by one: what each keeps (`ReplyKeeps`). -/

set_option Elab.async false

namespace Sys2Proof.Machine

variable {p : CellIx → Prop}

/-! ## The profile, the phase and the clock -/

theorem ReplyKeeps.ownSetProfile (a : ProfileArgs) {s : State} (hp : s.phase ≠ .operate) :
    ReplyKeeps p s (ownSetProfile a s) := by
  refine .ite (fun _ => .refuse _ _) fun _ => .ite (fun _ => .refuse _ _) fun _ => ⟨?_, le_refl _⟩
  exact ⟨⟨id, fun _ => id, id, id, id, id, id, id, id, id, id⟩, fun l _ _ => .refl _, fun h => absurd h hp, rfl,
    fun _ _ _ h => h⟩

theorem Accumulators.zero_bounded : Accumulators.zero.bounded := by
  unfold Accumulators.bounded
  decide

theorem Cell.powerOn_bounded : Cell.powerOn.bounded :=
  ⟨by decide, Accumulators.zero_bounded, by simp [Cell.powerOn]⟩

theorem enterOperate_cell (s : State) (c : CellIx) :
    (enterOperate s).cell c = if outOfUse s c then .powerOn else s.cell c := by
  simp [enterOperate, State.cell]

theorem Rules.enterOperate (s : State) : Rules s (enterOperate s) where
  tables := id
  figures _ := id
  cells h c := by
    rw [enterOperate_cell]
    split
    · exact Cell.powerOn_bounded
    · exact h c
  queue := id
  links := id
  busy := id
  tags := id
  refs := id
  ships := id
  stations h := by
    obtain ⟨hnodup, hheld⟩ := h
    refine ⟨(List.filter_sublist.map _).nodup hnodup, fun e he => ?_⟩
    obtain ⟨hmem, hin⟩ := List.mem_filter.1 he
    rw [enterOperate_cell, if_neg (by simpa using hin)]
    exact hheld e hmem
  holds := id

theorem ReplyKeeps.ownOperate (s : State) : ReplyKeeps p s (ownOperate s) := by
  refine .ite (fun _ => .refuse _ _) fun hp => .ite (fun _ => .refuse _ _) fun _ => ⟨?_, le_refl _⟩
  exact ⟨.enterOperate s, fun l _ _ => .refl _, fun h => absurd h hp, rfl, fun h => absurd h hp⟩

theorem Steady.setClock (t : FloorTime) (s : State) : Steady p s { s with floorClock := t } :=
  ⟨⟨id, fun _ => id, id, id, id, id, id, id, id, id, id⟩, fun _ => .refl _, rfl, rfl, rfl, .of_eq rfl rfl⟩

/-! ## Routes, limit sets and cells -/

theorem stepStored_inRange {a : StepArgs} (h : stepInRange a = true) : (stepStored a).inRange := by
  obtain ⟨hlow, hhigh⟩ := clampTemp_range a.setpoint.toInt
  simp only [stepInRange, Bool.and_eq_true, decide_eq_true_eq] at h
  obtain ⟨⟨⟨⟨⟨⟨⟨-, hs1, hs2⟩, hm1, hm2⟩, hr1, hr2⟩, -⟩, ht⟩, -⟩, -⟩ := h
  exact ⟨hlow, hhigh, hs1, hs2, hm1, hm2, hr1, hr2, ht⟩

theorem modRoute_route_eq (s : State) (i : RouteIx) (f : Route → Route) (r : RouteIx) :
    (s.modRoute i f).route r = if i = r then f (s.route r) else s.route r := by
  by_cases h : i = r
  · subst h
    simp
  · rw [if_neg h]
    exact setRoute_route_ne s _ h

theorem Steady.loadRoute (i : RouteIx) (product : BitVec 32) {steps : List StepArgs} (hlen : steps.length ≤ 6)
    (hin : ∀ a ∈ steps, stepInRange a = true) (s : State) :
    Steady p s (s.modRoute i fun r => r.loadedWith product steps) := by
  refine ⟨⟨fun h => ⟨fun r => ?_, h.2⟩, fun _ => id, id, id, id, id, id, fun h r => ?_, id, id, id⟩, fun _ => .refl _,
    rfl, rfl, rfl, .of_eq rfl rfl⟩
  · rw [modRoute_route_eq]
    split
    · refine ⟨by simpa [Route.loadedWith] using hlen, fun st hst => ?_⟩
      obtain ⟨a, ha, rfl⟩ := List.mem_map.1 hst
      exact stepStored_inRange (hin a ha)
    · exact h.1 r
  · rw [modRoute_route_eq]
    split <;> exact h r

theorem ReplyKeeps.ownLoadRoute {h : ReqHead} {route : Byte} {product : BitVec 32} {count : Byte}
    {steps : List StepArgs} (hwf : (Instr.loadRoute h route product count steps).wf = true) (s : State) :
    ReplyKeeps p s (ownLoadRoute route product count steps s) := by
  simp only [Instr.wf, Bool.and_eq_true, beq_iff_eq] at hwf
  unfold Machine.ownLoadRoute
  split
  · exact .refuse _ _
  · next hgood =>
    simp only [routeInRange, Bool.not_eq_true', Bool.not_eq_false, Bool.and_eq_true, decide_eq_true_eq,
      List.all_eq_true] at hgood
    refine .ite (fun _ => .refuse _ _) fun _ => ?_
    split
    · exact .ite (fun _ => .refuseWith _ _ _) fun _ => (Steady.loadRoute _ _ (by omega) hgood.2 s).okWith _
    · exact .refuse _ _

theorem clampBp_le (v : BitVec 16) : clampBp v ≤ 10000 := by
  unfold clampBp
  split <;> omega

theorem limitsStored_inRange (a : LimitArgs) : (limitsStored a).inRange := by
  refine ⟨clampBp_le _, clampBp_le _, clampBp_le _, clampBp_le _, fun h => ?_, ?_, ?_, ?_, ?_⟩
  · simpa [limitsStored] using clampBp_le _
  all_goals
    simp only [limitsStored, clampCount, clampWindow]
    repeat' split
    all_goals omega

theorem setLimit_limit_eq (s : State) (i : LimitIx) (x : LimitSet) (n : LimitIx) :
    (s.setLimit i x).limit n = if i = n then x else s.limit n := vset_get ..

theorem Steady.setLimit (i : LimitIx) (a : LimitArgs) (s : State) : Steady p s (s.setLimit i (limitsStored a)) := by
  refine ⟨⟨fun h => ⟨h.1, fun n => ?_⟩, fun _ => id, id, id, id, id, id, id, id, id, id⟩, fun _ => .refl _, rfl, rfl, rfl,
    .of_eq rfl rfl⟩
  rw [setLimit_limit_eq]
  split
  · exact limitsStored_inRange a
  · exact h.2 n

theorem ReplyKeeps.ownLoadLimits (set : Byte) (a : LimitArgs) (s : State) :
    ReplyKeeps p s (ownLoadLimits set a s) := by
  unfold Machine.ownLoadLimits
  split
  · exact (Steady.setLimit _ a s).okWith _
  · exact .refuse _ _

/-- A cell in use is named by its index. -/
theorem cellInUse_eq_some {s : State} {b : Byte} {c : CellIx} (h : cellInUse s b = some c) :
    c.val = b.toNat ∧ b.toNat < s.profile.cellsInUse := by
  unfold cellInUse at h
  split at h
  · split at h
    · obtain rfl := Option.some.inj h
      exact ⟨rfl, ‹_›⟩
    · cases h
  · cases h

theorem enterStations_stationsOk {c : CellIx} {tester handler : Station} {cls : Fin 8} {s : State}
    (hne : tester ≠ handler) (ht : takenElsewhere s c tester = false) (hh : takenElsewhere s c handler = false)
    (h : s.stationsOk) :
    ((enterStations c tester handler s).modCell c fun k => k.loadedWith tester handler cls).stationsOk := by
  obtain ⟨hnodup, hheld⟩ := h
  have hfree : ∀ st, takenElsewhere s c st = false → st ∉ (s.stations.filter fun e => e.cell != c).map (·.station) := by
    intro st hst hmem
    obtain ⟨e, he, rfl⟩ := List.mem_map.1 hmem
    obtain ⟨hin, hcell⟩ := List.mem_filter.1 he
    have := List.any_eq_false.1 hst e hin
    simp_all
  refine ⟨?_, fun e he => ?_⟩
  · have hkept := (List.filter_sublist (l := s.stations) (p := fun e => e.cell != c)).map StationEntry.station
    change ((s.stations.filter _ ++ [_, _]).map StationEntry.station).Nodup
    rw [List.map_append]
    refine List.nodup_append.2 ⟨hkept.nodup hnodup, by simpa using hne, fun a ha b hb hab => ?_⟩
    subst hab
    rcases List.mem_pair.1 (by simpa using hb) with rfl | rfl
    · exact hfree _ ht ha
    · exact hfree _ hh ha
  · rcases List.mem_append.1 he with he | he
    · obtain ⟨hin, hcell⟩ := List.mem_filter.1 he
      have hne' : c ≠ e.cell := fun h => by simp [h] at hcell
      rw [modCell_cell_ne _ _ hne']
      exact hheld e hin
    · rcases List.mem_pair.1 he with rfl | rfl <;> simp [Cell.loadedWith, Cell.station]

theorem ReplyKeeps.ownLoadCell (cell : Byte) (tester handler : Station) (cls : Byte) (s : State) :
    ReplyKeeps p s (ownLoadCell cell tester handler cls s) := by
  unfold Machine.ownLoadCell
  split
  · exact .refuse _ _
  · next c _ =>
    refine .ite (fun _ => .refuse _ _) fun _ => ?_
    split
    · next hcls =>
      refine .ite (fun _ => .refuse _ _) fun hclash => .ite (fun _ => .refuse _ _) fun _ => Steady.ok ?_
      simp only [not_or, Bool.not_eq_true] at hclash
      obtain ⟨hne, ht, hh⟩ := hclash
      refine ⟨⟨id, fun _ => id, fun h d => ?_, id, id, id, id, id, id, enterStations_stationsOk hne ht hh, id⟩,
        fun _ => .refl _, rfl, rfl, rfl, ?_⟩
      · by_cases e : c = d
        · subst e
          rw [modCell_cell]
          exact ⟨Nat.zero_le _, (h c).2.1, by simp [Cell.loadedWith]⟩
        · rw [modCell_cell_ne _ _ e]
          exact h d
      · have hindex : Spares p s (enterStations c tester handler s) := .of_eq rfl rfl
        exact hindex.trans (.modCell_same _ c fun k => k.loadedWith tester handler ⟨cls.toNat, hcls⟩)
    · exact .refuse _ _

/-! ## A lot record written, with its route's count (R5) -/

/-- The lot is one that the reference count of route `r` counts (R5). -/
def Lot.counts (x : Lot) (r : RouteIx) : Bool := x.state.counted && x.route == r

theorem refsOk_iff (s : State) :
    s.refsOk ↔ ∀ r, (s.route r).refs = (List.finRange 256).countP fun l => (s.lot l).counts r := .rfl

/-- A count over a list, when one entry changes its answer. -/
theorem countP_add_of_eq_off {α : Type} {f g : α → Bool} {i : α} {l : List α} (hn : l.Nodup) (hi : i ∈ l)
    (h : ∀ j, j ≠ i → f j = g j) : l.countP f + (g i).toNat = l.countP g + (f i).toNat := by
  induction l with
  | nil => simp at hi
  | cons a l ih =>
    obtain ⟨hal, hn⟩ := List.nodup_cons.1 hn
    rw [List.countP_cons, List.countP_cons]
    by_cases e : i = a
    · subst e
      have hrest : l.countP f = l.countP g :=
        List.countP_congr fun j hj => by rw [h j fun e => hal (e ▸ hj)]
      cases hf : f i <;> cases hg : g i <;> simp [hrest]
    · have hl := ih hn ((List.mem_cons.1 hi).resolve_left e)
      rw [h a (Ne.symm e)]
      omega

/-- A lot record written whole, and the counts of the routes with it. -/
theorem Rules.writeLot (s : State) (i : LotSlot) (y : Lot) (R : Vector Route 48)
    (hsteps : ∀ r : RouteIx, R[r].steps = (s.route r).steps)
    (hrefs : ∀ r : RouteIx, R[r].refs = (s.route r).refs + (y.counts r).toNat - ((s.lot i).counts r).toNat)
    (hholds : (s.lot i).holdsOk → y.holdsOk) (hfigures : (s.lot i).figures.bounded → y.figures.bounded)
    (hseq : (s.lot i).queueSeq < Config.maxSequence → y.queueSeq < Config.maxSequence)
    (htags : s.lotTagsOk → y.state ≠ .vacant → ∀ j, j ≠ i → (s.lot j).state ≠ .vacant → (s.lot j).tag ≠ y.tag) :
    Rules s { s with lots := vset s.lots i y, routes := R } := by
  let t : State := { s with lots := vset s.lots i y, routes := R }
  have hsame : t.lot i = y := setLot_lot s i y
  have hother : ∀ j, j ≠ i → t.lot j = s.lot j := fun j hj => setLot_lot_ne s y hj.symm
  have hlots : ∀ q : Lot → Prop, (q (s.lot i) → q y) → (∀ j, q (s.lot j)) → ∀ j, q (t.lot j) := by
    intro q hq hs j
    by_cases hj : j = i
    · rw [hj, hsame]
      exact hq (hs i)
    · rw [hother j hj]
      exact hs j
  refine ⟨fun h => ⟨fun r => ?_, h.2⟩, fun _ h => ⟨hlots (·.figures.bounded) hfigures h.1, h.2⟩, id,
    fun h => ⟨h.1, h.2.1, hlots (·.queueSeq < _) hseq h.2.2⟩, id, id, fun h j k hj hk hjk => ?_, fun h r => ?_, id, id,
    hlots Lot.holdsOk hholds⟩
  · change R[r].steps.length ≤ 6 ∧ ∀ st ∈ R[r].steps, st.inRange
    rw [hsteps]
    exact h.1 r
  · change (t.lot j).tag = (t.lot k).tag at hjk
    change (t.lot j).state ≠ .vacant at hj
    change (t.lot k).state ≠ .vacant at hk
    by_cases ej : j = i <;> by_cases ek : k = i
    · rw [ej, ek]
    · rw [ej, hsame] at hj hjk
      rw [hother k ek] at hk hjk
      exact absurd hjk.symm (htags h hj k ek hk)
    · rw [ek, hsame] at hk hjk
      rw [hother j ej] at hj hjk
      exact absurd hjk (htags h hk j ej hj)
    · rw [hother j ej] at hj hjk
      rw [hother k ek] at hk hjk
      exact h j k hj hk hjk
  · change R[r].refs = (List.finRange 256).countP fun l => (t.lot l).counts r
    have hcount := countP_add_of_eq_off (f := fun l => (t.lot l).counts r) (g := fun l => (s.lot l).counts r)
      (List.nodup_finRange 256) (List.mem_finRange i) fun j hj => by rw [hother j hj]
    rw [hsame] at hcount
    have := (refsOk_iff s).1 h r
    rw [hrefs]
    omega

/-- The routes after a change of one reference count. -/
theorem modRefs_route_eq (s : State) (q r : RouteIx) (f : Nat → Nat) :
    (modRefs q f s).route r = if q = r then { s.route r with refs := f (s.route r).refs } else s.route r :=
  modRoute_route_eq s q _ r

/-- A counted lot that leaves the count of its route, with that count lowered (R5). -/
theorem Rules.uncountLot (s : State) (i : LotSlot) (y : Lot) (hx : (s.lot i).state.counted = true)
    (hy : y.state.counted = false) (hholds : (s.lot i).holdsOk → y.holdsOk)
    (hfigures : (s.lot i).figures.bounded → y.figures.bounded)
    (hseq : (s.lot i).queueSeq < Config.maxSequence → y.queueSeq < Config.maxSequence)
    (htag : y.state = .vacant ∨ y.tag = (s.lot i).tag) :
    Rules s (modRefs (s.lot i).route (· - 1) (s.setLot i y)) := by
  refine .writeLot s i y _ (fun r => ?_) (fun r => ?_) hholds hfigures hseq fun h hlive j hj hjlive e => ?_
  · change ((modRefs (s.lot i).route (· - 1) (s.setLot i y)).route r).steps = _
    rw [modRefs_route_eq, setLot_route]
    split <;> rfl
  · change ((modRefs (s.lot i).route (· - 1) (s.setLot i y)).route r).refs = _
    rw [modRefs_route_eq, setLot_route]
    split
    · next h => simp [Lot.counts, hx, hy, h]
    · next h => simp [Lot.counts, hy, beq_eq_false_iff_ne.2 h]
  · have hxlive : (s.lot i).state ≠ .vacant := fun hv => by simp [hv, LotState.counted] at hx
    exact hj (h j i hjlive hxlive (e.trans (htag.resolve_left hlive)))

/-! ## The lot requests -/

theorem LotState.counted_of_live {x : LotState} (hv : x ≠ .vacant) (hr : x ≠ .released) (hs : x ≠ .scrapped) :
    x.counted = true := by
  cases x <;> simp_all [LotState.counted]

theorem newLot_fields_bounded (tag : Tag) (route : RouteIx) (quantity cls split maxRuns now : Nat) (preempt : Bool) :
    (newLot tag route quantity cls split maxRuns now preempt).holdsOk
      ∧ (newLot tag route quantity cls split maxRuns now preempt).figures.bounded
      ∧ (newLot tag route quantity cls split maxRuns now preempt).queueSeq < Config.maxSequence :=
  ⟨by simp [Lot.holdsOk, newLot, Lot.vacant], StepFigures.zero_bounded, by simp [newLot, Lot.vacant, Config.maxSequence]⟩

theorem Lot.vacant_fields_bounded :
    Lot.vacant.holdsOk ∧ Lot.vacant.figures.bounded ∧ Lot.vacant.queueSeq < Config.maxSequence :=
  ⟨by simp [Lot.holdsOk, Lot.vacant], StepFigures.zero_bounded, by decide⟩

/-- A VACANT record is filled: LOT_ADD's record and its route's count, before its sequence and the queue (R22, R5). -/
theorem Rules.fillLot {s : State} {i : LotSlot} {y : Lot} (hi : (s.lot i).state = .vacant)
    (hnew : findLot s y.tag = none) (hy : y.state.counted = true) (hholds : y.holdsOk) (hfigures : y.figures.bounded)
    (hseq : y.queueSeq < Config.maxSequence) : Rules s (modRefs y.route (· + 1) (s.setLot i y)) := by
  have hvacant : LotState.vacant.counted = false := rfl
  refine .writeLot s i y _ (fun r => ?_) (fun r => ?_) (fun _ => hholds) (fun _ => hfigures) (fun _ => hseq)
    fun _ _ j _ hlive => findLot_eq_none_iff.1 hnew j hlive
  · change ((modRefs y.route (· + 1) (s.setLot i y)).route r).steps = _
    rw [modRefs_route_eq, setLot_route]
    split <;> rfl
  · change ((modRefs y.route (· + 1) (s.setLot i y)).route r).refs = _
    rw [modRefs_route_eq, setLot_route]
    split
    · next h => simp [Lot.counts, hi, hy, h, hvacant]
    · next h => simp [Lot.counts, hi, hvacant, beq_eq_false_iff_ne.2 h]

theorem vacantLot_eq_some {s : State} {i : LotSlot} (h : vacantLot s = some i) : (s.lot i).state = .vacant := by
  simpa using List.find?_some h

theorem ReplyKeeps.addLot {s : State} {i : LotSlot} {tag : Tag} (hi : (s.lot i).state = .vacant)
    (hnew : findLot s tag = none) (route : RouteIx) (quantity cls split : Nat) (preempt : Bool) :
    ReplyKeeps p s (okWith (byte1 i.val) (addLot i tag route quantity cls split preempt s)) := by
  unfold Machine.addLot
  extract_lets st filled
  obtain ⟨hholds, hfigures, hseq⟩ := newLot_fields_bounded tag route quantity cls split st.maxRuns s.timer preempt
  have hrules : Rules s (modRefs route (· + 1) filled) := .fillLot hi hnew rfl hholds hfigures hseq
  have hspares : Spares p s (modRefs route (· + 1) filled) := .of_eq rfl rfl
  have hlots : ∀ l, l ≠ i → (modRefs route (· + 1) filled).lot l = s.lot l := fun l hl => setLot_lot_ne s _ hl.symm
  have hphase : (modRefs route (· + 1) filled).phase = s.phase := rfl
  have hprofile : (modRefs route (· + 1) filled).profile = s.profile := rfl
  have hacts : Steady p (modRefs route (· + 1) filled)
      (Machine.queueTest i (Machine.takeSequence i (modRefs route (· + 1) filled))) :=
    ((Acts.takeSequence _ _).trans (.queueTest _ _)).steady ((Spares.takeSequence _ _).trans (.queueTest _ _))
  refine ⟨⟨hrules.trans hacts.rules, fun l hl _ => ?_, fun hp => ⟨hacts.phase.trans hp, hacts.profile⟩,
    hacts.pending, fun _ => (hspares.trans hacts.spares).parked⟩, (hspares.trans hacts.spares).responses⟩
  have hli : l ≠ i := fun e => hl (e ▸ hi)
  exact hlots l hli ▸ hacts.lots l

theorem ReplyKeeps.ownLotAdd (tag : Tag) (route : Byte) (quantity : BitVec 24) (cls split preempt : Byte) (s : State) :
    ReplyKeeps p s (ownLotAdd tag route quantity cls split preempt s) := by
  unfold Machine.ownLotAdd
  split
  · refine .ite (fun _ => .refuse _ _) fun _ => .ite (fun _ => .refuse _ _) fun _ => ?_
    refine .ite (fun _ => .refuse _ _) fun hnew => ?_
    split
    · exact .refuse _ _
    · next i hi => exact .addLot (vacantLot_eq_some hi) (by simpa using hnew) _ _ _ _ _
  · exact .refuse _ _

theorem Steady.requeue (l : LotSlot) (s : State) : Steady p s (requeue l s) :=
  .ite (fun _ => (((Acts.queueMove l s).trans (.matchLot _ _)).trans (.preemptSearch _ _)).steady
    (((Spares.queueMove l s).trans (.matchLot _ _)).trans (.preemptSearch _ _))) fun _ => .refl _

theorem ReplyKeeps.ownLotPriority (tag : Tag) (cls : Byte) (s : State) : ReplyKeeps p s (ownLotPriority tag cls s) := by
  unfold Machine.ownLotPriority
  refine .ite (fun _ => .refuse _ _) fun _ => ?_
  split
  · exact .refuse _ _
  · next l _ =>
    have hchange : Steady p s (Machine.requeue l (s.modLot l fun x =>
        { x with cls := cls.toNat, classSince := s.timer })) :=
      ((Acts.modLot_eq l _ s).steady (.modLot _ _ _)).trans (.requeue _ _)
    split
    all_goals first | exact .refuse _ _ | exact .ite (fun _ => (Steady.refl s).ok) fun _ => hchange.ok

theorem Steady.heldTest (l : LotSlot) (s : State) : Steady p s (heldTest l s) :=
  (Acts.heldTest l s).steady (.heldTest l s)

theorem Steady.freeing (l : LotSlot) (s : State) : Steady p s (freeing l s) := (Acts.freeing l s).steady (.freeing l s)

/-- A policy's effect with the two tests that follow it. -/
theorem Steady.policyTests (l : LotSlot) (new : Policy) (s : State) :
    Steady p s (Machine.heldTest l (Machine.queueTest l (Machine.policyEffect l none new none s))) :=
  (((Acts.policyEffect _ _ _ _ _).trans (.queueTest _ _)).steady
    ((Spares.policyEffect _ _ _ _ _).trans (.queueTest _ _))).trans (.heldTest _ _)

theorem Steady.policyChange (l : LotSlot) (old new : Policy) (s : State) : Steady p s (policyChange l old new s) := by
  unfold Machine.policyChange
  split
  · exact .refl s
  · exact .refl s
  · exact .refl s
  · exact .heldTest l s
  · exact .policyTests l .stop s
  · exact .policyTests l .stop s
  · exact .policyTests l .finish s
  · exact .freeing l s
  · exact .freeing l s

theorem Steady.engineerHold (l : LotSlot) (q : Policy) (s : State) : Steady p s (engineerHold l q s) := by
  unfold Machine.engineerHold
  extract_lets old raised
  have hraised : Steady p s raised := (Acts.raiseHold _ _ _ _ _ _ _ rfl).steady (.raiseHold _ _ _ _ _ _ _)
  clear_value old
  split
  · exact hraised.trans (.policyChange _ _ _ _)
  · exact hraised

theorem ReplyKeeps.ownLotHold (tag : Tag) (policy : Byte) (s : State) : ReplyKeeps p s (ownLotHold tag policy s) := by
  unfold Machine.ownLotHold
  split
  · exact .refuse _ _
  · split
    · exact .refuse _ _
    · split
      all_goals first | exact .refuse _ _ | exact (Steady.engineerHold _ _ s).ok

theorem ReplyKeeps.ownLotRelease (tag : Tag) (kind pos : Byte) (s : State) :
    ReplyKeeps p s (ownLotRelease tag kind pos s) := by
  unfold Machine.ownLotRelease
  split
  · exact .refuse _ _
  · split
    · exact .refuse _ _
    · split
      · exact .refuse _ _
      · exact .ite (fun _ => (((Acts.removeHold _ _ _ s).trans (.freeing _ _)).steady
          ((Spares.removeHold _ _ _ s).trans (.freeing _ _))).ok) fun _ => .refuse _ _

theorem Acts.sendStop (r : RunIx) (s : State) : Acts s (sendStop r s) :=
  .ite (fun _ => .sendOrder _ _ _ _) fun _ => .refl _

theorem Spares.sendStop (r : RunIx) (s : State) : Spares p s (sendStop r s) :=
  .ite (fun _ => .sendOrder _ _ _ _) fun _ => .refl _

theorem Acts.scrapRun (r : RunIx) (s : State) : Acts s (scrapRun r s) := by
  unfold Machine.scrapRun
  extract_lets stopped freed
  have hfreed : Acts stopped freed := .modLot_eq _ _ _
  exact (((Acts.sendStop r s).trans (.cancelDeadlines r _)).trans hfreed).trans (.vacate r freed)

theorem Spares.scrapRun (r : RunIx) (s : State) : Spares p s (scrapRun r s) := by
  unfold Machine.scrapRun
  extract_lets stopped freed
  exact (((Spares.sendStop r s).trans (.cancelDeadlines r _)).trans (.modLot stopped _ _)).trans (.vacate r freed)

/-- What LOT_SCRAP leaves of a lot that its runs have left (R26). -/
def Lot.scrapped (x : Lot) : Lot := { x with holds := [], state := .scrapped }

theorem scrapLot_eq (l : LotSlot) (s : State) :
    scrapLot l s =
      let u := eachOpen l none scrapRun (queueRemove l s)
      modRefs (u.lot l).route (· - 1) (u.setLot l (u.lot l).scrapped) := by
  simp only [scrapLot, modLot_lot]
  rfl

theorem Steady.scrapLot {l : LotSlot} {s : State} (hl : (s.lot l).state.counted = true) :
    Steady p s (scrapLot l s) := by
  rw [scrapLot_eq]
  extract_lets u
  have hacts : Acts s u := (Acts.queueRemove l s).trans (.eachOpen l none Acts.scrapRun _)
  have hspares : Spares p s u := (Spares.queueRemove l s).trans (.eachOpen l none Spares.scrapRun _)
  have hu : (u.lot l).state.counted = true := by rw [(hacts.lots l).counted, hl]
  clear_value u
  refine (hacts.steady hspares).trans ⟨.uncountLot u l _ hu rfl (fun _ => ?_) id id (.inr rfl), fun j => ?_, rfl, rfl, rfl,
    .of_eq rfl rfl⟩
  · simp [Lot.holdsOk, Lot.scrapped]
  · rw [modRefs_lot]
    by_cases e : l = j
    · subst e
      rw [setLot_lot]
      refine ⟨rfl, rfl, rfl, rfl, rfl, le_refl _, ⟨fun h => ?_, fun h => ?_⟩⟩
      · simp [Lot.scrapped] at h
      · rw [h] at hu
        simp [LotState.counted] at hu
    · rw [setLot_lot_ne u _ e]
      exact .refl _

theorem ReplyKeeps.ownLotScrap (tag : Tag) (s : State) : ReplyKeeps p s (ownLotScrap tag s) := by
  unfold Machine.ownLotScrap
  split
  · exact .refuse _ _
  · next l hf =>
    refine .ite (fun _ => .refuse _ _) fun hr => .ite (fun _ => .refuse _ _) fun _ => ?_
    refine .ite (fun _ => (Steady.refl s).ok) fun hs => (Steady.scrapLot ?_).ok
    exact LotState.counted_of_live (findLot_eq_some hf).1 hr hs

theorem Rules.retireLot {l : LotSlot} {s : State} (h : (s.lot l).retirable = true) : Rules s (retireLot l s) := by
  obtain ⟨hholds, hfigures, hseq⟩ := Lot.vacant_fields_bounded
  rw [Lot.retirable_iff] at h
  unfold Machine.retireLot
  by_cases hfin : (s.lot l).state = .finished
  · rw [if_pos hfin]
    exact .uncountLot s l .vacant (by rw [hfin]; rfl) rfl (fun _ => hholds) (fun _ => hfigures) (fun _ => hseq) (.inl rfl)
  · rw [if_neg hfin]
    have hun : (s.lot l).state.counted = false := by
      rcases h with h | h | h
      · rw [h]; rfl
      · rw [h]; rfl
      · exact absurd h.1 hfin
    refine .writeLot s l .vacant s.routes (fun _ => rfl) (fun r => ?_) (fun _ => hholds) (fun _ => hfigures)
      (fun _ => hseq) fun _ hlive => absurd rfl hlive
    simp [Lot.counts, hun, State.route, show Lot.vacant.state.counted = false from rfl]

theorem ReplyKeeps.ownLotRetire (tag : Tag) (s : State) : ReplyKeeps p s (ownLotRetire tag s) := by
  unfold Machine.ownLotRetire
  split
  · exact .refuse _ _
  · next l _ =>
    refine .ite (fun hr => ?_) fun _ => .refuse _ _
    have hspares : Spares p s (retireLot l s) := .of_eq (by rw [retireLot_eq]) (by rw [retireLot_eq])
    refine ⟨⟨.retireLot hr, fun j _ hj => ?_, fun hp => ?_, by rw [ok, okWith, retireLot_eq], fun _ => hspares.parked⟩,
      hspares.responses⟩
    · have hne : j ≠ l := fun e => hj (by rw [e]; exact congrArg Lot.state (retireLot_lot_same l s))
      change SameLot _ ((retireLot l s).lot j)
      rw [retireLot_lot_ne s hne]
      exact .refl _
    · change (retireLot l s).phase = _ ∧ (retireLot l s).profile = _
      rw [retireLot_eq]
      exact ⟨hp, rfl⟩

theorem ReplyKeeps.ownRunAbort (tag : Tag) (pos : Byte) (s : State) : ReplyKeeps p s (ownRunAbort tag pos s) := by
  unfold Machine.ownRunAbort
  split
  · exact .refuse _ _
  · split
    · exact .refuse _ _
    · split
      · exact .refuse _ _
      · exact ((((Acts.sendStop _ s).trans (.raiseHold _ _ _ _ _ _ _ rfl)).trans (.closeRun _ _)).steady
          (((Spares.sendStop _ s).trans (.raiseHold _ _ _ _ _ _ _)).trans (.closeRun _ _))).ok

/-! ## The cell requests -/

theorem ReplyKeeps.ownCellClear {cell : Byte} (hp : ∀ c, c.val = cell.toNat → ¬ p c) (s : State) :
    ReplyKeeps p s (ownCellClear cell s) := by
  unfold Machine.ownCellClear
  split
  · exact .refuse _ _
  · next c hc =>
    refine .ite (fun _ => Steady.ok ?_) fun _ => .refuseWith _ _ _
    have hclear : Keeps s (s.modCell c fun k => { k with downCount := 0, clearTime := some s.timer }) :=
      .modCell _ _ _ ⟨rfl, rfl, rfl, rfl⟩ fun h => ⟨Nat.zero_le _, h.2⟩
    exact (hclear.steady (.modCell_same _ _ _)).trans
      ((Acts.recover _ _ _).steady (.recover (hp c (cellInUse_eq_some hc).1) _ _))

theorem Keeps.resetFields (c : CellIx) (s : State) : Keeps s (s.modCell c Cell.resetFields) :=
  .modCell _ _ _ ⟨rfl, rfl, rfl, rfl⟩ fun h => ⟨Nat.zero_le _, h.2⟩

theorem Steady.resetCell {c : CellIx} {s : State} (hc : (s.cell c).state ≠ .quarantined) :
    Steady p s (resetCell c s) := by
  unfold Machine.resetCell
  extract_lets was interrupted left reset noticed
  have hleft : Acts interrupted left := .ite (fun _ => .refl _) fun _ => .enterMarked _ _ _ _
  have hnoticed : Acts reset noticed := .ite (fun _ => .refl _) fun _ => .postNotice _ _
  have hkeeps : Keeps s noticed :=
    (((Acts.interrupt c false s).trans hleft).keeps.trans (.resetFields c left)).trans hnoticed.keeps
  refine (hkeeps.trans (Acts.raiseOnCurrent c .lost none noticed rfl).keeps).steady
    (.awake c (Cell.not_parked_of_state hc) ?_)
  have hleft' : Spares (fun d => p d ∧ d ≠ c) interrupted left :=
    .ite (fun _ => .refl _) fun _ => .enterMarked (not_spared c) _ _ _
  have hnoticed' : Spares (fun d => p d ∧ d ≠ c) reset noticed := .ite (fun _ => .refl _) fun _ => .postNotice _ _
  exact ((((Spares.interrupt c false s).trans hleft').trans (.modCell_same _ _ Cell.resetFields)).trans hnoticed').trans
    (.raiseOnCurrent _ _ _ _)

theorem ReplyKeeps.ownCellReset (cell : Byte) (s : State) : ReplyKeeps p s (ownCellReset cell s) := by
  unfold Machine.ownCellReset
  split
  · exact .refuse _ _
  · exact .ite (fun _ => .refuse _ _) fun hc => (Steady.resetCell hc).ok

theorem Steady.drainCell (c : CellIx) (on : Bool) (s : State) : Steady p s (drainCell c on s) := by
  have hset : Steady p s (s.modCell c fun k => { k with draining := on }) :=
    (Keeps.modCell c _ s ⟨rfl, rfl, rfl, rfl⟩ id).steady (.modCell_same _ _ _)
  exact hset.trans (.ite (fun _ => .refl _) fun _ => (Acts.matchCell _ _).steady (.matchCell _ _))

theorem ReplyKeeps.ownCellDrain (cell setting : Byte) (s : State) : ReplyKeeps p s (ownCellDrain cell setting s) := by
  unfold Machine.ownCellDrain
  split
  · exact (Steady.drainCell _ _ s).ok
  · exact .refuse _ _

theorem ReplyKeeps.ownCellCountersClear (cell : Byte) (s : State) : ReplyKeeps p s (ownCellCountersClear cell s) := by
  unfold Machine.ownCellCountersClear
  split
  · exact .refuse _ _
  · next c _ =>
    have hzero : Keeps s (s.modCell c fun k => { k with acc := .zero, since := s.timer }) :=
      .modCell _ _ _ ⟨rfl, rfl, rfl, rfl⟩ fun h => ⟨h.1, Accumulators.zero_bounded, h.2.2⟩
    exact (hzero.steady (.modCell_same _ _ _)).ok

/-! ## The shipment requests -/

theorem setShip_ship_eq (s : State) (n m : ShipSlot) (x : Shipment) :
    (s.setShip n x).ship m = if n = m then x else s.ship m := vset_get ..

/-- A shipment record written whole. -/
theorem Rules.setShip (s : State) (n : ShipSlot) (x : Shipment) (hb : (s.ship n).balanced → x.balanced)
    (ht : s.shipsOk → x.state ≠ .vacant → ∀ m, m ≠ n → (s.ship m).state ≠ .vacant → (s.ship m).tag ≠ x.tag) :
    Rules s (s.setShip n x) := by
  refine ⟨id, fun _ => id, id, id, id, id, id, id, fun h => ⟨fun m => ?_, fun a b ha hb' hab => ?_⟩, id, id⟩
  · rw [setShip_ship_eq]
    split
    · exact hb (h.1 n)
    · exact h.1 m
  · rw [setShip_ship_eq] at ha hab
    rw [setShip_ship_eq] at hb' hab
    by_cases ea : n = a <;> by_cases eb : n = b
    · rw [← ea, ← eb]
    · rw [if_pos ea] at ha hab
      rw [if_neg eb] at hb' hab
      exact absurd hab.symm (ht h ha b (Ne.symm eb) hb')
    · rw [if_neg ea] at ha hab
      rw [if_pos eb] at hb' hab
      exact absurd hab (ht h hb' a (Ne.symm ea) ha)
    · rw [if_neg ea] at ha hab
      rw [if_neg eb] at hb' hab
      exact h.2 a b ha hb' hab

theorem Steady.of_ships {s : State} {n : ShipSlot} {x : Shipment} (h : Rules s (s.setShip n x)) :
    Steady p s (s.setShip n x) := ⟨h, fun _ => .refl _, rfl, rfl, rfl, .of_eq rfl rfl⟩

/-- A change of a live shipment that keeps its tag. -/
theorem Steady.modShip (s : State) (n : ShipSlot) (f : Shipment → Shipment) (hlive : (s.ship n).state ≠ .vacant)
    (htag : (f (s.ship n)).tag = (s.ship n).tag) (hb : (s.ship n).balanced → (f (s.ship n)).balanced) :
    Steady p s (s.modShip n f) :=
  .of_ships (.setShip s n _ hb fun h _ m hm hmlive e => hm (h.2 m n hmlive hlive (e.trans htag)))

theorem Shipment.vacant_balanced : Shipment.vacant.balanced := by
  unfold Shipment.balanced
  decide

theorem Steady.vacateShip (s : State) (n : ShipSlot) : Steady p s (s.setShip n .vacant) :=
  .of_ships (.setShip _ _ _ (fun _ => Shipment.vacant_balanced) fun _ h => absurd rfl h)

theorem Steady.setMark (l : LotSlot) (g : Fin 4) (m : PortionMark) (s : State) : Steady p s (setMark l g m s) :=
  (Acts.modLot_eq l _ s).steady (.modLot _ _ _)

theorem Steady.foldl {α : Type} {f : State → α → State} (hf : ∀ s a, Steady p s (f s a)) (l : List α) (s : State) :
    Steady p s (l.foldl f s) := by
  induction l generalizing s with
  | nil => exact .refl _
  | cons a l ih => exact (hf s a).trans (ih _)

theorem Steady.markMembers (g : Fin 4) (m : PortionMark) (ms : List Member) (s : State) :
    Steady p s (markMembers g m ms s) := .foldl (fun _ _ => .setMark _ _ _ _) _ _

theorem ReplyKeeps.ownShipOpen (tag : Tag) (product : BitVec 32) (grade : Byte) (maximum : BitVec 24) (s : State) :
    ReplyKeeps p s (ownShipOpen tag product grade maximum s) := by
  refine .ite (fun _ => .refuse _ _) fun _ => .ite (fun _ => .refuse _ _) fun hnew => ?_
  split
  · exact .refuse _ _
  · refine (Steady.of_ships (.setShip _ _ _ (fun _ => ?_) fun _ _ m _ hlive => ?_)).okWith _
    · exact ⟨rfl, Nat.zero_le _, Nat.zero_le _⟩
    · exact findShip_eq_none_iff.1 (by simpa using hnew) m hlive

theorem Shipment.withMember_balanced {x : Shipment} {m : Member} (hroom : x.members.length < Config.memberCapacity)
    (hmax : x.quantity + m.quantity ≤ x.maximum) (h : x.balanced) : (x.withMember m).balanced := by
  obtain ⟨hsum, -, -⟩ := h
  exact ⟨by simp [withMember, hsum], hmax, by simpa [withMember] using hroom⟩

theorem Shipment.withoutMember_balanced {x : Shipment} {m : Member} (hm : m ∈ x.members) (h : x.balanced) :
    (x.withoutMember m).balanced := by
  obtain ⟨hsum, hmax, hlen⟩ := h
  have hperm := ((List.perm_cons_erase hm).map Member.quantity).sum_eq
  have herase := (List.erase_sublist (a := m) (l := x.members)).length_le
  rw [List.map_cons, List.sum_cons] at hperm
  change x.quantity = (x.members.map Member.quantity).sum at hsum
  refine ⟨?_, (Nat.sub_le _ _).trans hmax, herase.trans hlen⟩
  change x.quantity - m.quantity = ((x.members.erase m).map Member.quantity).sum
  omega

theorem ReplyKeeps.ownShipAdd (tag lot : Tag) (s : State) : ReplyKeeps p s (ownShipAdd tag lot s) := by
  unfold Machine.ownShipAdd
  split
  · next n l _ _ =>
    refine .ite (fun _ => .refuse _ _) fun hopen => .ite (fun _ => .refuse _ _) fun _ => ?_
    refine .ite (fun _ => .refuse _ _) fun _ => .ite (fun _ => .refuse _ _) fun _ => .ite (fun _ => .refuse _ _) fun _ => ?_
    refine .ite (fun _ => .refuse _ _) fun hroom => .ite (fun _ => .refuse _ _) fun hmax => Steady.okWith ?_ _
    have hlive : (s.ship n).state ≠ .vacant := by simp [not_not.1 hopen]
    refine Steady.trans (Steady.modShip s n (fun x => x.withMember _) hlive rfl ?_) (.setMark _ _ _ _)
    exact Shipment.withMember_balanced (by omega) (by simpa using hmax)
  · exact .refuse _ _

theorem ReplyKeeps.ownShipRemove (tag lot : Tag) (s : State) : ReplyKeeps p s (ownShipRemove tag lot s) := by
  unfold Machine.ownShipRemove
  split
  · exact .refuse _ _
  · next n _ =>
    refine .ite (fun _ => .refuse _ _) fun hopen => ?_
    split
    · exact .refuse _ _
    · next m hm =>
      have hlive : (s.ship n).state ≠ .vacant := by simp [not_not.1 hopen]
      refine (Steady.trans (Steady.modShip s n (fun x => x.withoutMember m) hlive rfl ?_) (.setMark _ _ _ _)).okWith _
      exact Shipment.withoutMember_balanced (List.mem_of_find?_eq_some hm)

theorem ReplyKeeps.ownShipSeal (tag : Tag) (s : State) : ReplyKeeps p s (ownShipSeal tag s) := by
  unfold Machine.ownShipSeal
  split
  · exact .refuse _ _
  · next n hn =>
    exact .ite (fun _ => .refuse _ _) fun _ => (Steady.modShip s n _ (findShip_eq_some hn).1 rfl id).ok

theorem Steady.releaseTest (l : LotSlot) (s : State) : Steady p s (releaseTest l s) := by
  refine .ite (fun h => ?_) fun _ => .refl _
  have hcounted : (s.lot l).state.counted = true := by rw [h.1]; rfl
  refine ⟨.uncountLot s l { s.lot l with state := .released } hcounted rfl id id id (.inr rfl), fun j => ?_, rfl, rfl, rfl,
    .of_eq rfl rfl⟩
  rw [modRefs_lot]
  by_cases e : l = j
  · subst e
    rw [modLot_lot]
    exact ⟨rfl, rfl, rfl, rfl, rfl, le_refl _, by simp [h.1]⟩
  · rw [modLot_lot_ne s _ e]
    exact .refl _

theorem Steady.releaseShip {n : ShipSlot} {s : State} (hlive : (s.ship n).state ≠ .vacant) :
    Steady p s (releaseShip n s) := by
  unfold Machine.releaseShip
  extract_lets x released marked noticed
  have hreleased : Steady p s released := .modShip s n _ hlive rfl id
  have hnoticed : Steady p marked noticed := (Acts.postNotice _ _).steady (.postNotice _ _)
  exact ((hreleased.trans (.markMembers _ _ _ released)).trans hnoticed).trans (.foldl (fun _ _ => .releaseTest _ _) _ _)

theorem ReplyKeeps.ownShipRelease (tag : Tag) (s : State) : ReplyKeeps p s (ownShipRelease tag s) := by
  unfold Machine.ownShipRelease
  split
  · exact .refuse _ _
  · next n hn =>
    refine .ite (fun _ => .refuse _ _) fun _ => ?_
    split
    · exact .refuseWith _ _ _
    · exact (Steady.releaseShip (findShip_eq_some hn).1).ok

theorem ReplyKeeps.ownShipCancel (tag : Tag) (s : State) : ReplyKeeps p s (ownShipCancel tag s) := by
  unfold Machine.ownShipCancel
  split
  · exact .refuse _ _
  · exact .ite (fun _ => .refuse _ _) fun _ => ((Steady.markMembers _ _ _ s).trans (.vacateShip _ _)).ok

theorem ReplyKeeps.ownShipRetire (tag : Tag) (s : State) : ReplyKeeps p s (ownShipRetire tag s) := by
  unfold Machine.ownShipRetire
  split
  · exact .refuse _ _
  · exact .ite (fun _ => (Steady.vacateShip s _).ok) fun _ => .refuse _ _

end Sys2Proof.Machine
end

section
/-! The reports and the events: what each spares; then every command by its constructor, and the statements about every
step. -/

set_option Elab.async false

namespace Sys2Proof.Machine

variable {p : CellIx → Prop}

/-! ## Touchdowns -/

theorem Spares.countFirstPass (r : RunIx) (us : List TestedUnit) (s : State) : Spares p s (countFirstPass r us s) := by
  unfold Machine.countFirstPass
  exact (Spares.modLot _ _ _).trans (.modRun _ _ _)

theorem Spares.countRetestPass (r : RunIx) (us : List TestedUnit) (s : State) : Spares p s (countRetestPass r us s) := by
  unfold Machine.countRetestPass
  exact .modRun _ _ _

theorem Spares.checkConsec (lim : LimitSet) (before : Vector SiteFigures 16) (r : RunIx) (s : State) :
    Spares p s (checkConsec lim before r s) := .ite (fun _ => .raiseOnRun _ _ _ _) fun _ => .refl _

theorem Spares.checkWindow (lim : LimitSet) (a : Bool) (r : RunIx) (s : State) : Spares p s (checkWindow lim a r s) :=
  .ite (fun _ => .raiseOnRun _ _ _ _) fun _ => .refl _

theorem Spares.checkSites (lim : LimitSet) (c : CellIx) (r : RunIx) (s : State) : Spares p s (checkSites lim c r s) := by
  unfold Machine.checkSites
  split
  · exact .ite (fun _ => .raiseOnRun _ _ _ _) fun _ => .refl _
  · exact .refl _

theorem Spares.checkBins (lim : LimitSet) (l : LotSlot) (s : State) : Spares p s (checkBins lim l s) := by
  refine .ite (fun _ => ?_) fun _ => .refl _
  split
  · exact .raiseOnLot _ _ _ _
  · exact .refl _

theorem Spares.checkYield (lim : LimitSet) (l : LotSlot) (s : State) : Spares p s (checkYield lim l s) :=
  .ite (fun _ => .raiseOnLot _ _ _ _) fun _ => .refl _

theorem Spares.checkAll (before : Vector SiteFigures 16) (a : Bool) (c : CellIx) (r : RunIx) (s : State) :
    Spares p s (checkAll before a c r s) :=
  ((((Spares.checkConsec _ _ _ _).trans (.checkWindow _ _ _ _)).trans (.checkSites _ _ _ _)).trans
    (.checkBins _ _ _)).trans (.checkYield _ _ _)

theorem Spares.askGolden (c : CellIx) (r : RunIx) (s : State) : Spares p s (askGolden c r s) := by
  refine .ite (fun h => ?_) fun _ => .refl _
  obtain ⟨-, -, hrunning, -⟩ := h
  exact .awake c (Cell.not_parked_of_state (by rw [hrunning]; decide))
    ((Spares.modRun _ _ _).trans (.prepBegin (not_spared c) _ _ _))

theorem Spares.askTarget (q : Seq) (r : RunIx) (s : State) : Spares p s (askTarget q r s) := by
  unfold Machine.askTarget
  split
  · exact .ite (fun _ => .targetReport _ _) fun _ => .refl _
  · exact .refl _

theorem Spares.countTouchdown (c : CellIx) (r : RunIx) (q : Seq) (es : List SiteEntry) (s : State) :
    Spares p s (countTouchdown c r q es s) :=
  Spares.trans (.ite (fun _ => ((Spares.countFirstPass _ _ _).trans (.checkAll _ _ _ _ _)).trans (.askGolden _ _ _))
    fun _ => .countRetestPass _ _ _) (.askTarget _ _ _)

theorem Spares.acceptTouchdown (c : CellIx) (r : RunIx) (q : Seq) (es : List SiteEntry) (s : State) :
    Spares p s (acceptTouchdown c r q es s) :=
  (Spares.modCell_same s c fun k => { k with expected := some (q + 1) }).trans
    (.ite (fun _ => .refl _) fun _ => .countTouchdown _ _ _ _ _)

theorem Spares.runTouchdown (c : CellIx) (r : RunIx) (q : Seq) (es : List SiteEntry) (s : State) :
    Spares p s (runTouchdown c r q es s) := by
  unfold Machine.runTouchdown
  split
  · exact .acceptTouchdown _ _ _ _ _
  · exact ((Spares.modCell_same _ _ _).trans (.raiseOnRun _ _ _ _)).trans (.acceptTouchdown _ _ _ _ _)
  · exact .refl _

theorem Spares.foreignStart {c : CellIx} (hc : ¬ p c) (s : State) : Spares p s (foreignStart c s) :=
  (Spares.modCell_same s c fun k => { k with expected := none }).trans (.enterQuarantined hc _ _ _)

theorem takeTouchdown_of_parked {c : CellIx} {s : State} (h : (s.cell c).Parked) (q : Seq) (es : List SiteEntry) :
    takeTouchdown c q es s = s := by
  obtain ⟨hs, -, -⟩ := h
  simp [takeTouchdown, hs]

theorem Spares.takeTouchdown (c : CellIx) (q : Seq) (es : List SiteEntry) (s : State) :
    Spares p s (takeTouchdown c q es s) := by
  by_cases h : (s.cell c).Parked
  · rw [takeTouchdown_of_parked h]
    exact .refl _
  refine .awake c h ?_
  unfold Machine.takeTouchdown
  extract_lets started
  clear_value started
  split
  · exact .refl _
  · exact .refl _
  · exact .refl _
  · exact .refl _
  · exact .foreignStart (not_spared c) _
  · exact .runTouchdown _ _ _ _ _

/-! ## The other reports -/

theorem Spares.suspendRun (c : CellIx) (r h : RunIx) (s : State) : Spares p s (suspendRun c r h s) := by
  unfold Machine.suspendRun
  extract_lets run suspended cancelled
  have hcancelled : Spares p suspended cancelled := .ite (fun _ => .cancelRunDeadline _ _ _) fun _ => .refl _
  exact ((Spares.modRun s _ _).trans hcancelled).trans (.modCell_same cancelled _ _)

theorem Spares.pausedReport {c : CellIx} (hc : ¬ p c) (s : State) : Spares p s (pausedReport c s) := by
  unfold Machine.pausedReport
  split
  · split
    · exact ((Spares.suspendRun _ _ _ _).trans (.heldTest _ _)).trans (.prepBegin hc _ _ _)
    · exact ((Spares.suspendRun _ _ _ _).trans (.heldTest _ _)).trans (.prepBegin hc _ _ _)
    all_goals exact .refl _
  · split
    · exact .resumeRun hc _ _
    · exact .resumeRun hc _ _
    · exact .enterCell hc _ _ _
    all_goals exact .refl _
  · exact .refl _

theorem CellState.ne_quarantined_of_recoversFrom {st : CellState} {o : Origin} (h : st.recoversFrom = some o) :
    st ≠ .quarantined := by
  rintro rfl
  cases h

theorem CellState.ne_quarantined_of_operational {st : CellState} (h : st.operational = true) : st ≠ .quarantined := by
  rintro rfl
  cases h

theorem CellState.ne_quarantined_of_watched {st : CellState} (h : st.watched = true) : st ≠ .quarantined := by
  rintro rfl
  cases h

theorem Spares.actOnReport (c : CellIx) (rep : StationReport) (s : State) : Spares p s (actOnReport c rep s) := by
  have hfault : ∀ cause, Spares p s (if (s.cell c).state.operational then Machine.enterDown c cause s else s) := fun _ =>
    .ite (fun ho => .awake c (Cell.not_parked_of_state (CellState.ne_quarantined_of_operational ho))
      (.enterDown (not_spared c) _ _)) fun _ => .refl _
  unfold Machine.actOnReport
  split
  · split
    · next ho =>
      exact .awake c (Cell.not_parked_of_state (CellState.ne_quarantined_of_recoversFrom ho))
        (.ite (fun _ => .recover (not_spared c) _ _) fun _ => .refl _)
    · exact .refl _
  · exact hfault _
  · exact hfault _
  · exact .ite (fun hp => .awake c (Cell.not_parked_of_state (by rw [hp]; decide)) (.pausedReport (not_spared c) _))
      fun _ => .refl _
  all_goals exact .refl _

theorem Spares.recordReport (c : CellIx) (role : Role) (rep : StationReport) (s : State) :
    Spares p s (recordReport c role rep s) := .modCell_same _ _ _ fun k => by cases role <;> exact ⟨rfl, rfl, rfl⟩

theorem Spares.onState (code : Byte) (c : CellIx) (role : Role) (s : State) : Spares p s (onState code c role s) := by
  unfold Machine.onState
  split
  · exact (Spares.recordReport _ _ _ _).trans (.actOnReport _ _ _)
  · exact .refl _

theorem Spares.stageDone {c : CellIx} (hc : ¬ p c) (s : State) : Spares p s (stageDone c s) :=
  (Spares.modCell_of_not hc _).trans (.nextStage hc _)

theorem Spares.onSetupDone (kit : Byte) (temp : BitVec 16) (c : CellIx) (role : Role) (s : State) :
    Spares p s (onSetupDone kit temp c role s) := by
  unfold Machine.onSetupDone
  split
  · exact .refl _
  · refine (Spares.modCell_same s c fun k =>
      { k with kit := some kit.toNat, temp := some (clampTemp temp.toInt) }).trans (.ite (fun hs => ?_) fun _ => .refl _)
    exact .awake c (Cell.not_parked_of_state (by rw [hs]; decide))
      (.ite (fun _ => .stageDone (not_spared c) _) fun _ => .enterDown (not_spared c) _ _)

theorem Spares.onLoadDone (q : Program) (c : CellIx) (role : Role) (s : State) :
    Spares p s (onLoadDone q c role s) := by
  unfold Machine.onLoadDone
  split
  · exact .refl _
  · extract_lets ok known
    refine (Spares.modCell_same s c fun k => { k with program := if ok then some q else none }).trans
      (.ite (fun hs => ?_) fun _ => .refl _)
    exact .awake c (Cell.not_parked_of_state (by rw [hs]; decide))
      (.ite (fun _ => .stageDone (not_spared c) _) fun _ => .enterDown (not_spared c) _ _)

theorem Spares.onLoadFail (c : CellIx) (role : Role) (s : State) : Spares p s (onLoadFail c role s) := by
  unfold Machine.onLoadFail
  split
  · exact .refl _
  · refine (Spares.modCell_same s c fun k => { k with program := none }).trans (.ite (fun hs => ?_) fun _ => .refl _)
    exact .awake c (Cell.not_parked_of_state (by rw [hs]; decide)) (.enterDown (not_spared c) _ _)

theorem Spares.recordGolden {c : CellIx} (hc : ¬ p c) (mask enabled : SiteMask) (o : GoldenOutcome) (s : State) :
    Spares p s (recordGolden c mask enabled o s) := (Spares.modCell_of_not hc _).trans (.postNotice _ _)

theorem Spares.goldenPass {c : CellIx} (hc : ¬ p c) (s : State) : Spares p s (goldenPass c s) := by
  unfold Machine.goldenPass
  extract_lets valid released
  have hreleased : Spares p valid released := by
    unfold released
    split
    · exact (Spares.modRun _ _ _).trans (.goldenRelease _ _)
    · exact .refl _
  exact ((Spares.modCell_same s _ _).trans hreleased).trans ((Spares.modCell_of_not hc _).trans (.nextStage hc _))

theorem Spares.goldenFail {c : CellIx} (hc : ¬ p c) (enabled : SiteMask) (s : State) :
    Spares p s (goldenFail c enabled s) := (Spares.enterQuarantined hc _ _ _).trans (.raiseOnCurrent _ _ _ _)

theorem Spares.onGoldenDone (mask : SiteMask) (c : CellIx) (role : Role) (s : State) :
    Spares p s (onGoldenDone mask c role s) := by
  unfold Machine.onGoldenDone
  split
  · next hs _ =>
    refine .awake c (Cell.not_parked_of_state (by rw [hs]; decide)) (.ite (fun _ => ?_) fun _ => ?_)
    · exact (Spares.recordGolden (not_spared c) _ _ _ _).trans (.goldenFail (not_spared c) _ _)
    · exact (Spares.recordGolden (not_spared c) _ _ _ _).trans (.goldenPass (not_spared c) _)
  · exact .refl _

theorem Spares.onTouchdown (q : Seq) (es : List SiteEntry) (c : CellIx) (role : Role) (s : State) :
    Spares p s (onTouchdown q es c role s) := by
  unfold Machine.onTouchdown
  split
  · exact .refl _
  · exact .takeTouchdown _ _ _ _

theorem Spares.endPass (c : CellIx) (r : RunIx) (pass fed : Nat) (last : Seq) (s : State) :
    Spares p s (endPass c r pass fed last s) := by
  refine (Spares.modRun s r fun x => x.passEnded pass fed last).trans (.ite (fun _ => ?_) fun _ => ?_)
  · exact .ite (fun _ => .passClose _ _) fun _ => .armRunDeadline _ (.inl rfl) _ _
  · exact .ite (fun _ => .modRun _ _ _) fun _ => .refl _

theorem Spares.onPassEnd (pass fed : Nat) (last : Seq) (c : CellIx) (role : Role) (s : State) :
    Spares p s (onPassEnd pass fed last c role s) := by
  unfold Machine.onPassEnd
  split
  · exact .ite (fun _ => .endPass _ _ _ _ _ _) fun _ => .refl _
  · exact .refl _

theorem Spares.judgeCounts (c : CellIx) (r : RunIx) (fed : Nat) (trays : Vector (BitVec 24) 8) (s : State) :
    Spares p s (judgeCounts c r fed trays s) := by
  refine ((Spares.cancelRunDeadline c .counts s).trans (.modRun _ r fun x => { x with handlerFed := some fed })).trans ?_
  exact Spares.trans (.ite (fun _ => .raiseOnLot _ _ _ _) fun _ => .refl _) (.closeRun r _)

theorem Spares.onRunCounts (fed : Nat) (trays : Vector (BitVec 24) 8) (c : CellIx) (role : Role) (s : State) :
    Spares p s (onRunCounts fed trays c role s) := by
  unfold Machine.onRunCounts
  split
  · exact .ite (fun _ => .judgeCounts _ _ _ _ _) fun _ => .refl _
  · exact .refl _

theorem Spares.hear (c : CellIx) (role : Role) (s : State) : Spares p s (hear c role s) :=
  .modCell_same _ _ _ fun k => by cases role <;> exact ⟨rfl, rfl, rfl⟩

theorem Spares.forwardReport (i : Instr) (e : Envelope) (td : Bool) (s : State) :
    Spares p s (forwardReport i e td s) := by
  unfold Machine.forwardReport
  split
  · exact .ite (fun _ => .forwardCF _ _) fun _ => .refl _
  · exact .refl _

/-- A report whose owner keeps what a report keeps. -/
theorem Effect.takeReport (i : Instr) (e : Envelope) (td : Bool) {f : CellIx → Role → State → State}
    (hk : ∀ c role u, Keeps u (f c role u)) (hf : ∀ c role u, Spares p u (f c role u)) (s : State) :
    Effect p s (takeReport i e td f s) := by
  refine ((Keeps.takeReport i e td hk s).steady ?_).effect
  unfold Machine.takeReport
  refine .ite (fun _ => ?_) fun _ => .refl _
  refine (Spares.forwardReport i e td s).trans ?_
  dsimp only
  split
  · exact .refl _
  · split
    · exact (Spares.hear _ _ _).trans (hf _ _ _)
    · exact .refl _

/-! ## Resets (R181, R182) -/

theorem floorReset_lot (s : State) (l : LotSlot) : (floorReset s).lot l = .vacant := by simp [floorReset, State.lot]

theorem floorReset_run (s : State) (r : RunIx) : (floorReset s).run r = .free := by simp [floorReset, State.run]

theorem floorReset_ship (s : State) (n : ShipSlot) : (floorReset s).ship n = .vacant := by
  simp [floorReset, State.ship]

theorem floorReset_cell (s : State) (c : CellIx) : (floorReset s).cell c = (s.cell c).floorReset s.timer := by
  simp [floorReset, State.cell]

theorem floorReset_route (s : State) (r : RouteIx) : (floorReset s).route r = { s.route r with refs := 0 } := by
  simp [floorReset, State.route]

theorem countP_of_filter_self {α : Type} (f : α → Bool) (l : List α) : (l.filter f).countP f = l.countP f := by
  rw [List.countP_filter]
  simp

theorem Rules.floorReset (s : State) : Rules s (floorReset s) where
  tables h := ⟨fun r => by rw [floorReset_route]; exact h.1 r, h.2⟩
  figures _ _ :=
    ⟨fun l => by rw [floorReset_lot]; exact StepFigures.zero_bounded,
      fun r => by rw [floorReset_run]; exact Run.free_bounded⟩
  cells h c := by
    rw [floorReset_cell]
    exact ⟨Nat.zero_le _, Accumulators.zero_bounded, (h c).2.2⟩
  queue _ := ⟨List.nodup_nil, Nat.zero_le _, fun l => by rw [floorReset_lot]; exact Lot.vacant_fields_bounded.2.2⟩
  links h := by
    obtain ⟨hcf, hfc, -, -, -, hresp⟩ := h
    refine ⟨hcf, hfc, Nat.zero_le _, ?_, Nat.zero_le _, ?_⟩
    · symm
      exact List.countP_eq_zero.2 fun o ho => by simpa using (List.mem_filter.1 ho).2
    · exact (countP_of_filter_self _ _).le.trans hresp
  busy h := ⟨fun ht => ⟨by simp [Machine.floorReset, (h.1 ht).1], (h.1 ht).2⟩, fun ht => ⟨rfl, (h.2 ht).2⟩⟩
  tags _ i j hi := by
    rw [floorReset_lot] at hi
    exact absurd rfl hi
  refs _ r := by
    rw [floorReset_route]
    symm
    exact List.countP_eq_zero.2 fun l _ => by rw [floorReset_lot]; simp [Lot.vacant, LotState.counted]
  ships _ :=
    ⟨fun n => by rw [floorReset_ship]; exact Shipment.vacant_balanced, fun m n hm => by
      rw [floorReset_ship] at hm
      exact absurd rfl hm⟩
  stations := stationsOk_of_config rfl fun e _ => by
    rw [floorReset_cell]
    exact ⟨rfl, rfl, rfl, rfl⟩
  holds _ l := by
    rw [floorReset_lot]
    exact Lot.vacant_fields_bounded.1

theorem ReplyKeeps.floorReset (hp : ∀ c, ¬ p c) (s : State) : ReplyKeeps p s (ok (floorReset s)) := by
  refine ⟨⟨.floorReset s, fun l _ h => ?_, fun hphase => ⟨hphase, rfl⟩, rfl, fun _ c hc => absurd hc (hp c)⟩, ?_⟩
  · exact absurd (congrArg Lot.state (floorReset_lot s l)) h
  · exact (List.filter_sublist (l := s.outbound)).countP_le

/-! ## Every command -/

/-- The command clears the cell: the CELL_CLEAR of that cell, or FLOOR_RESET (R86). -/
def clearsCell (i : Instr) (c : CellIx) : Prop :=
  ∃ h, i = .floorReset h ∨ ∃ cell, cell.toNat = c.val ∧ i = .cellClear h cell

theorem ReplyKeeps.answer (data : List Byte) (s : State) : ReplyKeeps p s (okWith data s) :=
  (Steady.refl s).okWith data

theorem ReplyKeeps.ownCellQuery (cell : Byte) (s : State) : ReplyKeeps p s (ownCellQuery cell s) := by
  unfold Machine.ownCellQuery
  split
  · exact .refuse _ _
  · exact .answer _ _

theorem ReplyKeeps.ownLotQuery (tag : Tag) (s : State) : ReplyKeeps p s (ownLotQuery tag s) := by
  unfold Machine.ownLotQuery
  split
  · exact .refuse _ _
  · exact .answer _ _

theorem ReplyKeeps.ownShipQuery (tag : Tag) (s : State) : ReplyKeeps p s (ownShipQuery tag s) := by
  unfold Machine.ownShipQuery
  split
  · exact .refuse _ _
  · exact .answer _ _

/-- What a report or a request that a frame carries keeps. -/
theorem Effect.takeMessage (i : Instr) (s : State) : Effect (fun c => ¬ clearsCell i c) s (takeMessage i s) := by
  cases i with
  | state e code => exact .takeReport _ _ _ (fun c role u => (Acts.onState code c role u).keeps) (Spares.onState code) s
  | setupDone e kit temp => exact .takeReport _ _ _ (Keeps.onSetupDone kit temp) (Spares.onSetupDone kit temp) s
  | loadDone e id rev checksum => exact .takeReport _ _ _ (Keeps.onLoadDone _) (Spares.onLoadDone _) s
  | loadFail e id rev => exact .takeReport _ _ _ Keeps.onLoadFail Spares.onLoadFail s
  | goldenDone e mask => exact .takeReport _ _ _ (Keeps.onGoldenDone mask) (Spares.onGoldenDone mask) s
  | touchdown e q es => exact .takeReport _ _ _ (Keeps.onTouchdown q es) (Spares.onTouchdown q es) s
  | passEnd e pass fed last =>
    exact .takeReport _ _ _ (fun c role u => (Acts.onPassEnd _ _ last c role u).keeps) (Spares.onPassEnd _ _ last) s
  | runCounts e fed trays =>
    exact .takeReport _ _ _ (fun c role u => (Acts.onRunCounts _ trays c role u).keeps) (Spares.onRunCounts _ trays) s
  | setProfile h a => exact .serve fun _ hlocked => .ownSetProfile a fun hp => by simpa [Instr.isSetProfile] using hlocked hp
  | operate h => exact .serve fun _ _ => .ownOperate s
  | setClock h t => exact .serve fun _ _ => (Steady.setClock t s).okWith _
  | loadRoute h route product count steps => exact .serve fun hwf _ => .ownLoadRoute hwf s
  | loadLimits h set a => exact .serve fun _ _ => .ownLoadLimits set a s
  | loadCell h cell tester handler cls => exact .serve fun _ _ => .ownLoadCell cell tester handler cls s
  | lotAdd h tag route quantity cls split preempt =>
    exact .serve fun _ _ => .ownLotAdd tag route quantity cls split preempt s
  | lotPriority h tag cls => exact .serve fun _ _ => .ownLotPriority tag cls s
  | lotHold h tag policy => exact .serve fun _ _ => .ownLotHold tag policy s
  | lotRelease h tag kind pos => exact .serve fun _ _ => .ownLotRelease tag kind pos s
  | lotScrap h tag => exact .serve fun _ _ => .ownLotScrap tag s
  | lotRetire h tag => exact .serve fun _ _ => .ownLotRetire tag s
  | lotQuery h tag => exact .serve fun _ _ => .ownLotQuery tag s
  | runAbort h tag pos => exact .serve fun _ _ => .ownRunAbort tag pos s
  | cellClear h cell =>
    exact .serve fun _ _ => .ownCellClear (fun c hc => not_not.2 ⟨h, .inr ⟨cell, hc.symm, rfl⟩⟩) s
  | cellReset h cell => exact .serve fun _ _ => .ownCellReset cell s
  | cellDrain h cell setting => exact .serve fun _ _ => .ownCellDrain cell setting s
  | cellCountersClear h cell => exact .serve fun _ _ => .ownCellCountersClear cell s
  | cellQuery h cell => exact .serve fun _ _ => .ownCellQuery cell s
  | shipOpen h tag product grade maximum => exact .serve fun _ _ => .ownShipOpen tag product grade maximum s
  | shipAdd h tag lot => exact .serve fun _ _ => .ownShipAdd tag lot s
  | shipRemove h tag lot => exact .serve fun _ _ => .ownShipRemove tag lot s
  | shipSeal h tag => exact .serve fun _ _ => .ownShipSeal tag s
  | shipRelease h tag => exact .serve fun _ _ => .ownShipRelease tag s
  | shipCancel h tag => exact .serve fun _ _ => .ownShipCancel tag s
  | shipRetire h tag => exact .serve fun _ _ => .ownShipRetire tag s
  | shipQuery h tag => exact .serve fun _ _ => .ownShipQuery tag s
  | queueQuery h => exact .serve fun _ _ => .answer _ s
  | status h => exact .serve fun _ _ => .answer _ s
  | floorReset h => exact .serve fun _ _ => .floorReset (fun c => not_not.2 ⟨h, .inl rfl⟩) s
  | unknownRequest h kind => exact .serveBad h kind s
  | powerOnReset | frameArrival | heartbeatExpiry | stageDeadlineExpiry | closingDeadlineExpiry | countsDeadlineExpiry
  | aging | transmitComplete => exact .refl s

/-- The cells that a command does not clear, by itself or by the request that its frame carries. -/
def leavesCell (i : Instr) (s : State) (c : CellIx) : Prop :=
  ¬ clearsCell i c ∧
    ∀ port b j, i = .frameArrival port b → classify port s.profile.partStation b = .request j → ¬ clearsCell j c

theorem Effect.mono {q : CellIx → Prop} {s t : State} (h : Effect q s t) (hpq : ∀ c, p c → q c) : Effect p s t :=
  ⟨h.rules, h.lots, h.config, h.pending, fun hp c hc => h.parked hp c (hpq c hc)⟩

theorem not_clearsCell_of_parseReport {e : Envelope} {kind : Nat} {b : List Byte} {i : Instr}
    (h : parseReport e kind b = some i) (c : CellIx) : ¬ clearsCell i c := by
  rintro ⟨hd, rfl | ⟨cell, -, rfl⟩⟩ <;>
  · unfold parseReport at h
    repeat' split at h
    all_goals simp at h

theorem not_clearsCell_of_classify_report {port : Port} {part : Station} {b : List Byte} {i : Instr}
    (h : classify port part b = .report i) (c : CellIx) : ¬ clearsCell i c := by
  unfold classify at h
  split at h
  · cases h
  split at h
  · cases h
  split at h
  · cases h
  split at h
  · unfold classifyCellSide at h
    dsimp only at h
    split at h
    · split at h
      · next hparse =>
        cases h
        exact not_clearsCell_of_parseReport hparse c
      · cases h
    · split at h <;> cases h
  · unfold classifyFloorSide at h
    dsimp only at h
    repeat' split at h
    all_goals cases h

theorem Effect.takeFrame (port : Port) (b : List Byte) (s : State) :
    Effect (leavesCell (.frameArrival port b) s) s (takeFrame port b s) := by
  unfold Machine.takeFrame
  split
  · exact .refl s
  · cases port
    · exact ((Acts.forwardFC b s).steady (.forwardFC b s)).effect
    · exact ((Acts.forwardCF b s).steady (.forwardCF b s)).effect
  · next i h => exact (Effect.takeMessage i s).mono fun c _ => not_clearsCell_of_classify_report h c
  · next i h => exact (Effect.takeMessage i s).mono fun c hc => hc.2 port b i rfl h
  · exact .serveBad _ _ s

/-! ## Events -/

theorem Spares.closingExpired (r : RunIx) (s : State) : Spares p s (closingExpired r s) :=
  .ite (fun _ => (Spares.raiseOnRun _ _ _ _).trans (.passClose _ _)) fun _ => .refl _

theorem Spares.countsExpired (r : RunIx) (s : State) : Spares p s (countsExpired r s) :=
  .ite (fun _ => (Spares.raiseOnLot _ _ _ _).trans (.closeRun _ _)) fun _ => .refl _

theorem Spares.onCurrent (c : CellIx) {f : RunIx → State → State} (hf : ∀ r u, Spares p u (f r u)) (s : State) :
    Spares p s (onCurrent c f s) := by
  unfold Machine.onCurrent
  split
  · exact hf _ _
  · exact .refl _

theorem Spares.spendDeadline (c : CellIx) (s : State) : Spares p s (spendDeadline c s) :=
  .modCell _ _ _ fun _ ⟨hs, hp, _⟩ => ⟨hs, hp, by simp⟩

/-- A stage deadline is not one that a parked cell has. -/
theorem not_parked_of_stage_due {c : CellIx} {s : State} (h : deadlineDue s c DeadlineKind.isStage = true) :
    ¬ (s.cell c).Parked := by
  rintro ⟨-, -, hd⟩
  unfold deadlineDue at h
  split at h
  · next d hdue =>
    rcases hd d hdue with hk | hk <;> simp [hk, DeadlineKind.isStage] at h
  · cases h

theorem Effect.runDeadline (c : CellIx) {f : RunIx → State → State} (ha : ∀ r u, Acts u (f r u))
    (hf : ∀ r u, Spares p u (f r u)) (s : State) : Effect p s (onCurrent c f (spendDeadline c s)) :=
  (((Acts.spendDeadline c s).trans (.onCurrent c ha _)).steady
    ((Spares.spendDeadline c s).trans (.onCurrent c hf _))).effect

/-- What every command but POWER_ON_RESET keeps. -/
theorem exec_effect {i : Instr} {s t : State} (hi : i ≠ .powerOnReset) (h : exec i s = .next t) :
    Effect (leavesCell i s) s t := by
  have hmessage : exec i s = .next (takeMessage i s) → Effect (leavesCell i s) s t := fun e => by
    obtain rfl : takeMessage i s = t := by simpa [e] using h
    exact (Effect.takeMessage i s).mono fun c hc => hc.1
  have hite : ∀ {q : Prop} [Decidable q] {a : State}, (.next (if q then a else s) : Out) = .next t →
      (q → Effect (leavesCell i s) s a) → Effect (leavesCell i s) s t := by
    intro q _ a e ha
    obtain rfl : (if q then a else s) = t := by simpa using e
    split
    · exact ha ‹_›
    · exact .refl s
  cases i with
  | powerOnReset => exact absurd rfl hi
  | frameArrival port b =>
    obtain rfl : takeFrame port b s = t := by simpa [exec, execFrameArrival] using h
    exact .takeFrame port b s
  | heartbeatExpiry c role =>
    refine hite h fun hdue => ((Keeps.enterLost c s).steady (.awake c (Cell.not_parked_of_state ?_)
      (.enterLost (not_spared c) s))).effect
    simp only [heartbeatDue, Bool.and_eq_true] at hdue
    exact CellState.ne_quarantined_of_watched hdue.1
  | stageDeadlineExpiry c =>
    exact hite h fun hdue => ((Acts.enterDown c .timeout s).steady (.awake c (not_parked_of_stage_due hdue)
      (.enterDown (not_spared c) _ s))).effect
  | closingDeadlineExpiry c => exact hite h fun _ => .runDeadline c Acts.closingExpired Spares.closingExpired s
  | countsDeadlineExpiry c => exact hite h fun _ => .runDeadline c Acts.countsExpired Spares.countsExpired s
  | aging l =>
    exact hite h fun _ => ((((Acts.ageLot l s).trans (.queueMove l _)).trans (.matchLot l _)).steady
      (((Spares.ageLot l s).trans (.queueMove l _)).trans (.matchLot l _))).effect
  | transmitComplete port =>
    cases port with
    | f => exact hite h fun _ => ((Acts.transmitF s).steady
        ⟨responsesWaiting_kickF_le _, fun c _ hs => by rw [kickF_cell]; exact hs⟩).effect
    | c => exact hite h fun _ => ((Acts.transmitC s).steady (.of_eq (kickC_outbound _) (by simp))).effect
  | _ => exact hmessage rfl

end Sys2Proof.Machine
end

section
/-! The statements about every step, and the reset that meets the invariants they keep. -/

set_option Elab.async false

namespace Sys2Proof.Machine

/-! ## The reset (R181) -/

theorem reset_lot (l : LotSlot) : State.reset.lot l = .vacant := by simp [State.reset, State.lot]

theorem reset_run (r : RunIx) : State.reset.run r = .free := by simp [State.reset, State.run]

theorem reset_cell (c : CellIx) : State.reset.cell c = .powerOn := by simp [State.reset, State.cell]

theorem reset_route (r : RouteIx) : State.reset.route r = .empty := by simp [State.reset, State.route]

theorem reset_limit (n : LimitIx) : State.reset.limit n = .unloaded := by simp [State.reset, State.limit]

theorem reset_ship (n : ShipSlot) : State.reset.ship n = .vacant := by simp [State.reset, State.ship]

theorem LimitSet.unloaded_inRange : LimitSet.unloaded.inRange := by
  refine ⟨by decide, by decide, by decide, by decide, fun h => ?_, by decide, by decide, by decide, by decide⟩
  simp [LimitSet.unloaded]

theorem reset_tablesOk : State.reset.tablesOk :=
  ⟨fun r => by rw [reset_route]; exact ⟨Nat.zero_le _, by simp [Route.empty]⟩,
    fun n => by rw [reset_limit]; exact LimitSet.unloaded_inRange⟩

theorem reset_figuresOk : State.reset.figuresOk :=
  ⟨fun l => by rw [reset_lot]; exact Lot.vacant_fields_bounded.2.1, fun r => by rw [reset_run]; exact Run.free_bounded⟩

theorem reset_holdsOk : State.reset.holdsOk := fun l => by
  rw [reset_lot]
  exact Lot.vacant_fields_bounded.1

theorem reset_cellsOk : State.reset.cellsOk := fun c => by
  rw [reset_cell]
  exact Cell.powerOn_bounded

theorem reset_queueOk : State.reset.queueOk :=
  ⟨List.nodup_nil, Nat.zero_le _, fun l => by rw [reset_lot]; exact Lot.vacant_fields_bounded.2.2⟩

theorem reset_shipsOk : State.reset.shipsOk :=
  ⟨fun n => by rw [reset_ship]; exact Shipment.vacant_balanced, fun m n hm => by
    rw [reset_ship] at hm
    exact absurd rfl hm⟩

theorem reset_stationsOk : State.reset.stationsOk := ⟨List.nodup_nil, fun _ he => absurd he (by simp [State.reset])⟩

theorem reset_lotTagsOk : State.reset.lotTagsOk := fun i j hi => by
  rw [reset_lot] at hi
  exact absurd rfl hi

theorem reset_refsOk : State.reset.refsOk := fun r => by
  rw [reset_route]
  symm
  exact List.countP_eq_zero.2 fun l _ => by rw [reset_lot]; simp [Lot.vacant, LotState.counted]

theorem reset_linksOk : State.reset.linksOk := by
  unfold State.linksOk
  decide

theorem reset_portsBusy : State.reset.portsBusy := ⟨fun _ => ⟨rfl, rfl⟩, fun _ => ⟨rfl, rfl⟩⟩

/-- Settles O5, one lemma for each invariant. -/
theorem resetMeetsTheInvariants : Obligations.ResetMeetsTheInvariants :=
  ⟨reset_linksOk, reset_portsBusy, reset_tablesOk, reset_figuresOk, reset_holdsOk, reset_cellsOk, reset_queueOk,
    reset_shipsOk, reset_stationsOk, reset_lotTagsOk, reset_refsOk⟩

/-- Whatever the state before, the commands that wait are none of the invariants' matter (R181). -/
theorem Rules.powerOnReset (s : State) (rest : List Instr) : Rules s { State.reset with pending := rest } :=
  ⟨fun _ => reset_tablesOk, fun _ _ => reset_figuresOk, fun _ => reset_cellsOk, fun _ => reset_queueOk,
    fun _ => reset_linksOk, fun _ => reset_portsBusy, fun _ => reset_lotTagsOk, fun _ => reset_refsOk,
    fun _ => reset_shipsOk, fun _ => reset_stationsOk, fun _ => reset_holdsOk⟩

/-! ## Steps -/

/-- What a step does: the tick of an idle part, a power-on reset, or a command with its effect. -/
theorem step_cases {s t : State} (h : step s = .next t) :
    (t = { s with floorClock := s.floorClock + 1, timer := s.timer + 1 })
      ∨ (∃ rest, t = { State.reset with pending := rest })
      ∨ ∃ rest q, Effect q { s with pending := rest } t := by
  unfold step at h
  split at h
  · unfold tick at h
    split at h
    · exact .inl (by simpa [eq_comm] using h)
    · cases h
  · next i rest _ =>
    by_cases hi : i = .powerOnReset
    · subst hi
      exact .inr (.inl ⟨rest, by simpa [exec, execPowerOnReset, eq_comm] using h⟩)
    · exact .inr (.inr ⟨rest, _, exec_effect hi h⟩)

theorem step_rules {s t : State} (h : step s = .next t) : Rules s t := by
  rcases step_cases h with rfl | ⟨rest, rfl⟩ | ⟨rest, q, he⟩
  · exact ⟨id, fun _ => id, id, id, id, id, id, id, id, id, id⟩
  · exact .powerOnReset s rest
  · have hrest : Rules s { s with pending := rest } := ⟨id, fun _ => id, id, id, id, id, id, id, id, id, id⟩
    exact hrest.trans he.rules

/-- Settles O56: the links are two of the rules that every step keeps. -/
theorem stepsKeepTheLinks : Obligations.StepsKeepTheLinks :=
  fun _ _ h => ⟨(step_rules h).links, (step_rules h).busy⟩

/-- Settles O57: the bounds are four of the rules that every step keeps. -/
theorem stepsKeepTheBounds : Obligations.StepsKeepTheBounds :=
  fun _ _ h => ⟨(step_rules h).tables, (step_rules h).figures, (step_rules h).cells, (step_rules h).queue⟩

/-! ## The length of a hold list (R7) -/

/-- The eleven kinds (Table 1-5). -/
def holdKinds : List HoldKind :=
  [.yield, .bin, .final, .recon, .engineer, .window, .site, .consec, .golden, .data, .lost]

/-- The scopes that go with a kind: the lot, or the four positions. -/
def HoldKind.scopes (k : HoldKind) : List (Option RunPlace) := if k.isLot then [none] else places.map some

/-- Every kind with each of its scopes: 29 pairs. -/
def holdKeys : List (HoldKind × Option RunPlace) := holdKinds.flatMap fun k => k.scopes.map fun pos => (k, pos)

theorem mem_holdKeys {k : HoldKind} {pos : Option RunPlace} (h : pos.isNone = k.isLot) : (k, pos) ∈ holdKeys := by
  have hkind : k ∈ holdKinds := by cases k <;> decide
  cases pos with
  | none =>
    have hk : k.isLot = true := h.symm
    exact List.mem_flatMap.2 ⟨k, hkind, List.mem_map.2 ⟨none, by simp [HoldKind.scopes, hk], rfl⟩⟩
  | some q =>
    have hk : k.isLot = false := h.symm
    have hq : q ∈ places := by fin_cases q <;> decide
    exact List.mem_flatMap.2 ⟨k, hkind, List.mem_map.2 ⟨some q, by simpa [HoldKind.scopes, hk] using hq, rfl⟩⟩

theorem Lot.holds_length_le {x : Lot} (h : x.holdsOk) : x.holds.length ≤ 29 := by
  obtain ⟨hdistinct, hscope⟩ := h
  have hnodup : (x.holds.map fun h => (h.kind, h.pos)).Nodup :=
    List.pairwise_map.2 (hdistinct.imp fun hab e => by
      obtain ⟨hkind, hpos⟩ := Prod.mk.inj e
      exact hab.elim (fun hk => hk hkind) fun hp => hp hpos)
  have hsub : (x.holds.map fun h => (h.kind, h.pos)) ⊆ holdKeys := fun k hk => by
    obtain ⟨h, hh, rfl⟩ := List.mem_map.1 hk
    exact mem_holdKeys (hscope h hh)
  have hle := (hnodup.subperm hsub).length_le
  rw [List.length_map] at hle
  exact hle.trans (by decide)

/-- Settles O58: the keys are five of the rules that every step keeps; the length of a hold list is
`Lot.holds_length_le`. -/
theorem stepsKeepTheKeys : Obligations.StepsKeepTheKeys :=
  ⟨fun _ _ h => ⟨(step_rules h).tags, (step_rules h).refs, (step_rules h).ships, (step_rules h).stations,
    (step_rules h).holds⟩, fun _ => Lot.holds_length_le⟩

theorem step_sameLot {s t : State} (h : step s = .next t) (l : LotSlot) (hs : (s.lot l).state ≠ .vacant)
    (ht : (t.lot l).state ≠ .vacant) : SameLot (s.lot l) (t.lot l) := by
  rcases step_cases h with rfl | ⟨rest, rfl⟩ | ⟨rest, q, he⟩
  · exact .refl _
  · exact absurd (congrArg Lot.state (reset_lot l)) ht
  · exact he.lots l hs ht

/-- Settles O59: `step_sameLot` for the lots, `exec_effect` for the phase and the profile. -/
theorem stepsKeepTheLots : Obligations.StepsKeepTheLots := by
  refine ⟨fun s t l h hs ht => ?_, fun i s t hi hp h => (exec_effect hi h).config hp⟩
  have hsame := step_sameLot h l hs ht
  exact ⟨hsame.tag, hsame.route, hsame.split, hsame.preempt, hsame.started, hsame.step⟩

/-- Settles O60: `exec_effect` spares every parked cell that the command does not clear. -/
theorem quarantineHolds : Obligations.QuarantineHolds := by
  intro i c s t parked ends hp hi hends hframe h hc
  exact (exec_effect hi h).parked hp c ⟨hends, hframe⟩ hc

end Sys2Proof.Machine
end

section
/-! The block (steps, ticks, the power-on reset) and the ports' lists (R170 to R173, R179, R180). -/

set_option Elab.async false

namespace Sys2Proof.Machine

/-! ## The block -/

/-- Settles O1. -/
theorem stepRunsTheFrontCommand : Obligations.StepRunsTheFrontCommand := fun _ _ _ => rfl

theorem exec_completes (i : Instr) (s : State) : ∃ t, exec i s = .next t := by cases i <;> exact ⟨_, rfl⟩

/-- Settles O3: a command completes by its constructor, and `exec_effect` keeps what waits. -/
theorem everyCommandCompletes : Obligations.EveryCommandCompletes := by
  intro i s
  by_cases hi : i = .powerOnReset
  · subst hi
    exact ⟨_, rfl, rfl⟩
  · obtain ⟨t, h⟩ := exec_completes i s
    exact ⟨t, h, (exec_effect hi h).pending⟩

/-- A deadline that has not been reached is due for no kind. -/
theorem deadlineDue_eq_false {c : CellIx} {s : State} (h : ∀ d ∈ (s.cell c).deadline, s.timer < d.expiry)
    (p : DeadlineKind → Bool) : deadlineDue s c p = false := by
  unfold deadlineDue
  split
  · next d hd =>
    have : ¬ d.expiry ≤ s.timer := Nat.not_le.2 (h d hd)
    simp [this]
  · rfl

theorem agingDue_eq_false {l : LotSlot} {s : State}
    (h : s.timer < (s.lot l).classSince + s.profile.aging * 60000) : agingDue s l = false := by
  have : ¬ (s.lot l).classSince + s.profile.aging * 60000 ≤ s.timer := Nat.not_le.2 h
  simp [agingDue, this]

theorem floorTime_succ (t : FloorTime) :
    (t + 1).toNat = if t.toNat = 281474976710655 then 0 else t.toNat + 1 := by
  have ht := t.isLt
  have hone : (1 : FloorTime).toNat = 1 := rfl
  rw [BitVec.toNat_add, hone]
  split
  · next h => rw [h]
  · exact Nat.mod_eq_of_lt (by omega)

theorem step_of_idle {s : State} (hp : s.pending = []) : step s = tick s := by
  unfold step
  rw [hp]

/-- Settles O2, a clause for each: the tick, its end, the wrap of the floor clock, and the events that are not due. -/
theorem idleStepsTickTheClocks : Obligations.IdleStepsTickTheClocks := by
  have hend : Config.timerEnd = 2 ^ 64 := rfl
  refine ⟨fun s hp ht => ?_, fun s hp ht => ?_, floorTime_succ, fun c role s h => ?_, fun c s h => ⟨?_, ?_, ?_⟩,
    fun l s h => ?_, fun s h => ?_, fun s h => ?_⟩
  · rw [step_of_idle hp]
    exact if_pos (hend ▸ ht)
  · rw [step_of_idle hp]
    exact if_neg (by omega)
  · simp [exec, execHeartbeatExpiry, h]
  · simp [exec, execStageDeadlineExpiry, deadlineDue_eq_false h]
  · simp [exec, execClosingDeadlineExpiry, deadlineDue_eq_false h]
  · simp [exec, execCountsDeadlineExpiry, deadlineDue_eq_false h]
  · simp [exec, execAging, agingDue_eq_false h]
  · simp [exec, execTransmitComplete, h]
  · simp [exec, execTransmitComplete, h]

/-- Settles O4: the blocks' values stand in `State.reset`, the records by `reset_route` and its like. -/
theorem powerOnResetValues : Obligations.PowerOnResetValues := fun s =>
  ⟨{ State.reset with pending := s.pending }, rfl, rfl, rfl, rfl, rfl, rfl, rfl, rfl, rfl, rfl, rfl, rfl, rfl, rfl, rfl,
    rfl, reset_route, reset_limit, reset_lot, reset_run, reset_cell, reset_ship⟩

/-! ## Transmitters (R172, R180) -/

theorem kickF_of_busy {s : State} {x : TxFrame} (h : s.txF = some x) : kickF s = s := by simp [kickF, h]

theorem kickC_of_busy {s : State} {x : TxFrame} (h : s.txC = some x) : kickC s = s := by simp [kickC, h]

theorem forwardCF_of_busy {s : State} {x : TxFrame} (h : s.txF = some x) (b : List Byte) :
    forwardCF b s = if s.fwdCF.length < 64 then { s with fwdCF := s.fwdCF ++ [b] } else s := by
  rw [forwardCF, kickF_of_busy (by exact h)]
  rfl

theorem forwardFC_of_busy {s : State} {x : TxFrame} (h : s.txC = some x) (b : List Byte) :
    forwardFC b s = if s.fwdFC.length < 64 then { s with fwdFC := s.fwdFC ++ [b] } else s := by
  rw [forwardFC, kickC_of_busy (by exact h)]
  rfl

theorem appendOrder_of_busy {s : State} {x : TxFrame} (h : s.txC = some x) (o : OrderFrame) :
    appendOrder o s = if s.orders.length < 256 then { s with orders := s.orders ++ [o] } else s := by
  rw [appendOrder, kickC_of_busy (by exact h)]
  rfl

/-- On an idle Port F with nothing waiting a forwarded frame begins to leave (R172). -/
theorem forwardCF_of_idle {s : State} (ht : s.txF = none) (ho : s.outbound = []) (hq : s.fwdCF = []) (b : List Byte) :
    forwardCF b s = { s with txF := some (.forwarded b) } := by
  simp [forwardCF, kickF, ht, ho, hq, Config.forwardCapacity]

theorem forwardFC_of_idle {s : State} (ht : s.txC = none) (ho : s.orders = []) (hq : s.fwdFC = []) (b : List Byte) :
    forwardFC b s = { s with txC := some (.forwarded b) } := by
  simp [forwardFC, kickC, ht, ho, hq, Config.forwardCapacity]

theorem appendOrder_of_idle {s : State} (ht : s.txC = none) (ho : s.orders = []) (o : OrderFrame) :
    appendOrder o s = { s with txC := some (.order o) } := by
  simp [appendOrder, kickC, ht, ho, Config.orderCapacity]

/-- The notice as it is stamped (R179). -/
def stamped (n : Notice) (s : State) : NoticeFrame :=
  { dst := s.profile.floorHost, src := s.profile.partStation, floorTime := s.floorClock, notice := n }

theorem postNotice_of_busy {s : State} {x : TxFrame} (h : s.txF = some x) (hroom : s.noticeCount < 128) (n : Notice) :
    postNotice n s =
      { s with outbound := s.outbound ++ [.notice (stamped n s)], noticeCount := s.noticeCount + 1 } := by
  rw [postNotice, if_pos (show s.noticeCount < Config.noticeCapacity from hroom), kickF_of_busy (by exact h)]
  rfl

theorem postNotice_of_idle {s : State} (ht : s.txF = none) (ho : s.outbound = []) (hroom : s.noticeCount < 128)
    (n : Notice) : postNotice n s = { s with txF := some (.notice (stamped n s) s.gapFlag), gapFlag := false } := by
  rw [postNotice, if_pos (show s.noticeCount < Config.noticeCapacity from hroom)]
  simp [kickF, ht, ho, stamped]

theorem postNotice_of_full {s : State} (h : 128 ≤ s.noticeCount) (n : Notice) :
    postNotice n s = { s with gapFlag := true } := if_neg (Nat.not_lt.2 h)

theorem appendResponse_of_busy {s : State} {x : TxFrame} (h : s.txF = some x) (r : Response) :
    appendResponse r s = { s with outbound := s.outbound ++ [.response r] } := kickF_of_busy (by exact h)

theorem appendResponse_of_idle {s : State} (ht : s.txF = none) (ho : s.outbound = []) (r : Response) :
    appendResponse r s = { s with txF := some (.response r) } := by
  simp [appendResponse, kickF, ht, ho]

theorem sendOrder_of_station {s : State} {c : CellIx} {role : Role} {d : Station}
    (h : (s.cell c).station role = some d) (o : Order) :
    sendOrder c role o s = appendOrder ⟨d, s.profile.partStation, o⟩ s := by simp [sendOrder, h]

theorem sendOrder_of_busy {s : State} {c : CellIx} {role : Role} {d : Station} {x : TxFrame}
    (hd : (s.cell c).station role = some d) (h : s.txC = some x) (o : Order) :
    sendOrder c role o s = if s.orders.length < 256 then
      { s with orders := s.orders ++ [⟨d, s.profile.partStation, o⟩] } else s := by
  rw [sendOrder_of_station hd, appendOrder_of_busy h]

theorem responseKind_eq (kind : BitVec 16) (st : Status) :
    responseKind kind st = if st = .denied ∨ st = .badArg then kind else kind + 0x0100 := by
  cases st <;> simp [responseKind]

/-- The response that a reply makes (R173, R186). -/
def Reply.response (h : ReqHead) (kind : BitVec 16) (r : Reply) : Response :=
  { dst := h.src, src := r.state.profile.partStation,
    kind := if r.status = .denied ∨ r.status = .badArg then kind else kind + 0x0100,
    tag := h.tag, status := r.status, data := r.data }

theorem respond_eq (h : ReqHead) (kind : BitVec 16) (r : Reply) :
    respond h kind r = appendResponse (r.response h kind) r.state := by
  rw [respond, responseKind_eq]
  rfl

/-- Settles O9, from the lemmas on busy and idle ports. -/
theorem listsTakeWhatIsMade : Obligations.ListsTakeWhatIsMade := by
  refine ⟨⟨fun b s x h => forwardCF_of_busy h b, fun b s x h => forwardFC_of_busy h b,
    fun b s ht ho hq => forwardCF_of_idle ht ho hq b, fun b s ht ho hq => forwardFC_of_idle ht ho hq b, ?_,
    fun o s ht ho => appendOrder_of_idle ht ho o⟩, fun n s => ⟨fun x hroom ht => postNotice_of_busy ht hroom n,
    fun hroom ht ho => postNotice_of_idle ht ho hroom n, fun hfull => postNotice_of_full hfull n⟩,
    fun h kind r => ⟨fun x ht => ?_, fun ht ho => ?_⟩⟩
  · intro c o s x t h hbusy htester hhandler toTester toHandler
    replace htester : (s.cell c).station .tester = some t := htester
    replace hhandler : (s.cell c).station .handler = some h := hhandler
    refine ⟨sendOrder_of_busy htester hbusy o, sendOrder_of_busy hhandler hbusy o, fun hroom => ?_⟩
    rw [sendBoth, sendOrder_of_busy htester hbusy, if_pos (by omega), sendOrder_of_busy (by exact hhandler) (by exact hbusy),
      if_pos (by simp; omega)]
    simp [toTester, toHandler]
  · rw [respond_eq, appendResponse_of_busy ht]
    rfl
  · rw [respond_eq, appendResponse_of_idle ht ho]
    rfl

/-- Settles O10: a transmitter's choice is `kickF` and `kickC`; what is made on a busy port leaves it at its frame. -/
theorem transmittersChooseTheNextFrame : Obligations.TransmittersChooseTheNextFrame := by
  refine ⟨fun s x h => ?_, fun s x h => ?_, fun s b ht ho hq => ⟨?_, fun r => ?_, fun n hroom => ?_⟩,
    fun s b ht ho hq => ⟨?_, fun o => ?_⟩, fun s x b h => ⟨?_, fun r => ?_, fun n => ?_⟩, fun s x b h => ⟨?_, fun o => ?_⟩⟩
  · simp only [exec, execTransmitComplete, h, Option.isSome_some, if_true, kickF]
    rcases s.outbound with _ | ⟨_ | _, _⟩
    · rcases s.fwdCF with _ | ⟨_, _⟩ <;> rfl
    · rfl
    · rfl
  · simp only [exec, execTransmitComplete, h, Option.isSome_some, if_true, kickC]
    rcases s.orders with _ | ⟨_, _⟩
    · rcases s.fwdFC with _ | ⟨_, _⟩ <;> rfl
    · rfl
  · rw [forwardCF_of_idle ht ho hq]
  · rw [appendResponse_of_idle ht ho]
  · exact ⟨stamped n s, by rw [postNotice_of_idle ht ho hroom], rfl⟩
  · rw [forwardFC_of_idle ht ho hq]
  · rw [appendOrder_of_idle ht ho]
  · rw [forwardCF_of_busy h]
    split <;> exact h
  · rw [appendResponse_of_busy h]
    exact h
  · rcases Nat.lt_or_ge s.noticeCount 128 with hroom | hfull
    · rw [postNotice_of_busy h hroom]
      exact h
    · rw [postNotice_of_full hfull]
      exact h
  · rw [forwardFC_of_busy h]
    split <;> exact h
  · rw [appendOrder_of_busy h]
    split <;> exact h

/-! ## Tags (R1, R154) -/

theorem findLot_eq_some_iff {s : State} (hu : s.lotTagsOk) {t : Tag} {l : LotSlot} :
    findLot s t = some l ↔ (s.lot l).state ≠ .vacant ∧ (s.lot l).tag = t := by
  refine ⟨findLot_eq_some, fun ⟨hlive, htag⟩ => ?_⟩
  cases hf : findLot s t with
  | none => exact absurd htag (findLot_eq_none_iff.1 hf l hlive)
  | some i =>
    obtain ⟨hi, hti⟩ := findLot_eq_some hf
    rw [hu i l hi hlive (hti.trans htag.symm)]

theorem findShip_eq_some_iff {s : State} (hs : s.shipsOk) {t : Tag} {n : ShipSlot} :
    findShip s t = some n ↔ (s.ship n).state ≠ .vacant ∧ (s.ship n).tag = t := by
  refine ⟨findShip_eq_some, fun ⟨hlive, htag⟩ => ?_⟩
  cases hf : findShip s t with
  | none => exact absurd htag (findShip_eq_none_iff.1 hf n hlive)
  | some i =>
    obtain ⟨hi, hti⟩ := findShip_eq_some hf
    rw [hs.2 i n hi hlive (hti.trans htag.symm)]

/-- Settles O12. -/
theorem tagsFindTheirRecords : Obligations.TagsFindTheirRecords :=
  ⟨fun s t hu => ⟨fun _ => findLot_eq_some_iff hu, by rw [findLot_eq_none_iff]; simp only [or_iff_not_imp_left, ne_eq]⟩,
    fun s t hs => ⟨fun _ => findShip_eq_some_iff hs, by rw [findShip_eq_none_iff]; simp only [or_iff_not_imp_left, ne_eq]⟩⟩

end Sys2Proof.Machine
end

section
/-! How requests are judged (R173, R174), and the requests of the profile, the phase, the clock and the tables. -/

set_option Elab.async false

namespace Sys2Proof.Machine

/-! ## Judging (R173, R174) -/

/-- A request's command is served by its own rule, or is one of an unknown kind. -/
theorem exec_request {i : Instr} {h : ReqHead} {kind : BitVec 16} (hh : requestHead i = some h)
    (hk : i.kindCode = some kind) :
    (∀ k, i ≠ .unknownRequest h k) ∧ (∃ own, ∀ s, exec i s = .next (serve i h kind own s))
      ∨ i = .unknownRequest h kind ∧ ∀ s, exec i s = .next (serveBad h kind s) := by
  cases i with
  | unknownRequest h' k =>
    cases hh
    cases hk
    exact .inr ⟨rfl, fun _ => rfl⟩
  | powerOnReset | frameArrival | state | setupDone | loadDone | loadFail | goldenDone | touchdown | passEnd | runCounts
  | heartbeatExpiry | stageDeadlineExpiry | closingDeadlineExpiry | countsDeadlineExpiry | aging | transmitComplete =>
    cases hh
  | _ =>
    cases hh
    cases hk
    exact .inl ⟨nofun, _, fun _ => rfl⟩

/-- The kinds that are taken in CONFIG (R174 order 3). -/
theorem takenInConfig_iff {i : Instr} {h : ReqHead} {kind : BitVec 16} (hh : requestHead i = some h)
    (hk : i.kindCode = some kind) (hu : ∀ k, i ≠ .unknownRequest h k) :
    Instr.takenInConfig i = true ↔ kind.toNat ∈ [0x0301, 0x0302, 0x0303, 0x0304, 0x0305, 0x0306, 0x0341] := by
  cases i with
  | unknownRequest h' k =>
    cases hh
    exact absurd rfl (hu k)
  | powerOnReset | frameArrival | state | setupDone | loadDone | loadFail | goldenDone | touchdown | passEnd | runCounts
  | heartbeatExpiry | stageDeadlineExpiry | closingDeadlineExpiry | countsDeadlineExpiry | aging | transmitComplete =>
    cases hh
  | _ =>
    cases hk
    simp only [Instr.takenInConfig]
    decide

/-- The kind that OPERATE locks (R174 order 4). -/
theorem isSetProfile_of_kind {i : Instr} {h : ReqHead} (hh : requestHead i = some h)
    (hk : i.kindCode = some 0x0301) (hu : ∀ k, i ≠ .unknownRequest h k) : Instr.isSetProfile i = true := by
  cases i with
  | unknownRequest h' k =>
    cases hh
    exact absurd rfl (hu k)
  | setProfile => rfl
  | _ => simp [Instr.kindCode] at hk

theorem hasRoom_eq_true {s : State} (h : responsesWaiting s < 64) : hasRoom s = true := decide_eq_true h

theorem serve_of_room {i : Instr} {h : ReqHead} {kind : BitVec 16} {own : State → Reply} {s : State}
    (hroom : responsesWaiting s < 64) : serve i h kind own s = respond h kind (judge i h i.wf s own) :=
  if_pos (hasRoom_eq_true hroom)

theorem serveBad_of_room {h : ReqHead} {kind : BitVec 16} {s : State} (hroom : responsesWaiting s < 64) :
    serveBad h kind s = respond h kind (if h.src ≠ s.profile.floorHost then refuse .denied s else refuse .badArg s) :=
  if_pos (hasRoom_eq_true hroom)

/-- Settles O11: `exec_request` and the order of `judge`. -/
theorem requestsAreJudgedInOrder : Obligations.RequestsAreJudgedInOrder := by
  intro i h kind s hh hk
  rcases exec_request hh hk with ⟨hknown, own, hserve⟩ | ⟨hunknown, hserve⟩
  · rw [hserve]
    refine ⟨fun hfull => ?_, fun hroom hsrc => ?_, fun hroom hsrc hbad => ?_, fun ⟨hroom, hsrc, hwf⟩ _ => ⟨?_, ?_⟩⟩
    · have hno : hasRoom s = false := decide_eq_false (Nat.not_lt.2 hfull)
      simp [serve, hno]
    · rw [serve_of_room hroom]
      simp [judge, hsrc]
    · have hwf : i.wf = false := hbad.resolve_left fun ⟨k, hi⟩ => hknown k hi
      rw [serve_of_room hroom]
      simp [judge, hsrc, hwf]
    · intro hconfig hkind
      have htaken : ¬ Instr.takenInConfig i = true := fun ht => hkind ((takenInConfig_iff hh hk hknown).1 ht)
      rw [serve_of_room hroom]
      simp [judge, hsrc, hwf, hconfig, htaken]
    · rintro hoperate rfl
      rw [serve_of_room hroom]
      simp [judge, hsrc, hwf, hoperate, isSetProfile_of_kind hh hk hknown]
  · rw [hserve]
    refine ⟨fun hfull => ?_, fun hroom hsrc => ?_, fun hroom hsrc _ => ?_, fun _ hknown => absurd hunknown (hknown kind)⟩
    · have hno : hasRoom s = false := decide_eq_false (Nat.not_lt.2 hfull)
      simp [serveBad, hno]
    · rw [serveBad_of_room hroom, if_pos hsrc]
    · rw [serveBad_of_room hroom, if_neg (not_not.2 hsrc)]

/-- An admitted request that its phase takes is answered by its own rule. -/
theorem serve_of_admitted {i : Instr} {h : ReqHead} {kind : BitVec 16} {own : State → Reply} {s : State}
    (ha : admitted i h s) (hc : s.phase = .config → Instr.takenInConfig i = true)
    (ho : s.phase = .operate → Instr.isSetProfile i = false) : serve i h kind own s = respond h kind (own s) := by
  obtain ⟨hroom, hsrc, hwf⟩ := ha
  rw [serve_of_room hroom]
  cases hp : s.phase with
  | config => simp [judge, hsrc, hwf, hp, hc hp]
  | operate => simp [judge, hsrc, hwf, hp, ho hp]

/-! ## The profile, the phase and the clock (R175 to R177) -/

theorem onOff_isSome_iff (b : Byte) : (onOff b).isSome = true ↔ b.toNat ≤ 1 := by
  unfold onOff
  generalize b.toNat = n
  match n with
  | 0 | 1 | k + 2 => simp

theorem onOff_getD (b : Byte) : (onOff b).getD false = (b == 1) := by
  by_cases h1 : b = 1
  · subst h1; rfl
  by_cases h0 : b = 0
  · subst h0; rfl
  have hnone : onOff b = none := Option.not_isSome_iff_eq_none.1 fun h => by
    have := (onOff_isSome_iff b).1 h
    bv_omega
  rw [hnone, beq_eq_false_iff_ne.2 h1]
  rfl

theorem stationOk_iff (st : Station) : stationOk st = true ↔ st ≠ 0 ∧ st ≠ 65535 := by simp [stationOk]

theorem profileInRange_iff (a : ProfileArgs) :
    profileInRange a = true ↔
      a.partStation ≠ 0 ∧ a.partStation ≠ 65535 ∧ a.floorHost ≠ 0 ∧ a.floorHost ≠ 65535
        ∧ 1 ≤ a.cellsInUse.toNat ∧ a.cellsInUse.toNat ≤ 64 ∧ 1 ≤ a.heartbeat.toNat ∧ a.heartbeat.toNat ≤ 60
        ∧ 1 ≤ a.load.toNat ∧ a.load.toNat ≤ 600 ∧ 1 ≤ a.golden.toNat ∧ a.golden.toNat ≤ 600
        ∧ 1 ≤ a.closing.toNat ∧ a.closing.toNat ≤ 30 ∧ 1 ≤ a.counts.toNat ∧ a.counts.toNat ≤ 600
        ∧ a.goldenAfterDown.toNat ≤ 1 ∧ a.aging.toNat ≤ 240 ∧ 1 ≤ a.lookahead.toNat ∧ a.lookahead.toNat ≤ 16
        ∧ a.escalation.toNat ≤ 15 ∧ a.forwardResults.toNat ≤ 1 := by
  simp only [profileInRange, Bool.and_eq_true, decide_eq_true_eq, stationOk_iff, onOff_isSome_iff, and_assoc]

theorem profileStored_eq (a : ProfileArgs) :
    profileStored a =
      { partStation := a.partStation, floorHost := a.floorHost, cellsInUse := a.cellsInUse.toNat,
        heartbeat := a.heartbeat.toNat, load := a.load.toNat, golden := a.golden.toNat, closing := a.closing.toNat,
        counts := a.counts.toNat, goldenAfterDown := a.goldenAfterDown == 1, aging := a.aging.toNat,
        lookahead := a.lookahead.toNat, escalation := a.escalation.toNat, forwardResults := a.forwardResults == 1 } := by
  rw [profileStored, onOff_getD, onOff_getD]

/-- Settles O13. -/
theorem profileAndClockAreSet : Obligations.ProfileAndClockAreSet := by
  refine ⟨fun h a s ha hp => ?_, fun h t s ha => ?_⟩
  · intro inRange
    have hexec : exec (.setProfile h a) s = .next (respond h 0x0301 (ownSetProfile a s)) :=
      congrArg Host.Outcome.next (serve_of_admitted ha (fun _ => rfl) (by simp [hp]))
    have hin : profileInRange a = true ↔ inRange := profileInRange_iff a
    rw [hexec, ownSetProfile, ← profileStored_eq, ← hin]
    refine ⟨fun hout => by simp [hout], fun hgood hsame => by simp [hgood, hsame], fun hgood hne => by simp [hgood, hne]⟩
  · exact congrArg Host.Outcome.next (serve_of_admitted ha (fun _ => rfl) fun _ => rfl)

theorem findStation_isSome_iff (s : State) (st : Station) :
    (findStation s st).isSome = true ↔ ∃ e ∈ s.stations, e.station = st := by
  simp [findStation]

/-- Settles O14. -/
theorem operateEntersThePhase : Obligations.OperateEntersThePhase := by
  intro h s ha out
  have hexec : exec (.operate h) s = .next (respond h 0x0302 (ownOperate s)) :=
    congrArg Host.Outcome.next (serve_of_admitted ha (fun _ => rfl) fun _ => rfl)
  rw [hexec, ownOperate]
  refine ⟨fun hp => by rw [if_pos hp], fun hp hin => ?_, fun hp hout => ?_⟩
  · rw [if_neg (by simp [hp]), if_pos ((findStation_isSome_iff s _).2 hin)]
  · rw [if_neg (by simp [hp]), if_neg fun hin => ?_]
    · rfl
    · obtain ⟨e, he, hst⟩ := (findStation_isSome_iff s _).1 hin
      exact hout e he hst

/-! ## Routes (R30, R37) -/

theorem clampTemp_eq_self_iff (t : Int) : clampTemp t = t ↔ -55 ≤ t ∧ t ≤ 175 := by
  unfold clampTemp
  split
  · omega
  · split <;> omega

theorem stepClamped_eq (a : StepArgs) :
    stepClamped a = (decide (a.setpoint.toInt < -55) || decide (175 < a.setpoint.toInt)) := by
  rw [Bool.eq_iff_iff, stepClamped, bne_iff_ne, ne_eq, clampTemp_eq_self_iff]
  simp only [Bool.or_eq_true, decide_eq_true_eq]
  omega

theorem routeInRange_iff (route count : Byte) (steps : List StepArgs) :
    routeInRange route count steps = true ↔
      route.toNat ≤ 47 ∧ count.toNat ≤ 6 ∧ ∀ a ∈ steps, stepInRange a = true := by
  simp [routeInRange, and_assoc]

/-- The class of a tray byte stands in its high four bits, the grade of a GOOD one in its low four. -/
theorem trayClassOf_isSome_iff (b : Byte) :
    (trayClassOf b).isSome = true ↔ b.toNat / 16 ≤ 1 ∨ (b.toNat / 16 = 2 ∧ 1 ≤ b.toNat % 16 ∧ b.toNat % 16 ≤ 4) := by
  unfold trayClassOf
  generalize b.toNat / 16 = m
  generalize b.toNat % 16 = g
  match m with
  | 0 | 1 | k + 3 => simp
  | 2 =>
    match g with
    | 0 | 1 | 2 | 3 | 4 | j + 5 => simp

theorem trayClassStored_iff {b : Byte} (h : (trayClassOf b).isSome = true) :
    (trayClassStored b = .reject ↔ b.toNat / 16 = 0) ∧ (trayClassStored b = .retest ↔ b.toNat / 16 = 1)
      ∧ ∀ g : Fin 4, trayClassStored b = .good g ↔ b.toNat / 16 = 2 ∧ b.toNat % 16 = g.val + 1 := by
  revert h
  unfold trayClassStored trayClassOf
  generalize b.toNat / 16 = m
  generalize b.toNat % 16 = g
  match m with
  | 0 | 1 | k + 3 => simp
  | 2 =>
    match g with
    | 0 | j + 5 => simp
    | 1 | 2 | 3 | 4 =>
      intro _
      refine ⟨by simp, by simp, fun i => ?_⟩
      fin_cases i <;> simp

theorem stepInRange_iff (a : StepArgs) :
    stepInRange a = true ↔ a.classMask ≠ 0 ∧ a.kit ≠ 0 ∧ a.limitSet.toNat ≤ 63 ∧ 1 ≤ a.siteCount.toNat
      ∧ a.siteCount.toNat ≤ 16 ∧ 1 ≤ a.minSites.toNat ∧ a.minSites.toNat ≤ a.siteCount.toNat ∧ 1 ≤ a.maxRuns.toNat
      ∧ a.maxRuns.toNat ≤ 4 ∧ 1 ≤ a.changeoverLimit.toNat ∧ a.changeoverLimit.toNat ≤ 7200 ∧ a.maxRetest.toNat ≤ 3
      ∧ (∀ t ∈ a.map.toList.drop 1, t.toNat ≤ 7) ∧ ∀ c ∈ a.trayClasses.toList, (trayClassOf c).isSome = true := by
  simp only [stepInRange, Bool.and_eq_true, decide_eq_true_eq, bne_iff_ne, List.all_eq_true, and_assoc]

/-- The bins of a map are its entries from 1 on: entry 0 is never read. -/
theorem forall_mem_map_drop_one (v : Vector Byte 16) (q : Byte → Prop) :
    (∀ t ∈ v.toList.drop 1, q t) ↔ ∀ b : Fin 16, b ≠ 0 → q v[b] := by
  simp only [List.mem_iff_getElem, List.getElem_drop, Vector.getElem_toList, List.length_drop, Vector.length_toList]
  constructor
  · intro h b hb
    have hpos : 1 + (b.val - 1) = b.val := by
      have : b.val ≠ 0 := fun e => hb (Fin.ext e)
      omega
    exact h _ ⟨b.val - 1, by omega, by simp [hpos]⟩
  · rintro h t ⟨n, hn, rfl⟩
    exact h ⟨1 + n, by omega⟩ (by simp [Fin.ext_iff])

theorem forall_mem_vector {α : Type} {n : Nat} (v : Vector α n) (q : α → Prop) :
    (∀ t ∈ v.toList, q t) ↔ ∀ i : Fin n, q v[i] := by
  simp only [List.mem_iff_getElem, Vector.getElem_toList, Vector.length_toList]
  exact ⟨fun h i => h _ ⟨i.val, i.isLt, rfl⟩, by rintro h t ⟨m, hm, rfl⟩; exact h ⟨m, hm⟩⟩

theorem stepStored_trays (a : StepArgs) (t : Fin 8) : (stepStored a).trays[t] = trayClassStored a.trayClasses[t] := by
  simp [stepStored, Vector.get]

theorem Route.loadedWith_of_uncounted {r : Route} (h : r.refs = 0) (product : BitVec 32) (steps : List StepArgs) :
    r.loadedWith product steps =
      { product := if steps = [] then 0 else product, steps := steps.map stepStored, refs := 0 } := by
  rw [Route.loadedWith, h]
  simp only [List.isEmpty_iff]

/-- Settles O15: the order of `ownLoadRoute`, then `stepInRange_iff` and the tray classes for the stored steps. -/
theorem loadRouteReplacesTheRoute : Obligations.LoadRouteReplacesTheRoute := by
  refine ⟨fun h route product count steps s => ?_, fun a => ?_⟩
  · intro i ha good
    have hexec : exec i s = .next (respond h 0x0304 (ownLoadRoute route product count steps s)) :=
      congrArg Host.Outcome.next (serve_of_admitted ha (fun _ => rfl) fun _ => rfl)
    have hgood : routeInRange route count steps = true ↔ good := routeInRange_iff route count steps
    rw [hexec, ownLoadRoute]
    refine ⟨fun hout => ?_, fun hin hunloaded => ?_, fun hin hloaded x hx => ?_⟩
    · rw [if_pos (by simpa [← hgood] using hout)]
    · rw [if_neg (by simpa using hgood.2 hin), if_pos (by simpa using hunloaded)]
    · rw [if_neg (by simpa using hgood.2 hin), if_neg (by simpa using hloaded), dif_pos (hx ▸ x.isLt)]
      have hix : (⟨route.toNat, hx ▸ x.isLt⟩ : RouteIx) = x := Fin.ext hx.symm
      simp only [hix]
      refine ⟨fun hrefs => by rw [if_pos hrefs], fun hrefs => ?_⟩
      rw [if_neg (by omega), State.modRoute, Route.loadedWith_of_uncounted hrefs]
      have hclamped : steps.countP stepClamped
          = steps.countP fun a => decide (a.setpoint.toInt < -55) || decide (175 < a.setpoint.toInt) := by
        congr 1
        funext a
        exact stepClamped_eq a
      simp [hclamped, byte1, beBytes]
  · refine ⟨rfl, rfl, rfl, rfl, rfl, rfl, rfl, rfl, rfl, rfl, rfl, rfl, rfl, ?_, fun hin => ⟨?_, fun t => ?_⟩⟩
    · rw [stepInRange_iff, forall_mem_map_drop_one, forall_mem_vector]
      simp only [trayClassOf_isSome_iff]
    · obtain ⟨-, -, hlimit, -⟩ := (stepInRange_iff a).1 hin
      exact Nat.mod_eq_of_lt (by omega)
    · obtain ⟨-, -, -, -, -, -, -, -, -, -, -, -, -, htrays⟩ := (stepInRange_iff a).1 hin
      rw [stepStored_trays]
      exact trayClassStored_iff ((forall_mem_vector _ _).1 htrays t)

/-! ## Limit sets (R39, R42) -/

theorem clampBp_eq_min (v : BitVec 16) : clampBp v = min 10000 v.toNat := by
  unfold clampBp
  split <;> omega

/-- Settles O17. -/
theorem loadLimitsReplacesTheSet : Obligations.LoadLimitsReplacesTheSet := by
  refine ⟨fun h set a s ha => ?_, fun a => ⟨rfl, clampBp_eq_min _, clampBp_eq_min _, clampBp_eq_min _,
    clampBp_eq_min _, fun i => ?_⟩⟩
  · have hexec : exec (.loadLimits h set a) s = .next (respond h 0x0305 (ownLoadLimits set a s)) :=
      congrArg Host.Outcome.next (serve_of_admitted ha (fun _ => rfl) fun _ => rfl)
    rw [hexec, ownLoadLimits]
    refine ⟨fun hout => by rw [dif_neg (by omega)], fun x hx => ?_⟩
    rw [dif_pos (hx ▸ x.isLt)]
    have hix : (⟨set.toNat, hx ▸ x.isLt⟩ : LimitIx) = x := Fin.ext hx.symm
    simp [hix, byte1, beBytes]
  · simp [limitsStored, clampBp_eq_min]

/-! ## Cells (R74) -/

theorem cellInUse_of_lt {s : State} {b : Byte} {c : CellIx} (hc : c.val = b.toNat)
    (h : b.toNat < s.profile.cellsInUse) : cellInUse s b = some c := by
  unfold cellInUse
  rw [dif_pos (hc ▸ c.isLt), if_pos h]
  exact congrArg some (Fin.ext hc.symm)

theorem takenElsewhere_iff (s : State) (c : CellIx) (st : Station) :
    takenElsewhere s c st = true ↔ ∃ e ∈ s.stations, e.cell ≠ c ∧ e.station = st := by
  simp [takenElsewhere, and_comm]

theorem atWork_iff (s : State) (c : CellIx) :
    atWork s c = true ↔ s.phase = .operate ∧ ((s.cell c).state ≠ .offline ∨ (s.cell c).current ≠ none
      ∨ (s.cell c).reserved ≠ none ∨ (s.cell c).stack ≠ []) := by
  simp [atWork, Option.isSome_iff_ne_none, or_assoc]

/-- Settles O18: the order of `ownLoadCell`, with its conditions read as the rule says them. -/
theorem loadCellConfiguresTheCell : Obligations.LoadCellConfiguresTheCell := by
  intro h cell tester handler cls s i ha good
  have hexec : exec i s = .next (respond h 0x0306 (ownLoadCell cell tester handler cls s)) :=
    congrArg Host.Outcome.next (serve_of_admitted ha (fun _ => rfl) fun _ => rfl)
  rw [hexec]
  refine ⟨fun hout => ?_, fun c k hin hc hk => ?_⟩
  · have hrange : ownLoadCell cell tester handler cls s = refuse .range s := by
      unfold ownLoadCell
      split
      · rfl
      · next c hc =>
        obtain ⟨-, hlt⟩ := cellInUse_eq_some hc
        split
        · rfl
        · next hst =>
          simp only [Bool.or_eq_true, Bool.not_eq_true', not_or, Bool.not_eq_false, stationOk_iff] at hst
          split
          · next hcls => exact absurd ⟨hlt, hst.1.1, hst.1.2, hst.2.1, hst.2.2, by omega⟩ hout
          · rfl
    rw [hrange]
  · intro clash working
    obtain ⟨hlt, ht0, ht1, hh0, hh1, hcls⟩ := hin
    have hst : ¬ ((!stationOk tester || !stationOk handler) = true) := by
      simp [(stationOk_iff tester).2 ⟨ht0, ht1⟩, (stationOk_iff handler).2 ⟨hh0, hh1⟩]
    have hclash : (tester = handler ∨ takenElsewhere s c tester = true ∨ takenElsewhere s c handler = true) ↔ clash := by
      simp only [takenElsewhere_iff, clash, ← exists_or, ← and_or_left]
    have hworking : atWork s c = true ↔ working := atWork_iff s c
    have hown : ownLoadCell cell tester handler cls s =
        if clash then refuse .conflict s else if working then refuse .inUse s else
          ok ((enterStations c tester handler s).modCell c fun x => x.loadedWith tester handler k) := by
      have hkx : (⟨cls.toNat, by omega⟩ : Fin 8) = k := Fin.ext hk.symm
      simp only [ownLoadCell, cellInUse_of_lt hc hlt, if_neg hst, dif_pos (show cls.toNat < 8 by omega), hclash,
        hworking, hkx]
    rw [hown]
    refine ⟨fun hyes => by rw [if_pos hyes], fun hno hyes => by rw [if_neg hno, if_pos hyes], fun hno hno' => ?_⟩
    rw [if_neg hno, if_neg hno']
    rfl

end Sys2Proof.Machine
end

section
/-! SUPPORT and THE PROOFS of O6, O7 and O8. Numbers and fields are read back from the bytes they were written as; a
floor message passes its checks and says what it was made of; the frame of a report or a request has the effect of the
command. -/

set_option Elab.async false

namespace Sys2Proof.Machine

/-! ## Numbers as bytes (R183) -/

theorem ofBytes_cons (x : Byte) (l : List Byte) : ofBytes (x :: l) = x.toNat * 256 ^ l.length + ofBytes l := by
  have shift : ∀ (l : List Byte) (a : Nat),
      l.foldl (fun a b => a * 256 + b.toNat) a = a * 256 ^ l.length + ofBytes l := by
    intro l
    induction l with
    | nil => simp [ofBytes]
    | cons y l ih =>
      intro a
      rw [ofBytes, List.foldl_cons, List.foldl_cons, ih, ih (0 * 256 + y.toNat), List.length_cons]
      ring
  rw [ofBytes, List.foldl_cons, shift]
  ring

theorem ofBytes_beBytes (n v : Nat) : ofBytes (beBytes n v) = v % 256 ^ n := by
  induction n with
  | zero => simp [beBytes, ofBytes, Nat.mod_one]
  | succ n ih =>
    rw [beBytes, ofBytes_cons, beBytes_length, ih, BitVec.toNat_ofNat, pow_succ 256 n,
      Nat.mod_mul (a := 256 ^ n)]
    ring

theorem ofBytes_lt (l : List Byte) : ofBytes l < 256 ^ l.length := by
  induction l with
  | nil => simp [ofBytes]
  | cons x l ih =>
    rw [ofBytes_cons, List.length_cons, pow_succ]
    have hx := x.isLt
    nlinarith

theorem beBytes_mod (n v : Nat) : beBytes n (v % 256 ^ n) = beBytes n v := by
  induction n generalizing v with
  | zero => rfl
  | succ n ih =>
    have hrest : beBytes n (v % 256 ^ (n + 1)) = beBytes n v := by
      rw [← ih (v % 256 ^ (n + 1)), Nat.mod_mod_of_dvd _ (pow_dvd_pow 256 n.le_succ), ih]
    rw [beBytes, beBytes, hrest, pow_succ, Nat.mod_mul_right_div_self]
    congr 1
    exact BitVec.eq_of_toNat_eq (by simp)

theorem beBytes_ofBytes (l : List Byte) : beBytes l.length (ofBytes l) = l := by
  induction l with
  | nil => rfl
  | cons x l ih =>
    have hl := ofBytes_lt l
    have hdiv : (x.toNat * 256 ^ l.length + ofBytes l) / 256 ^ l.length = x.toNat := by
      rw [Nat.add_comm, Nat.add_mul_div_right _ _ (by positivity), Nat.div_eq_of_lt hl, Nat.zero_add]
    have hmod : (x.toNat * 256 ^ l.length + ofBytes l) % 256 ^ l.length = ofBytes l := by
      rw [Nat.add_comm, Nat.add_mul_mod_self_right, Nat.mod_eq_of_lt hl]
    rw [List.length_cons, beBytes, ofBytes_cons, hdiv, ← beBytes_mod, hmod, ih]
    simp

/-! ## Reading a field behind the fields before it -/

theorem byteAt_zero (x : Byte) (l : List Byte) : byteAt (x :: l) 0 = x := rfl

theorem byteAt_cons (x : Byte) (l : List Byte) {off : Nat} (h : 0 < off) : byteAt (x :: l) off = byteAt l (off - 1) := by
  obtain ⟨off, rfl⟩ := Nat.exists_eq_succ_of_ne_zero h.ne'
  rfl

theorem byteAt_append (l r : List Byte) {off : Nat} (h : l.length ≤ off) : byteAt (l ++ r) off = byteAt r (off - l.length) :=
  List.getD_append_right l r 0 off h

theorem byteAt_append_left (l r : List Byte) {off : Nat} (h : off < l.length) : byteAt (l ++ r) off = byteAt l off :=
  List.getD_append l r 0 off h

theorem numAt_cons (x : Byte) (l : List Byte) {off : Nat} (len : Nat) (h : 0 < off) :
    numAt (x :: l) off len = numAt l (off - 1) len := by
  obtain ⟨off, rfl⟩ := Nat.exists_eq_succ_of_ne_zero h.ne'
  rfl

theorem numAt_byte (x : Byte) (l : List Byte) : numAt (x :: l) 0 1 = x.toNat := by simp [numAt, slice, ofBytes]

theorem numAt_append (l r : List Byte) {off : Nat} (len : Nat) (h : l.length ≤ off) :
    numAt (l ++ r) off len = numAt r (off - l.length) len := by
  rw [numAt, slice, List.drop_append, List.drop_eq_nil_of_le h, List.nil_append]
  rfl

theorem numAt_append_left (l r : List Byte) {off len : Nat} (h : off + len ≤ l.length) :
    numAt (l ++ r) off len = numAt l off len := by
  rw [numAt, slice, List.drop_append_of_le_length (by omega), List.take_append_of_le_length (by simp; omega)]
  rfl

theorem numAt_whole (l : List Byte) {n : Nat} (h : l.length = n) : numAt l 0 n = ofBytes l := by
  rw [numAt, slice, List.drop_zero, List.take_of_length_le h.le]

theorem numAt_beBytes (n v : Nat) : numAt (beBytes n v) 0 n = v % 256 ^ n := by
  rw [numAt_whole _ (beBytes_length n v), ofBytes_beBytes]

theorem numAt_beBytes_append (n v : Nat) (r : List Byte) : numAt (beBytes n v ++ r) 0 n = v % 256 ^ n := by
  rw [numAt_append_left _ _ (by simp), numAt_beBytes]

theorem fieldAt_cons {w : Nat} (x : Byte) (l : List Byte) {off : Nat} (len : Nat) (h : 0 < off) :
    fieldAt w (x :: l) off len = fieldAt w l (off - 1) len := by rw [fieldAt, numAt_cons x l len h, fieldAt]

theorem fieldAt_append {w : Nat} (l r : List Byte) {off : Nat} (len : Nat) (h : l.length ≤ off) :
    fieldAt w (l ++ r) off len = fieldAt w r (off - l.length) len := by rw [fieldAt, numAt_append l r len h, fieldAt]

theorem fieldAt_append_left {w : Nat} (l r : List Byte) {off len : Nat} (h : off + len ≤ l.length) :
    fieldAt w (l ++ r) off len = fieldAt w l off len := by rw [fieldAt, numAt_append_left l r h, fieldAt]

theorem fieldAt_beBytes {w n : Nat} (v : BitVec w) (h : 2 ^ w ≤ 256 ^ n) : fieldAt w (beBytes n v.toNat) 0 n = v := by
  rw [fieldAt, numAt_beBytes, Nat.mod_eq_of_lt (v.isLt.trans_le h), BitVec.ofNat_toNat, BitVec.setWidth_eq]

theorem fieldAt_beBytes_append {w n : Nat} (v : BitVec w) (r : List Byte) (h : 2 ^ w ≤ 256 ^ n) :
    fieldAt w (beBytes n v.toNat ++ r) 0 n = v := by
  rw [fieldAt_append_left _ _ (by simp), fieldAt_beBytes v h]

theorem numAt_field_append {w n : Nat} (v : BitVec w) (r : List Byte) (h : 2 ^ w ≤ 256 ^ n) :
    numAt (beBytes n v.toNat ++ r) 0 n = v.toNat := by
  rw [numAt_beBytes_append, Nat.mod_eq_of_lt (v.isLt.trans_le h)]

/-! ## A floor message and its frame (R166, R183, R185) -/

/-- The header up to its check field. -/
def headerStart (cls : Byte) (kind dst src len tag : BitVec 16) : List Byte :=
  [0x01, cls] ++ beBytes 2 kind.toNat ++ beBytes 2 dst.toNat ++ beBytes 2 src.toNat ++ beBytes 2 len.toNat
    ++ beBytes 2 tag.toNat

theorem headerBytes_eq (cls : Byte) (kind dst src len tag : BitVec 16) (check : BitVec 32) :
    headerBytes cls kind dst src len tag check = headerStart cls kind dst src len tag ++ beBytes 4 check.toNat := rfl

theorem headerStart_length (cls : Byte) (kind dst src len tag : BitVec 16) :
    (headerStart cls kind dst src len tag).length = 12 := by simp [headerStart]

/-- A message is its header up to the check, the check over both with the field zero, and its body. -/
theorem messageBytes_eq (cls : Byte) (kind dst src tag : BitVec 16) (body : List Byte) :
    messageBytes cls kind dst src tag body =
      headerStart cls kind dst src (BitVec.ofNat 16 body.length) tag
        ++ (beBytes 4 (crc32 (headerStart cls kind dst src (BitVec.ofNat 16 body.length) tag ++ [0, 0, 0, 0] ++ body)).toNat
          ++ body) := by
  rw [messageBytes, headerBytes_eq, headerBytes_eq, List.append_assoc]
  rfl

theorem messageBytes_length (cls : Byte) (kind dst src tag : BitVec 16) (body : List Byte) :
    (messageBytes cls kind dst src tag body).length = 16 + body.length := by
  simp [messageBytes_eq, headerStart_length]
  omega

/-- What the header says of a message, whatever follows it. -/
theorem header_fields (cls : Byte) (kind dst src tag : BitVec 16) (body pad : List Byte) (hb : body.length < 65536) :
    let m := messageBytes cls kind dst src tag body ++ pad
    numAt m 0 1 = 1 ∧ numAt m 1 1 = cls.toNat ∧ numAt m 2 2 = kind.toNat ∧ fieldAt 16 m 2 2 = kind
      ∧ fieldAt 16 m 4 2 = dst ∧ fieldAt 16 m 6 2 = src ∧ numAt m 8 2 = body.length ∧ fieldAt 16 m 10 2 = tag := by
  have hlen : body.length % 65536 = body.length := Nat.mod_eq_of_lt hb
  have hkind : kind.toNat % 65536 = kind.toNat := Nat.mod_eq_of_lt kind.isLt
  refine ⟨?_, ?_, ?_, ?_, ?_, ?_, ?_, ?_⟩ <;>
    simp [messageBytes_eq, headerStart, numAt_cons, numAt_append, numAt_byte, numAt_beBytes_append, fieldAt_cons,
      fieldAt_append, fieldAt_beBytes_append, hlen, hkind]

theorem drop_messageBytes (cls : Byte) (kind dst src tag : BitVec 16) (body pad : List Byte) :
    (messageBytes cls kind dst src tag body ++ pad).drop 16 = body ++ pad := by
  rw [messageBytes_eq, List.append_assoc, List.append_assoc, ← List.append_assoc]
  exact List.drop_left' (by simp [headerStart_length])

theorem messageCheckOk_messageBytes (cls : Byte) (kind dst src tag : BitVec 16) (body pad : List Byte)
    (hb : body.length < 65536) : messageCheckOk (messageBytes cls kind dst src tag body ++ pad) = true := by
  obtain ⟨-, -, -, -, -, -, hlen, -⟩ := header_fields cls kind dst src tag body pad hb
  have hstart : (messageBytes cls kind dst src tag body ++ pad).take 12
      = headerStart cls kind dst src (BitVec.ofNat 16 body.length) tag := by
    rw [messageBytes_eq, List.append_assoc]
    exact List.take_left' (headerStart_length ..)
  have hcheck : fieldAt 32 (messageBytes cls kind dst src tag body ++ pad) 12 4
      = crc32 (headerStart cls kind dst src (BitVec.ofNat 16 body.length) tag ++ [0, 0, 0, 0] ++ body) := by
    rw [messageBytes_eq, List.append_assoc, fieldAt_append _ _ _ (headerStart_length ..).le, headerStart_length,
      List.append_assoc]
    exact fieldAt_beBytes_append _ _ (by decide)
  rw [messageCheckOk, namedLength, hlen, slice, drop_messageBytes, List.take_left, hstart, hcheck]
  have hlong : 16 + body.length ≤ (messageBytes cls kind dst src tag body ++ pad).length := by
    simp [messageBytes_length]
  rw [decide_eq_true hlong, decide_eq_true ((Nat.le_add_right 16 body.length).trans hlong), beq_self_eq_true]
  rfl

/-- A frame up to its check sequence. -/
def frameStart (ethDst ethSrc : BitVec 48) (rest : List Byte) : List Byte :=
  beBytes 6 ethDst.toNat ++ beBytes 6 ethSrc.toNat ++ beBytes 2 floorEtherType.toNat ++ rest

theorem ethernetFrame_eq (ethDst ethSrc : BitVec 48) (m pad : List Byte) :
    ethernetFrame ethDst ethSrc m pad =
      frameStart ethDst ethSrc (m ++ pad) ++ beBytes 4 (crc32 (frameStart ethDst ethSrc (m ++ pad))).toNat := by
  simp [ethernetFrame, frameStart]

theorem frameStart_length (ethDst ethSrc : BitVec 48) (rest : List Byte) :
    (frameStart ethDst ethSrc rest).length = 14 + rest.length := by
  simp [frameStart]
  omega

theorem ethernetFrame_length (ethDst ethSrc : BitVec 48) (m pad : List Byte) :
    (ethernetFrame ethDst ethSrc m pad).length = 18 + m.length + pad.length := by
  simp [ethernetFrame_eq, frameStart_length]
  omega

theorem ethernetFrame_check (ethDst ethSrc : BitVec 48) (m pad : List Byte) :
    let b := ethernetFrame ethDst ethSrc m pad
    crc32 (b.take (b.length - 4)) = fieldAt 32 b (b.length - 4) 4 := by
  intro b
  have hlen : b.length - 4 = (frameStart ethDst ethSrc (m ++ pad)).length := by
    simp only [b, ethernetFrame_length, frameStart_length, List.length_append]
    omega
  rw [hlen]
  simp only [b, ethernetFrame_eq]
  rw [List.take_left, fieldAt_append _ _ _ le_rfl, Nat.sub_self, fieldAt_beBytes _ (by decide)]

theorem payload_ethernetFrame (ethDst ethSrc : BitVec 48) (m pad : List Byte) :
    payload (ethernetFrame ethDst ethSrc m pad) = m ++ pad := by
  rw [payload, ethernetFrame_length, ethernetFrame_eq, frameStart, List.append_assoc, List.drop_left' (by simp)]
  exact List.take_left' (by simp; omega)

theorem ethernetFrame_addresses (ethDst ethSrc : BitVec 48) (m pad : List Byte) :
    let b := ethernetFrame ethDst ethSrc m pad
    fieldAt 48 b 0 6 = ethDst ∧ fieldAt 48 b 6 6 = ethSrc ∧ fieldAt 16 b 12 2 = floorEtherType := by
  refine ⟨?_, ?_, ?_⟩ <;>
    simp [ethernetFrame_eq, frameStart, fieldAt_append, fieldAt_beBytes_append]

/-! ## O6 -/

theorem classify_bad {b : List Byte} (h : frameCheckOk b = false) (port : Port) (part : Station) :
    classify port part b = .discard := by simp [classify, h]

theorem frameCheckOk_iff (b : List Byte) :
    frameCheckOk b = true ↔
      64 ≤ b.length ∧ b.length ≤ 9018 ∧ crc32 (b.take (b.length - 4)) = fieldAt 32 b (b.length - 4) 4 := by
  simp [frameCheckOk, frameLengthOk, and_assoc]

theorem classify_otherType {b : List Byte} (h : frameCheckOk b = true) (ht : fieldAt 16 b 12 2 ≠ 0x88B5) (port : Port)
    (part : Station) : classify port part b = .forward := by
  rw [classify.eq_def, h, if_neg (by simp), if_pos (by exact ht)]

theorem classify_badMessage {b : List Byte} (h : frameCheckOk b = true) (ht : fieldAt 16 b 12 2 = 0x88B5)
    (hm : messageCheckOk (payload b) = false) (port : Port) (part : Station) : classify port part b = .discard := by
  rw [classify.eq_def, h, if_neg (by simp), if_neg (by exact not_not.2 ht), hm, if_pos Bool.not_false]

/-- A floor message that passes its checks on Port C is judged by its destination and kind (R167). -/
theorem classify_cellSide {b : List Byte} (h : frameCheckOk b = true) (ht : fieldAt 16 b 12 2 = 0x88B5)
    (hm : messageCheckOk (payload b) = true) (part : Station) :
    classify .c part b = classifyCellSide part b (payload b) := by
  rw [classify.eq_def, h, if_neg (by simp), if_neg (by exact not_not.2 ht), hm, if_neg (by simp)]

/-- A floor message that passes its checks on Port F is judged by its destination (R168). -/
theorem classify_floorSide {b : List Byte} (h : frameCheckOk b = true) (ht : fieldAt 16 b 12 2 = 0x88B5)
    (hm : messageCheckOk (payload b) = true) (part : Station) :
    classify .f part b = classifyFloorSide part (payload b) := by
  rw [classify.eq_def, h, if_neg (by simp), if_neg (by exact not_not.2 ht), hm, if_neg (by simp)]

/-- A message on Port C that is no report goes by its destination alone (R167). -/
theorem classifyCellSide_of_notReport {m : List Byte} (part : Station) (b : List Byte)
    (h : numAt m 0 1 ≠ 1 ∨ numAt m 1 1 ≠ 1 ∨ numAt m 2 2 < 0x0101 ∨ 0x0108 < numAt m 2 2) :
    classifyCellSide part b m = if fieldAt 16 m 4 2 = part then .discard else .forward := by
  have hno : (isOfClass 1 m && (0x0101 ≤ numAt m 2 2 && numAt m 2 2 ≤ 0x0108)) = false := by
    rw [Bool.eq_false_iff]
    simp only [isOfClass, ne_eq, Bool.and_eq_true, beq_iff_eq, decide_eq_true_eq]
    omega
  simp only [classifyCellSide, hno]
  rfl

theorem classifyFloorSide_elsewhere {m : List Byte} {part : Station} (h : fieldAt 16 m 4 2 ≠ part) :
    classifyFloorSide part m = .forward := if_neg h

theorem classifyFloorSide_otherClass {m : List Byte} {part : Station} (h : fieldAt 16 m 4 2 = part)
    (hc : numAt m 0 1 ≠ 1 ∨ numAt m 1 1 ≠ 3) : classifyFloorSide part m = .discard := by
  have hno : isOfClass 3 m = false := by
    rw [Bool.eq_false_iff]
    simp only [isOfClass, ne_eq, Bool.and_eq_true, beq_iff_eq]
    omega
  rw [classifyFloorSide, if_pos h, hno]
  rfl

theorem exec_frameArrival (port : Port) (b : List Byte) (s : State) :
    exec (.frameArrival port b) s = .next (takeFrame port b s) := rfl

theorem exec_of_discard {port : Port} {b : List Byte} {s : State} (h : classify port s.profile.partStation b = .discard) :
    exec (.frameArrival port b) s = .next s := by rw [exec_frameArrival, takeFrame, h]

theorem exec_of_forward {port : Port} {b : List Byte} {s : State} (h : classify port s.profile.partStation b = .forward) :
    exec (.frameArrival port b) s = .next (forwardFrom port b s) := by rw [exec_frameArrival, takeFrame, h]

theorem byte1_eq (n : Nat) : byte1 n = [BitVec.ofNat 8 n] := by simp [byte1, beBytes]

/-- An own frame passes the checks of R166 and R185, and says what it was made of (R184, R186). -/
theorem ownFrame_says (port : Port) (cls : Byte) (kind dst src tag : BitVec 16) (body : List Byte)
    (hb : body.length ≤ 4096) :
    let b := ownFrame port cls kind dst src tag body
    let m := payload b
    b.length = max 64 (34 + body.length)
    ∧ crc32 (b.take (b.length - 4)) = fieldAt 32 b (b.length - 4) 4
    ∧ numAt b 0 6 = 0xFFFFFFFFFFFF ∧ fieldAt 48 b 6 6 = Config.portAddress port ∧ numAt b 12 2 = 0x88B5
    ∧ messageCheckOk m = true
    ∧ numAt m 0 1 = 1 ∧ numAt m 1 1 = cls.toNat ∧ fieldAt 16 m 2 2 = kind ∧ fieldAt 16 m 4 2 = dst
    ∧ fieldAt 16 m 6 2 = src ∧ numAt m 8 2 = body.length ∧ fieldAt 16 m 10 2 = tag
    ∧ m.drop 16 = body ++ List.replicate (30 - body.length) 0 := by
  intro b m
  have hsmall : body.length < 65536 := by omega
  have hpad : minPad (messageBytes cls kind dst src tag body) = List.replicate (30 - body.length) 0 := by
    rw [minPad, messageBytes_length, show 46 - (16 + body.length) = 30 - body.length by omega]
  have hm : m = messageBytes cls kind dst src tag body ++ List.replicate (30 - body.length) 0 := by
    simp only [m, b, ownFrame, payload_ethernetFrame, hpad]
  obtain ⟨hver, hcls, -, hkind, hdst, hsrc, hlen, htag⟩ :=
    header_fields cls kind dst src tag body (List.replicate (30 - body.length) 0) hsmall
  obtain ⟨-, haddress, -⟩ := ethernetFrame_addresses 0xFFFFFFFFFFFF (Config.portAddress port)
    (messageBytes cls kind dst src tag body) (minPad (messageBytes cls kind dst src tag body))
  refine ⟨?_, ethernetFrame_check .., ?_, haddress, ?_, ?_⟩
  · simp only [b, ownFrame, ethernetFrame_length, messageBytes_length, hpad, List.length_replicate]
    omega
  · simp [b, ownFrame, ethernetFrame_eq, frameStart, numAt_beBytes_append]
  · simp [b, ownFrame, ethernetFrame_eq, frameStart, numAt_append, numAt_beBytes_append, floorEtherType]
  · rw [hm]
    exact ⟨messageCheckOk_messageBytes cls kind dst src tag body _ hsmall, hver, hcls, hkind, hdst, hsrc, hlen, htag,
      drop_messageBytes ..⟩

/-- A notice's body is made of its floor time, its gap marker and its fields (R186). -/
theorem noticeBody_eq {body fields : List Byte} {t : FloorTime} {gap : Bool} (ht : numAt body 0 6 = t.toNat)
    (hg : numAt body 6 1 = if gap then 1 else 0) (hf : body.drop 7 = fields) (hlen : 7 ≤ body.length) :
    body = beBytes 6 t.toNat ++ flagByte gap ++ fields := by
  have htime : slice body 0 6 = beBytes 6 t.toNat := by
    have hl : (slice body 0 6).length = 6 := by simp [slice]; omega
    have htime := beBytes_ofBytes (slice body 0 6)
    rwa [hl, show ofBytes (slice body 0 6) = _ from ht, eq_comm] at htime
  have hgap : slice body 6 1 = flagByte gap := by
    have hl : (slice body 6 1).length = 1 := by simp [slice]; omega
    have hgap := beBytes_ofBytes (slice body 6 1)
    rw [hl, show ofBytes (slice body 6 1) = _ from hg] at hgap
    rw [← hgap]
    cases gap <;> rfl
  have hsplit : body = slice body 0 6 ++ (slice body 6 1 ++ body.drop 7) := by
    rw [slice, slice, List.drop_zero, show body.drop 7 = (body.drop 6).drop 1 by rw [List.drop_drop],
      List.take_append_drop, List.take_append_drop]
  rw [hsplit, htime, hgap, hf, List.append_assoc]

/-- Settles O6. -/
theorem framesGoByTheirChecks : Obligations.FramesGoByTheirChecks := by
  refine ⟨fun port b s => ?_, fun port f cls kind dst src tag body hf hb => ?_⟩
  · intro good m
    have hgood : frameCheckOk b = true ↔ good := frameCheckOk_iff b
    refine ⟨fun h => ?_, fun h ht => ?_, fun h ht hm => ?_, fun h ht hm => ⟨fun hd => ⟨?_, fun hk => ?_⟩,
      fun hd => ⟨fun hk => ?_, fun hk => ?_⟩⟩⟩
    · exact exec_of_discard (classify_bad (Bool.eq_false_iff.2 (mt hgood.1 h)) ..)
    · exact exec_of_forward (classify_otherType (hgood.2 h) ht ..)
    · exact exec_of_discard (classify_badMessage (hgood.2 h) ht hm ..)
    · exact exec_of_forward ((classify_floorSide (hgood.2 h) ht hm _).trans (classifyFloorSide_elsewhere hd))
    · exact exec_of_forward ((classify_cellSide (hgood.2 h) ht hm _).trans
        ((classifyCellSide_of_notReport _ b hk).trans (if_neg hd)))
    · exact exec_of_discard ((classify_floorSide (hgood.2 h) ht hm _).trans (classifyFloorSide_otherClass hd hk))
    · exact exec_of_discard ((classify_cellSide (hgood.2 h) ht hm _).trans
        ((classifyCellSide_of_notReport _ b hk).trans (if_pos hd)))
  · cases f with
    | order o =>
      obtain ⟨rfl, rfl, rfl, rfl, rfl, rfl⟩ := hf
      exact ownFrame_says port 2 _ _ _ _ _ hb
    | notice n gap =>
      obtain ⟨rfl, rfl, rfl, rfl, rfl, ht, hg, hfields, hlen⟩ := hf
      have hbody := noticeBody_eq ht hg hfields hlen
      subst hbody
      exact ownFrame_says port 5 _ _ _ _ _ hb
    | response r =>
      obtain ⟨rfl, rfl, rfl, rfl, rfl, rfl⟩ := hf
      rw [TxFrame.bytes, byte1_eq]
      exact ownFrame_says port 4 _ _ _ _ _ hb
    | forwarded b => exact hf.elim

/-! ## O7 -/

theorem siteEntryOf_byte (e : SiteEntry) : siteEntryOf e.byte = e := by
  obtain ⟨site, bin⟩ := e
  have hs := site.isLt
  have hb := bin.isLt
  have happ : (site ++ bin).toNat = site.toNat * 16 + bin.toNat := by
    rw [BitVec.toNat_append, ← Nat.shiftLeft_add_eq_or_of_lt hb, Nat.shiftLeft_eq]
  simp only [siteEntryOf, SiteEntry.byte, SiteEntry.mk.injEq]
  constructor <;> apply BitVec.eq_of_toNat_eq <;>
    simp [BitVec.extractLsb'_toNat, happ, Nat.shiftRight_eq_div_pow] <;> omega

/-- Field `i` of a list whose every entry takes `n` bytes. -/
theorem numAt_flatMap {α : Type} (f : α → List Byte) (n : Nat) (hf : ∀ a, (f a).length = n) (l : List α) (rest : List Byte)
    (i : Nat) (hi : i < l.length) : numAt (l.flatMap f ++ rest) (n * i) n = ofBytes (f l[i]) := by
  induction l generalizing i with
  | nil => simp at hi
  | cons a l ih =>
    rw [List.flatMap_cons, List.append_assoc]
    cases i with
    | zero => rw [Nat.mul_zero, numAt_append_left _ _ (by simp [hf]), numAt_whole _ (hf a), List.getElem_cons_zero]
    | succ i =>
      rw [numAt_append _ _ _ (by rw [hf]; exact Nat.le_mul_of_pos_right n i.succ_pos), hf, Nat.mul_succ,
        Nat.add_sub_cancel, ih i (by simpa using hi), List.getElem_cons_succ]

/-- Entry `i` of a vector written entry by entry, each in `n` bytes. -/
theorem numAt_vector {w m : Nat} (n : Nat) (v : Vector (BitVec w) m) (rest : List Byte) {i : Nat} (hi : i < m)
    (h : 2 ^ w ≤ 256 ^ n) :
    numAt (v.toList.flatMap (fun x => beBytes n x.toNat) ++ rest) (n * i) n = v[i].toNat := by
  rw [numAt_flatMap _ n (fun _ => beBytes_length n _) _ _ _ (by simpa using hi), ofBytes_beBytes,
    Nat.mod_eq_of_lt ((BitVec.isLt _).trans_le h), Vector.getElem_toList]

theorem fieldAt_vector {w m : Nat} (n : Nat) (v : Vector (BitVec w) m) (rest : List Byte) {i : Nat} (hi : i < m)
    (h : 2 ^ w ≤ 256 ^ n) :
    fieldAt w (v.toList.flatMap (fun x => beBytes n x.toNat) ++ rest) (n * i) n = v[i] := by
  rw [fieldAt, numAt_vector n v rest hi h, BitVec.ofNat_toNat, BitVec.setWidth_eq]

/-- The body of a report that a frame can bring is read back field by field (R184, R185). -/
theorem parseReport_reportParts {i : Instr} {e : Envelope} {body : List Byte} {k : BitVec 16} (hw : i.wf = true)
    (hp : i.reportParts = some (e, body)) (hk : i.kindCode = some k) :
    parseReport e k.toNat body = some i ∧ 0x0101 ≤ k.toNat ∧ k.toNat ≤ 0x0108
      ∧ frameLengthOk (34 + body.length + e.pad.length) = true := by
  cases i
  case state e code =>
    cases hp; cases hk
    exact ⟨by simp [parseReport, byteAt_zero], by decide, by decide, hw⟩
  case setupDone e kit temp =>
    cases hp; cases hk
    refine ⟨?_, by decide, by decide, by simpa [Instr.wf, Envelope.wf, Envelope.frameLength] using hw⟩
    simp [parseReport, byteAt_zero, fieldAt_cons, fieldAt_beBytes]
  case loadDone e id rev sum =>
    cases hp; cases hk
    refine ⟨?_, by decide, by decide, by simpa [Instr.wf, Envelope.wf, Envelope.frameLength] using hw⟩
    simp [parseReport, byteAt_zero, byteAt_append, fieldAt_cons, fieldAt_append, fieldAt_beBytes, fieldAt_beBytes_append]
  case loadFail e id rev =>
    cases hp; cases hk
    refine ⟨?_, by decide, by decide, by simpa [Instr.wf, Envelope.wf, Envelope.frameLength] using hw⟩
    simp [parseReport, byteAt_zero, byteAt_append, fieldAt_beBytes_append]
  case goldenDone e mask =>
    cases hp; cases hk
    refine ⟨?_, by decide, by decide, by simpa [Instr.wf, Envelope.wf, Envelope.frameLength] using hw⟩
    simp [parseReport, fieldAt_beBytes]
  case touchdown e q es =>
    cases hp; cases hk
    simp only [Instr.wf, Bool.and_eq_true, decide_eq_true_eq] at hw
    obtain ⟨⟨hne, hle⟩, hframe⟩ := hw
    refine ⟨?_, by decide, by decide, by simpa [Envelope.wf, Envelope.frameLength, Nat.add_assoc, Nat.add_comm] using hframe⟩
    have hcount : es.length % 256 = es.length := Nat.mod_eq_of_lt (by omega)
    simp [parseReport, byteAt_zero, byteAt_append, fieldAt_beBytes_append, hcount, hne, hle, List.drop_append,
      List.map_map, Function.comp_def, siteEntryOf_byte]
    omega
  case passEnd e pass fed last =>
    cases hp; cases hk
    simp only [Instr.wf, quantityOk, Bool.and_eq_true, decide_eq_true_eq] at hw
    obtain ⟨hfed, hframe⟩ := hw
    refine ⟨?_, by decide, by decide, by simpa [Envelope.wf, Envelope.frameLength] using hframe⟩
    simp [parseReport, byteAt_zero, numAt_cons, numAt_field_append, fieldAt_cons, fieldAt_append, fieldAt_beBytes,
      fieldAt_beBytes_append, hfed]
  case runCounts e fed trays =>
    cases hp; cases hk
    simp only [Instr.wf, quantityOk, Bool.and_eq_true, decide_eq_true_eq, List.all_eq_true] at hw
    obtain ⟨⟨hfed, htrays⟩, hframe⟩ := hw
    refine ⟨?_, by decide, by decide, by
      simpa [Envelope.wf, Envelope.frameLength, flatMap_length _ 3] using hframe⟩
    have hnum (t : Nat) (ht : t < 8) : numAt (beBytes 3 fed.toNat ++ trays.toList.flatMap fun x => beBytes 3 x.toNat)
        (3 + 3 * t) 3 = trays[t].toNat := by
      rw [numAt_append _ _ _ (by simp), beBytes_length, Nat.add_sub_cancel_left, ← List.append_nil (List.flatMap _ _),
        numAt_vector 3 trays [] ht (by decide)]
    have hall : (List.range 8).all (fun t => decide (numAt (beBytes 3 fed.toNat ++ trays.toList.flatMap fun x =>
        beBytes 3 x.toNat) (3 + 3 * t) 3 ≤ 999999)) = true := by
      rw [List.all_eq_true]
      intro t ht
      have ht := List.mem_range.1 ht
      rw [hnum t ht, decide_eq_true_iff]
      exact htrays _ (by simp)
    have hread : (Vector.ofFn fun t : Fin 8 => fieldAt 24 (beBytes 3 fed.toNat ++ trays.toList.flatMap fun x =>
        beBytes 3 x.toNat) (3 + 3 * t.val) 3) = trays := by
      ext t ht
      simp [fieldAt, hnum t ht]
    have hlength : (beBytes 3 fed.toNat ++ trays.toList.flatMap fun x => beBytes 3 x.toNat).length = 27 := by
      simp [flatMap_length _ 3]
    have hfirst := numAt_field_append (n := 3) fed (trays.toList.flatMap fun x => beBytes 3 x.toNat) (by decide)
    show parseReport e 0x0108 _ = _
    rw [parseReport, if_pos ⟨hlength, hfirst.trans_le hfed, hall⟩, hread, fieldAt_beBytes_append fed _ (by decide)]
  all_goals exact nomatch hp

/-- A report has the effect that its frame's message has. -/
theorem exec_eq_takeMessage {i : Instr} (h : i.reportParts.isSome ∨ i.requestParts.isSome) (s : State) :
    exec i s = .next (takeMessage i s) := by
  cases i <;> first | rfl | (rcases h with h | h <;> exact nomatch h)

/-- A frame about a message and its padding passes the frame check when its length does (R166). -/
theorem frameCheckOk_ethernetFrame {ethDst ethSrc : BitVec 48} {m pad : List Byte}
    (h : frameLengthOk (18 + m.length + pad.length) = true) : frameCheckOk (ethernetFrame ethDst ethSrc m pad) = true := by
  rw [frameCheckOk, ethernetFrame_check, beq_self_eq_true, Bool.and_true, ethernetFrame_length, h]

theorem slice_body (cls : Byte) (kind dst src tag : BitVec 16) (body pad : List Byte) :
    slice (messageBytes cls kind dst src tag body ++ pad) 16 body.length = body := by
  rw [slice, drop_messageBytes, List.take_left]

/-- A message of the report class whose body is well formed is that report, whatever its destination (R167). -/
theorem classifyCellSide_report {part : Station} {b m body : List Byte} {e : Envelope} {k : Nat} {i : Instr}
    (hver : numAt m 0 1 = 1) (hcls : numAt m 1 1 = 1) (hkind : numAt m 2 2 = k) (hlow : 0x0101 ≤ k) (hhigh : k ≤ 0x0108)
    (he : e =
      { ethDst := fieldAt 48 b 0 6, ethSrc := fieldAt 48 b 6 6, dst := fieldAt 16 m 4 2, src := fieldAt 16 m 6 2,
        tag := fieldAt 16 m 10 2, pad := m.drop (16 + namedLength m) })
    (hbody : slice m 16 (namedLength m) = body) (hparse : parseReport e k body = some i) :
    classifyCellSide part b m = .report i := by
  have hclass : (isOfClass 1 m && (0x0101 ≤ numAt m 2 2 && numAt m 2 2 ≤ 0x0108)) = true := by
    rw [isOfClass, hver, hcls, hkind, decide_eq_true hlow, decide_eq_true hhigh]
    rfl
  simp only [classifyCellSide, hclass, if_true]
  rw [← he, hkind, hbody, hparse]

/-- Settles O7. -/
theorem reportFramesCarryTheirReports : Obligations.ReportFramesCarryTheirReports := by
  intro i b s hw hb
  obtain ⟨⟨e, body⟩, hp⟩ : ∃ p, i.reportParts = some p := Option.ne_none_iff_exists'.1 fun hp => by
    simp [Instr.reportFrame, hp] at hb
  obtain ⟨k, hk⟩ : ∃ k, i.kindCode = some k := Option.ne_none_iff_exists'.1 fun hk => by
    simp [Instr.reportFrame, hp, hk] at hb
  obtain rfl : ethernetFrame e.ethDst e.ethSrc (messageBytes 0x01 k e.dst e.src e.tag body) e.pad = b := by
    simpa only [Instr.reportFrame, hp, hk, Option.some.injEq] using hb
  obtain ⟨hparse, hlow, hhigh, hframe⟩ := parseReport_reportParts hw hp hk
  have hsmall : body.length < 65536 := by
    simp only [frameLengthOk, Bool.and_eq_true, decide_eq_true_eq] at hframe
    omega
  obtain ⟨hver, hcls, hkind, -, hdst, hsrc, hlen, htag⟩ :=
    header_fields 0x01 k e.dst e.src e.tag body e.pad hsmall
  obtain ⟨hto, hfrom, htype⟩ := ethernetFrame_addresses e.ethDst e.ethSrc
    (messageBytes 0x01 k e.dst e.src e.tag body) e.pad
  have hgood : frameCheckOk (ethernetFrame e.ethDst e.ethSrc (messageBytes 0x01 k e.dst e.src e.tag body) e.pad)
      = true := frameCheckOk_ethernetFrame (by
    rwa [messageBytes_length, show 18 + (16 + body.length) = 34 + body.length by omega])
  have hmessage := payload_ethernetFrame e.ethDst e.ethSrc (messageBytes 0x01 k e.dst e.src e.tag body) e.pad
  have hclass : classify .c s.profile.partStation
      (ethernetFrame e.ethDst e.ethSrc (messageBytes 0x01 k e.dst e.src e.tag body) e.pad) = .report i := by
    rw [classify_cellSide hgood htype (by rw [hmessage]; exact messageCheckOk_messageBytes _ _ _ _ _ _ _ hsmall), hmessage]
    refine classifyCellSide_report hver hcls hkind hlow hhigh ?_ ?_ hparse
    · rw [namedLength, hlen, ← List.drop_drop, drop_messageBytes, List.drop_left, hto, hfrom, hdst, hsrc, htag]
    · rw [namedLength, hlen, slice_body]
  rw [exec_frameArrival, takeFrame, hclass, exec_eq_takeMessage (.inl (by simp [hp]))]

/-! ## O8 -/

theorem profileArgsOf_bytes (a : ProfileArgs) : profileArgsOf a.bytes = a := by
  cases a
  simp [profileArgsOf, ProfileArgs.bytes, byteAt_zero, byteAt_cons, byteAt_append, fieldAt_cons, fieldAt_append,
    fieldAt_beBytes_append]

theorem byteAt_append_add (l r : List Byte) {n : Nat} (i : Nat) (h : l.length ≤ n) :
    byteAt (l ++ r) (n + i) = byteAt r (n - l.length + i) := by
  rw [byteAt_append l r (by omega), Nat.sub_add_comm h]

theorem byteAt_cons_add (x : Byte) (l : List Byte) {n : Nat} (i : Nat) (h : 0 < n) :
    byteAt (x :: l) (n + i) = byteAt l (n - 1 + i) := byteAt_append_add [x] l i h

theorem byteAt_toList_append {n : Nat} (v : Vector Byte n) (rest : List Byte) {i : Nat} (h : i < n) :
    byteAt (v.toList ++ rest) i = v[i] := by
  rw [byteAt_append_left _ _ (by simpa using h), byteAt, ← List.getElem_eq_getD (h := by simpa using h),
    Vector.getElem_toList]

theorem fieldAt_append_add {w : Nat} (l r : List Byte) {n : Nat} (i len : Nat) (h : l.length ≤ n) :
    fieldAt w (l ++ r) (n + i) len = fieldAt w r (n - l.length + i) len := by
  rw [fieldAt_append l r len (by omega), Nat.sub_add_comm h]

theorem limitArgsOf_bytes (a : LimitArgs) : limitArgsOf a.bytes = a := by
  have hlen : (a.fmax.toList.flatMap fun x => beBytes 2 x.toNat).length = 30 := by simp [flatMap_length _ 2]
  have hfmax : (Vector.ofFn fun i : Fin 15 => fieldAt 16 a.bytes (4 + 2 * i.val) 2) = a.fmax := by
    ext1 i hi
    simp [LimitArgs.bytes, fieldAt_append_add, fieldAt_vector 2 a.fmax _ hi]
  cases a
  simp only [limitArgsOf, hfmax]
  simp [LimitArgs.bytes, byteAt_zero, byteAt_cons, byteAt_append, fieldAt_cons, fieldAt_append,
    fieldAt_beBytes_append, hlen]

theorem stepArgsOf_bytes (a : StepArgs) : stepArgsOf a.bytes = a := by
  have hmap : (Vector.ofFn fun i : Fin 16 => byteAt a.bytes (20 + i.val)) = a.map := by
    ext1 i hi
    simp [StepArgs.bytes, byteAt_cons_add, byteAt_append_add, byteAt_toList_append a.map _ hi]
  have htrays : (Vector.ofFn fun i : Fin 8 => byteAt a.bytes (36 + i.val)) = a.trayClasses := by
    ext1 i hi
    have hlast := byteAt_toList_append a.trayClasses [] hi
    rw [List.append_nil] at hlast
    simp [StepArgs.bytes, byteAt_cons_add, byteAt_append_add, hlast]
  cases a
  simp only [stepArgsOf, hmap, htrays]
  simp [StepArgs.bytes, byteAt_zero, byteAt_cons, byteAt_append, fieldAt_cons, fieldAt_append, fieldAt_beBytes_append]

theorem stepListOf_bytes (l : List StepArgs) : stepListOf l.length (l.flatMap StepArgs.bytes) = l := by
  induction l with
  | nil => rfl
  | cons a l ih =>
    rw [List.flatMap_cons, List.length_cons, stepListOf, List.take_left' a.bytes_length, List.drop_left' a.bytes_length,
      stepArgsOf_bytes, ih]

/-- The arguments of a request that a frame can bring are read back argument by argument (Table 11-3). -/
theorem requestOf_requestParts {i : Instr} {h : ReqHead} {body : List Byte} {k : BitVec 16} (hw : i.wf = true)
    (hp : i.requestParts = some (h, body)) (hk : i.kindCode = some k) (hknown : k.toNat ∈ requestKinds) :
    requestOf h k.toNat body = some i ∧ body.length = requestLength k.toNat (byteAt body 5).toNat := by
  cases i
  case setProfile h a =>
    cases hp; cases hk
    exact ⟨by simp [requestOf, profileArgsOf_bytes], by simp [requestLength]⟩
  case loadRoute h r p c steps =>
    cases hp; cases hk
    simp only [Instr.wf, Bool.and_eq_true, beq_iff_eq] at hw
    obtain ⟨⟨hcount, -⟩, -⟩ := hw
    have hsteps := stepListOf_bytes steps
    rw [hcount] at hsteps
    have hdrop : ([r] ++ beBytes 4 p.toNat ++ [c] ++ steps.flatMap StepArgs.bytes).drop 6
        = steps.flatMap StepArgs.bytes := List.drop_left' (by simp)
    have hc : byteAt ([r] ++ beBytes 4 p.toNat ++ [c] ++ steps.flatMap StepArgs.bytes) 5 = c := by
      simp [byteAt_zero, byteAt_cons, byteAt_append]
    refine ⟨?_, ?_⟩
    · show requestOf h 0x0304 _ = _
      rw [requestOf, hc, hdrop, hsteps]
      simp [byteAt_zero, fieldAt_cons, fieldAt_beBytes_append]
    · rw [hc]
      simp [requestLength, flatMap_length _ 44, hcount]
      omega
  case loadLimits h set a =>
    cases hp; cases hk
    exact ⟨by simp [requestOf, limitArgsOf_bytes, byteAt_zero], by simp [requestLength]⟩
  case unknownRequest h kind =>
    cases hk
    simp [Instr.wf] at hw
    exact absurd hknown hw.1
  all_goals cases hp
  all_goals
      cases hk
      simp [requestOf, requestLength, byteAt_zero, byteAt_cons, byteAt_append, fieldAt_cons, fieldAt_append,
        fieldAt_beBytes, fieldAt_beBytes_append]

theorem kind_known_or_unknown {i : Instr} {k : BitVec 16} (hk : i.kindCode = some k) (hp : i.requestParts.isSome) :
    k.toNat ∈ requestKinds ∨ ∃ h, i = .unknownRequest h k := by
  cases i
  case unknownRequest h kind =>
    cases hk
    exact .inr ⟨h, rfl⟩
  all_goals cases hp
  all_goals
    cases hk
    exact .inl (by decide)

/-- No request's arguments are longer than a frame holds (R166). -/
theorem bodyLength_le {i : Instr} {h : ReqHead} {body : List Byte} (hw : i.wf = true)
    (hp : i.requestParts = some (h, body)) : body.length = h.bodyLen.toNat ∧ body.length ≤ 8984 := by
  cases i
  case loadRoute h r p c steps =>
    cases hp
    simp [Instr.wf, ReqHead.wf] at hw
    simp [flatMap_length _ 44]
    omega
  case unknownRequest h kind =>
    cases hp
    simp [Instr.wf] at hw
    simpa using hw.2
  all_goals cases hp
  all_goals
    simp [Instr.wf, ReqHead.wf] at hw
    simp [hw]

/-- A message to the part of the request class is the request whose kind and body it has (R168, R174). -/
theorem classifyFloorSide_request {part : Station} {m body : List Byte} {h : ReqHead} {k : BitVec 16} {i : Instr}
    (hdst : fieldAt 16 m 4 2 = part) (hver : numAt m 0 1 = 1) (hcls : numAt m 1 1 = 3) (hkind : numAt m 2 2 = k.toNat)
    (hhead : h =
      { src := fieldAt 16 m 6 2, tag := fieldAt 16 m 10 2, bodyLen := fieldAt 16 m 8 2 })
    (hbody : slice m 16 (namedLength m) = body) (hw : i.wf = true) (hp : i.requestParts = some (h, body))
    (hk : i.kindCode = some k) : classifyFloorSide part m = .request i := by
  have hclass : isOfClass 3 m = true := by rw [isOfClass, hver, hcls]; rfl
  simp only [classifyFloorSide, hdst, hclass, if_true]
  rw [← hhead, hkind, hbody]
  rcases kind_known_or_unknown hk (by simp [hp]) with hknown | ⟨h', rfl⟩
  · obtain ⟨hof, hlength⟩ := requestOf_requestParts hw hp hk hknown
    rw [if_pos hknown, if_pos hlength, hof]
  · obtain rfl : h' = h := (Prod.ext_iff.1 (Option.some.inj hp)).1
    have hunknown : k.toNat ∉ requestKinds := by
      simp [Instr.wf] at hw
      exact hw.1
    rw [if_neg hunknown, BitVec.ofNat_toNat, BitVec.setWidth_eq]

/-- Settles O8. -/
theorem requestFramesCarryTheirRequests : Obligations.RequestFramesCarryTheirRequests := by
  intro i b s hw hb
  obtain ⟨⟨h, body⟩, hp⟩ : ∃ p, i.requestParts = some p := Option.ne_none_iff_exists'.1 fun hp => by
    simp [Instr.requestFrame, hp] at hb
  obtain ⟨k, hk⟩ : ∃ k, i.kindCode = some k := Option.ne_none_iff_exists'.1 fun hk => by
    simp [Instr.requestFrame, hp, hk] at hb
  obtain ⟨m, hm⟩ : ∃ m, m = messageBytes 0x03 k s.profile.partStation h.src h.tag body := ⟨_, rfl⟩
  obtain rfl : ethernetFrame 0xFFFFFFFFFFFF 0 m (minPad m) = b := by
    simpa only [Instr.requestFrame, hp, hk, Option.some.injEq, ← hm] using hb
  obtain ⟨hnamed, hshort⟩ := bodyLength_le hw hp
  have hlength : m.length = 16 + body.length := by rw [hm, messageBytes_length]
  have hgood : frameCheckOk (ethernetFrame 0xFFFFFFFFFFFF 0 m (minPad m)) = true := frameCheckOk_ethernetFrame (by
    simp only [frameLengthOk, minPad, List.length_replicate, Bool.and_eq_true, decide_eq_true_eq]
    omega)
  obtain ⟨-, -, htype⟩ := ethernetFrame_addresses 0xFFFFFFFFFFFF 0 m (minPad m)
  have hmessage := payload_ethernetFrame 0xFFFFFFFFFFFF 0 m (minPad m)
  generalize ethernetFrame 0xFFFFFFFFFFFF 0 m (minPad m) = b at hgood htype hmessage ⊢
  generalize minPad m = pad at hmessage
  subst hm
  obtain ⟨hver, hcls, hkind, -, hdst, hsrc, hlen, htag⟩ :=
    header_fields 0x03 k s.profile.partStation h.src h.tag body pad (by omega)
  have hbodyLen : fieldAt 16 (messageBytes 0x03 k s.profile.partStation h.src h.tag body ++ pad) 8 2 = h.bodyLen := by
    rw [fieldAt, hlen, hnamed, BitVec.ofNat_toNat, BitVec.setWidth_eq]
  have hclass : classify .f s.profile.partStation b = .request i := by
    rw [classify_floorSide hgood htype (by rw [hmessage]; exact messageCheckOk_messageBytes _ _ _ _ _ _ _ (by omega)),
      hmessage]
    refine classifyFloorSide_request hdst hver hcls hkind ?_ ?_ hw hp hk
    · rw [hsrc, htag, hbodyLen]
    · rw [namedLength, hlen, slice_body]
  rw [exec_frameArrival, takeFrame, hclass, exec_eq_takeMessage (.inr (by simp [hp]))]

end Sys2Proof.Machine
end

section
/-! THE PROOFS of O31 to O34: shipments are opened, filled, sealed, released and cancelled. -/

set_option Elab.async false

namespace Sys2Proof.Machine

/-! ## Records of shipments -/

/-- The first index of a table with a property that none below it has. -/
theorem find?_finRange_eq_some {n : Nat} {p : Fin n → Bool} {i : Fin n} (hi : p i = true)
    (hlow : ∀ j, j < i → p j = false) : (List.finRange n).find? p = some i := by
  rw [List.find?_eq_some_iff_getElem]
  refine ⟨hi, i.val, by simp, by simp, fun j hj => ?_⟩
  simp [hlow ⟨j, hj.trans i.isLt⟩ hj]

theorem Shipment.gradeIx_eq {x : Shipment} {g : Fin 4} (h : x.grade = g.val + 1) : x.gradeIx = g := by
  simp [Shipment.gradeIx, h, Nat.mod_eq_of_lt g.isLt]

theorem exec_inOperate {i : Instr} {h : ReqHead} {kind : BitVec 16} {own : State → Reply} {s : State}
    (ho : inOperate i h s) (hi : Instr.isSetProfile i = false)
    (hexec : exec i s = .next (serve i h kind own s)) : exec i s = .next (respond h kind (own s)) := by
  rw [hexec, serve_of_inOperate ho hi]

/-! ## O31 -/

/-- Settles O31. -/
theorem shipOpenFillsARecord : Obligations.ShipOpenFillsARecord := by
  intro h tag product grade maximum s i ho good
  have hgood : ¬ good ↔ grade.toNat = 0 ∨ 4 < grade.toNat ∨ maximum.toNat = 0 ∨ Config.maxQuantity < maximum.toNat := by
    simp only [good, Config.maxQuantity]
    omega
  rw [exec_inOperate (kind := 0x0330) (own := ownShipOpen tag product grade maximum) ho rfl rfl]
  refine ⟨fun hbad => ?_, fun hok hused => ?_, fun hok hnew hfull => ?_, fun n hok hnew hn hlow => ?_⟩
  · rw [ownShipOpen, if_pos (hgood.1 hbad)]
  · rw [ownShipOpen, if_neg (mt hgood.2 (not_not.2 hok)), if_pos (Option.isSome_iff_ne_none.2 hused)]
  · have hvacant : vacantShip s = none := by simpa [vacantShip] using hfull
    rw [ownShipOpen, if_neg (mt hgood.2 (not_not.2 hok)), hnew, hvacant, if_neg (by simp)]
  · have hvacant : vacantShip s = some n :=
      find?_finRange_eq_some (by simp [hn]) fun m hm => by simpa using hlow m hm
    rw [ownShipOpen, if_neg (mt hgood.2 (not_not.2 hok)), hnew, hvacant, if_neg (by simp)]
    simp only [byte1_eq]

/-! ## O32 -/

/-- A mark set, written whole. -/
theorem setMark_eq (l : LotSlot) (g : Fin 4) (m : PortionMark) (s : State) :
    setMark l g m s = { s with lots := vset s.lots l { s.lot l with marks := vset (s.lot l).marks g m } } := rfl

/-- SHIP_ADD of a shipment and a lot that are there (R157). -/
theorem ownShipAdd_of_some {tag lot : Tag} {s : State} {n : ShipSlot} {l : LotSlot} {g : Fin 4}
    (hn : findShip s tag = some n) (hl : findLot s lot = some l) (hg : (s.ship n).gradeIx = g) : ownShipAdd tag lot s =
      if (s.ship n).state ≠ .opened then refuse .wrongState s
      else if (s.lot l).state ≠ .finished then refuse .wrongState s
      else if (s.route (s.lot l).route).product ≠ (s.ship n).product then refuse .conflict s
      else if (s.lot l).gradeQty[g] = 0 then refuse .notFound s
      else if (s.lot l).marks[g] ≠ .free then refuse .inUse s
      else if Config.memberCapacity ≤ (s.ship n).members.length then refuse .noSlot s
      else if (s.ship n).maximum < (s.ship n).quantity + (s.lot l).gradeQty[g] then refuse .range s
      else okWith (memberData ((addMember n l s).ship n)) (addMember n l s) := by
  subst hg
  simp only [ownShipAdd, hn, hl]

/-- SHIP_REMOVE of a shipment that is there (R158). -/
theorem ownShipRemove_of_some {tag lot : Tag} {s : State} {n : ShipSlot} (hn : findShip s tag = some n) :
    ownShipRemove tag lot s =
      if (s.ship n).state ≠ .opened then refuse .wrongState s
      else match (s.ship n).members.find? fun m => m.tag == lot with
        | none => refuse .notFound s
        | some m => okWith (memberData ((removeMember n m s).ship n)) (removeMember n m s) := by
  simp only [ownShipRemove, hn] <;> rfl

theorem addMember_eq {n : ShipSlot} {l : LotSlot} {s : State} {g : Fin 4} (hg : (s.ship n).gradeIx = g) :
    addMember n l s =
      { s with
        ships := vset s.ships n
          { s.ship n with
            members := (s.ship n).members ++ [⟨(s.lot l).tag, l, (s.lot l).gradeQty[g]⟩]
            quantity := (s.ship n).quantity + (s.lot l).gradeQty[g] }
        lots := vset s.lots l { s.lot l with marks := vset (s.lot l).marks g (.inShipment n) } } := by
  subst hg
  rfl

theorem addMember_ship {n : ShipSlot} {l : LotSlot} {s : State} {g : Fin 4} (hg : (s.ship n).gradeIx = g) :
    (addMember n l s).ship n = (s.ship n).withMember ⟨(s.lot l).tag, l, (s.lot l).gradeQty[g]⟩ := by
  subst hg
  simp [addMember, setMark, State.modLot]

theorem removeMember_ship (n : ShipSlot) (m : Member) (s : State) :
    (removeMember n m s).ship n = (s.ship n).withoutMember m := by
  simp [removeMember, setMark, State.modLot]

/-- The member that a search finds, those before it not matching, closes the list up when it is erased. -/
theorem erase_of_split {before after : List Member} {m : Member} {lot : Tag} (hm : m.tag = lot)
    (hb : ∀ a ∈ before, a.tag ≠ lot) : (before ++ m :: after).erase m = before ++ after := by
  rw [List.erase_append_right _ fun h => hb m h hm, List.erase_cons_head]

theorem find?_of_split {α : Type} {p : α → Bool} {before after : List α} {m : α} (hm : p m = true)
    (hb : ∀ a ∈ before, p a = false) : (before ++ m :: after).find? p = some m := by
  rw [List.find?_append, List.find?_eq_none.2 (by simpa using hb), Option.none_or, List.find?_cons_of_pos hm]

/-- Settles O32. -/
theorem membersComeAndGo : Obligations.MembersComeAndGo := by
  refine ⟨fun h tag lot s ho => ?_, fun h tag lot s ho => ?_⟩
  · rw [exec_inOperate (kind := 0x0331) (own := ownShipAdd tag lot) ho rfl rfl]
    refine ⟨?_, fun n l g hn hl hgrade => ?_⟩
    · intro hnone
      cases hn : findShip s tag <;> cases hl : findLot s lot <;> simp_all [ownShipAdd]
    · intro x y q reply
      have hg : (s.ship n).gradeIx = g := Shipment.gradeIx_eq hgrade
      have hreply : reply = _ :=
        congrArg (fun r => Host.Outcome.next (respond h 0x0331 r)) (ownShipAdd_of_some hn hl hg)
      rw [hreply]
      refine ⟨fun h1 => by rw [if_pos h1], fun h1 => ⟨fun h2 => ?_, fun h2 => ⟨fun h3 => ?_, fun h3 => ⟨fun h4 => ?_,
        fun h4 => ⟨fun h5 => ?_, fun h5 => ⟨fun h6 => ?_, fun h6 => ⟨fun h7 => ?_, fun h7 => ?_⟩⟩⟩⟩⟩⟩⟩
      · rw [if_neg (not_not.2 h1), if_pos h2]
      · rw [if_neg (not_not.2 h1), if_neg (not_not.2 h2), if_pos h3]
      · rw [if_neg (not_not.2 h1), if_neg (not_not.2 h2), if_neg (not_not.2 h3), if_pos h4]
      · rw [if_neg (not_not.2 h1), if_neg (not_not.2 h2), if_neg (not_not.2 h3), if_neg h4, if_pos h5]
      · rw [if_neg (not_not.2 h1), if_neg (not_not.2 h2), if_neg (not_not.2 h3), if_neg h4, if_neg (not_not.2 h5),
          if_pos (by exact h6)]
      · rw [if_neg (not_not.2 h1), if_neg (not_not.2 h2), if_neg (not_not.2 h3), if_neg h4, if_neg (not_not.2 h5),
          if_neg (by exact Nat.not_le.2 h6), if_pos h7]
      · rw [if_neg (not_not.2 h1), if_neg (not_not.2 h2), if_neg (not_not.2 h3), if_neg h4, if_neg (not_not.2 h5),
          if_neg (by exact Nat.not_le.2 h6), if_neg (Nat.not_lt.2 h7)]
        have hcount : ((s.ship n).withMember ⟨(s.lot l).tag, l, (s.lot l).gradeQty[g]⟩).members.length
            = x.members.length + 1 := by simp [Shipment.withMember, x]
        rw [addMember_ship hg, memberData, byte1_eq, hcount, addMember_eq hg]
        rfl
  · rw [exec_inOperate (kind := 0x0332) (own := ownShipRemove tag lot) ho rfl rfl]
    refine ⟨fun hn => by simp [ownShipRemove, hn], fun n g hn hgrade => ?_⟩
    intro x
    have hg : (s.ship n).gradeIx = g := Shipment.gradeIx_eq hgrade
    rw [ownShipRemove_of_some hn]
    refine ⟨fun h1 => by rw [if_pos h1], fun h1 hnone => ?_, fun before after m h1 hmembers hm hb => ?_⟩
    · have hfind : (s.ship n).members.find? (fun m => m.tag == lot) = none := by simpa using hnone
      rw [if_neg (not_not.2 h1), hfind]
    · have hfind : (s.ship n).members.find? (fun m => m.tag == lot) = some m := by
        rw [show (s.ship n).members = _ from hmembers]
        exact find?_of_split (by simpa using hm) (by simpa using hb)
      have hx : (s.ship n).withoutMember m
          = { x with members := before ++ after, quantity := x.quantity - m.quantity } := by
        rw [Shipment.withoutMember, show (s.ship n).members = _ from hmembers, erase_of_split hm hb]
      rw [if_neg (not_not.2 h1), hfind]
      show Host.Outcome.next (respond h 0x0332 (okWith (memberData ((removeMember n m s).ship n)) (removeMember n m s))) = _
      rw [removeMember_ship, hx, memberData, byte1_eq, removeMember, State.modShip, hx, hg]
      rfl

/-! ## O33 -/

theorem ownShipSeal_of_some {tag : Tag} {s : State} {n : ShipSlot} (hn : findShip s tag = some n) :
    ownShipSeal tag s =
      if (s.ship n).state ≠ .opened ∨ (s.ship n).members.isEmpty then refuse .wrongState s
      else ok (s.modShip n fun x => { x with state := .sealed }) := by
  simp only [ownShipSeal, hn]

theorem ownShipCancel_of_some {tag : Tag} {s : State} {n : ShipSlot} (hn : findShip s tag = some n) :
    ownShipCancel tag s = if (s.ship n).state = .released then refuse .wrongState s else ok (cancelShip n s) := by
  simp only [ownShipCancel, hn]

/-- The lots after a mark of the members' portions. -/
def markedLots (g : Fin 4) (m : PortionMark) (ms : List Member) (lots : Vector Lot 256) : Vector Lot 256 :=
  Vector.ofFn fun l => if ms.any fun x => x.slot == l then { lots[l] with marks := vset lots[l].marks g m } else lots[l]

theorem markedLots_get (g : Fin 4) (m : PortionMark) (ms : List Member) (lots : Vector Lot 256) (l : LotSlot) :
    (markedLots g m ms lots)[l] =
      if ms.any fun x => x.slot == l then { lots[l] with marks := vset lots[l].marks g m } else lots[l] := by
  simp [markedLots]

/-- Marking the members' portions writes the lots that they name, and nothing else (R160, R162). -/
theorem markMembers_eq (g : Fin 4) (m : PortionMark) (ms : List Member) (s : State) :
    markMembers g m ms s = { s with lots := markedLots g m ms s.lots } := by
  induction ms generalizing s with
  | nil =>
    have hlots : markedLots g m [] s.lots = s.lots := by
      ext1 l hl
      exact markedLots_get g m [] s.lots ⟨l, hl⟩
    rw [hlots]
    rfl
  | cons x ms ih =>
    have hlots : markedLots g m ms (setMark x.slot g m s).lots = markedLots g m (x :: ms) s.lots := by
      have hentry (i : LotSlot) :
          (markedLots g m ms (setMark x.slot g m s).lots)[i] = (markedLots g m (x :: ms) s.lots)[i] := by
        rw [markedLots_get, markedLots_get, setMark_eq, vset_get]
        by_cases hx : x.slot = i
        · rw [← hx, if_pos rfl, List.any_cons, beq_self_eq_true, Bool.true_or, if_pos rfl]
          split
          · simp [State.lot]
          · rfl
        · simp [hx]
      ext1 i hi
      exact hentry ⟨i, hi⟩
    rw [markMembers, List.foldl_cons]
    exact (ih _).trans (by rw [hlots, setMark_eq])

/-- Settles O33. -/
theorem shipmentsSealAndCancel : Obligations.ShipmentsSealAndCancel := by
  refine ⟨⟨fun h tag s ho => ?_, fun h tag lot n s hn hsealed => ⟨fun ho hl => ?_, fun ho => ?_⟩⟩, fun h tag s ho => ?_⟩
  · rw [exec_inOperate (kind := 0x0333) (own := ownShipSeal tag) ho rfl rfl]
    refine ⟨fun hn => by simp [ownShipSeal, hn], fun n hn => ?_⟩
    rw [ownShipSeal_of_some hn]
    refine ⟨fun hbad => ?_, fun hopen hne => ?_⟩
    · rw [if_pos (hbad.imp_right fun h => by simp [h])]
    · rw [if_neg (by simp [hopen, hne])]
      rfl
  · obtain ⟨l, hl⟩ := Option.ne_none_iff_exists'.1 hl
    rw [exec_inOperate (kind := 0x0331) (own := ownShipAdd tag lot) ho rfl rfl, ownShipAdd_of_some hn hl rfl,
      if_pos (by simp [hsealed])]
  · rw [exec_inOperate (kind := 0x0332) (own := ownShipRemove tag lot) ho rfl rfl, ownShipRemove_of_some hn,
      if_pos (by simp [hsealed])]
  · rw [exec_inOperate (kind := 0x0335) (own := ownShipCancel tag) ho rfl rfl]
    refine ⟨fun hn => by simp [ownShipCancel, hn], fun n g hn hgrade => ?_⟩
    rw [ownShipCancel_of_some hn]
    refine ⟨fun hreleased => by rw [if_pos hreleased], fun hlive => ?_⟩
    rw [if_neg hlive, cancelShip, Shipment.gradeIx_eq hgrade, markMembers_eq]
    rfl

/-! ## O34 -/

theorem ownShipRelease_of_some {tag : Tag} {s : State} {n : ShipSlot} (hn : findShip s tag = some n) :
    ownShipRelease tag s =
      if (s.ship n).state ≠ .sealed then refuse .wrongState s
      else match (s.ship n).members.find? fun m => (s.lot m.slot).state != .finished with
        | some m => refuseWith .memberHeld (tagBytes m.tag) s
        | none => ok (releaseShip n s) := by
  simp only [ownShipRelease, hn] <;> rfl

theorem Lot.allReleased_iff (x : Lot) :
    x.allReleased = true ↔ ∀ f : Fin 4, x.gradeQty[f] ≠ 0 → x.marks[f] = .released := by
  simp [Lot.allReleased, or_iff_not_imp_left]

/-- The lot that LOT's test makes RELEASED. -/
def Lot.isReleasable (x : Lot) : Bool := x.state == .finished && x.allReleased

theorem releaseTest_eq (l : LotSlot) (s : State) :
    releaseTest l s =
      if (s.lot l).isReleasable then modRefs (s.lot l).route (· - 1) (s.setLot l { s.lot l with state := .released })
      else s := by
  rw [releaseTest]
  exact if_congr (by simp [Lot.isReleasable]) rfl rfl

theorem releaseTest_lot (l i : LotSlot) (s : State) :
    (releaseTest l s).lot i =
      if l = i ∧ (s.lot l).isReleasable then { s.lot l with state := .released } else s.lot i := by
  rw [releaseTest_eq]
  by_cases hr : (s.lot l).isReleasable
  · rw [if_pos hr, modRefs_lot]
    by_cases hl : l = i
    · subst hl; simp [hr]
    · simp [setLot_lot_ne _ _ hl, hl]
  · simp [hr]

theorem releaseTest_route (l : LotSlot) (q : RouteIx) (s : State) :
    (releaseTest l s).route q = { s.route q with
      refs := (s.route q).refs - if (s.lot l).route = q ∧ (s.lot l).isReleasable then 1 else 0 } := by
  rw [releaseTest_eq]
  by_cases hr : (s.lot l).isReleasable
  · rw [if_pos hr, modRefs_route_eq]
    by_cases hq : (s.lot l).route = q <;> simp [hq, hr]
  · simp [hr]

/-- The tests of a released shipment's members write lots and routes only. -/
theorem foldl_releaseTest_writes (ms : List Member) (s : State) :
    ∃ L U, ms.foldl (fun s m => releaseTest m.slot s) s = { s with lots := L, routes := U } := by
  induction ms generalizing s with
  | nil => exact ⟨_, _, rfl⟩
  | cons m ms ih =>
    obtain ⟨L, U, h⟩ := ih (releaseTest m.slot s)
    rw [List.foldl_cons, h, releaseTest_eq]
    split
    · exact ⟨L, U, rfl⟩
    · exact ⟨L, U, rfl⟩

/-- The tests of members in slots of their own (R161): each makes its own lot RELEASED, and lowers its route's count. -/
theorem foldl_releaseTest (ms : List Member) (s : State) (hms : (ms.map (·.slot)).Nodup) :
    (∀ l, (∀ m ∈ ms, m.slot ≠ l) → (ms.foldl (fun s m => releaseTest m.slot s) s).lot l = s.lot l)
    ∧ (∀ m ∈ ms, (ms.foldl (fun s m => releaseTest m.slot s) s).lot m.slot =
        if (s.lot m.slot).isReleasable then { s.lot m.slot with state := .released } else s.lot m.slot)
    ∧ ∀ q, (ms.foldl (fun s m => releaseTest m.slot s) s).route q = { s.route q with
        refs := (s.route q).refs - ms.countP fun m => (s.lot m.slot).route == q && (s.lot m.slot).isReleasable } := by
  induction ms generalizing s with
  | nil => exact ⟨fun _ _ => rfl, nofun, fun _ => rfl⟩
  | cons x ms ih =>
    simp only [List.map_cons, List.nodup_cons, List.mem_map, not_exists, not_and] at hms
    obtain ⟨hnew, hnodup⟩ := hms
    obtain ⟨hother, hmember, hroute⟩ := ih (releaseTest x.slot s) hnodup
    have hkept : ∀ m ∈ ms, (releaseTest x.slot s).lot m.slot = s.lot m.slot := fun m hm => by
      rw [releaseTest_lot, if_neg fun h => hnew m hm h.1.symm]
    refine ⟨fun l hl => ?_, fun m hm => ?_, fun q => ?_⟩
    · rw [List.foldl_cons, hother l fun m hm => hl m (List.mem_cons_of_mem _ hm), releaseTest_lot,
        if_neg fun h => hl x List.mem_cons_self h.1]
    · rw [List.foldl_cons]
      rcases List.mem_cons.1 hm with rfl | hm
      · rw [hother _ hnew, releaseTest_lot]
        simp
      · rw [hmember m hm, hkept m hm]
    · have hcount : (ms.countP fun m => ((releaseTest x.slot s).lot m.slot).route == q
            && ((releaseTest x.slot s).lot m.slot).isReleasable)
          = ms.countP fun m => (s.lot m.slot).route == q && (s.lot m.slot).isReleasable :=
        List.countP_congr fun m hm => by rw [hkept m hm]
      rw [List.foldl_cons, hroute, hcount, releaseTest_route, List.countP_cons]
      by_cases hx : (s.lot x.slot).route = q ∧ (s.lot x.slot).isReleasable
      · simp [hx]; omega
      · rw [if_neg hx, if_neg (by simpa using hx)]
        simp

/-- A notice passes through a write of the shipments and the lots. -/
theorem postNotice_shipsLots (n : Notice) (s : State) (S : Vector Shipment 64) (L : Vector Lot 256) :
    postNotice n { s with ships := S, lots := L } = { postNotice n s with ships := S, lots := L } := by
  unfold postNotice
  dsimp only
  split
  · unfold kickF
    dsimp only
    repeat' split
    all_goals rfl
  · rfl

/-- A shipment's record and its members' marks released, and its notice posted (R160). -/
def portionsReleased (n : ShipSlot) (g : Fin 4) (s : State) : State :=
  { postNotice (.shipmentReleased (s.ship n).tag (s.ship n).grade (s.ship n).quantity (s.ship n).members.length) s with
    ships := vset s.ships n { s.ship n with state := .released }
    lots := markedLots g .released (s.ship n).members s.lots }

/-- A shipment released: its portions, then the tests of its members. -/
theorem releaseShip_eq {n : ShipSlot} {s : State} {g : Fin 4} (hg : (s.ship n).gradeIx = g) :
    releaseShip n s = (s.ship n).members.foldl (fun s m => releaseTest m.slot s) (portionsReleased n g s) := by
  rw [releaseShip, markMembers_eq, hg, portionsReleased, ← postNotice_shipsLots]
  rfl

theorem portionsReleased_ship (n i : ShipSlot) (g : Fin 4) (s : State) :
    (portionsReleased n g s).ship i = if n = i then { s.ship n with state := .released } else s.ship i :=
  vset_get ..

theorem portionsReleased_lot (n : ShipSlot) (g : Fin 4) (s : State) (l : LotSlot) :
    (portionsReleased n g s).lot l =
      if (s.ship n).members.any fun m => m.slot == l then
        { s.lot l with marks := vset (s.lot l).marks g .released } else s.lot l := markedLots_get ..

theorem portionsReleased_route (n : ShipSlot) (g : Fin 4) (s : State) (q : RouteIx) :
    (portionsReleased n g s).route q = s.route q := by
  have hroutes : (portionsReleased n g s).routes = s.routes := by simp [portionsReleased]
  rw [State.route, hroutes, State.route]

theorem ship_eq_of_ships {s t : State} (h : s.ships = t.ships) (i : ShipSlot) : s.ship i = t.ship i := by
  rw [State.ship, h, State.ship]

/-- Settles O34. -/
theorem shipReleaseReleasesThePortions : Obligations.ShipReleaseReleasesThePortions := by
  intro h tag s ho
  rw [exec_inOperate (kind := 0x0334) (own := ownShipRelease tag) ho rfl rfl]
  refine ⟨fun hn => by simp [ownShipRelease, hn], fun n g hn hgrade => ?_⟩
  intro x
  rw [ownShipRelease_of_some hn]
  refine ⟨fun h1 => by rw [if_pos h1], fun before after m h1 hmembers hb hm => ?_, fun h1 hfinished hnodup => ?_⟩
  · have hfind : (s.ship n).members.find? (fun m => (s.lot m.slot).state != .finished) = some m := by
      rw [show (s.ship n).members = _ from hmembers]
      exact find?_of_split (by simpa using hm) (by simpa using hb)
    rw [if_neg (not_not.2 h1), hfind]
    rfl
  · have hfind : (s.ship n).members.find? (fun m => (s.lot m.slot).state != .finished) = none := by
      simpa using hfinished
    rw [if_neg (not_not.2 h1), hfind]
    refine ⟨releaseShip n s, rfl, ?_⟩
    rw [releaseShip_eq (Shipment.gradeIx_eq hgrade)]
    obtain ⟨hother, hmember, hroute⟩ := foldl_releaseTest x.members (portionsReleased n g s) hnodup
    obtain ⟨L, U, hwrites⟩ := foldl_releaseTest_writes x.members (portionsReleased n g s)
    have hships : (x.members.foldl (fun s m => releaseTest m.slot s) (portionsReleased n g s)).ships
        = (portionsReleased n g s).ships := by rw [hwrites]
    have hmarked : ∀ m ∈ x.members, (portionsReleased n g s).lot m.slot
        = { s.lot m.slot with marks := vset (s.lot m.slot).marks g .released } := fun m hm => by
      rw [portionsReleased_lot, if_pos (List.any_eq_true.2 ⟨m, hm, beq_self_eq_true m.slot⟩)]
    have hgone : ∀ m ∈ x.members, (((portionsReleased n g s).lot m.slot).isReleasable = true ↔
        ∀ f : Fin 4, (s.lot m.slot).gradeQty[f] ≠ 0 → (vset (s.lot m.slot).marks g .released)[f] = .released) :=
      fun m hm => by
        rw [hmarked m hm, Lot.isReleasable, Bool.and_eq_true, Lot.allReleased_iff]
        simp [hfinished m hm]
    refine ⟨?_, fun m hm => ?_, fun l hl => ?_, fun m hm => ⟨fun hall => ?_, fun hsome => ?_⟩, fun q => ?_, ?_⟩
    · rw [ship_eq_of_ships hships, portionsReleased_ship, if_pos rfl]
    · rw [ship_eq_of_ships hships, portionsReleased_ship, if_neg hm.symm]
    · have hno : ¬ (x.members.any fun m => m.slot == l) = true := by simpa using hl
      rw [hother l hl, portionsReleased_lot, if_neg hno]
    · rw [hmember m hm, if_pos ((hgone m hm).2 hall), hmarked m hm]
    · rw [hmember m hm, if_neg (mt (hgone m hm).1 hsome), hmarked m hm]
    · have hcount : (x.members.countP fun m => ((portionsReleased n g s).lot m.slot).route == q
            && ((portionsReleased n g s).lot m.slot).isReleasable)
          = x.members.countP fun m => (s.lot m.slot).route == q && decide
              (((x.members.foldl (fun s m => releaseTest m.slot s) (portionsReleased n g s)).lot m.slot).state
                = .released) :=
        List.countP_congr fun m hm => by
          rw [hmember m hm]
          cases hr : ((portionsReleased n g s).lot m.slot).isReleasable
          · simp [hmarked m hm, hfinished m hm]
          · simp [hmarked m hm]
      rw [hroute, hcount, portionsReleased_route]
      exact ⟨rfl, rfl, rfl⟩
    · rw [hwrites]
      simp only [portionsReleased, x]

end Sys2Proof.Machine
end

section
/-! THE PROOFS of O26, O30 and O36: the queries with the bytes of their responses, CELL_DRAIN and CELL_COUNTERS_CLEAR, and
FLOOR_RESET. -/

set_option Elab.async false

namespace Sys2Proof.Machine

/-! ## O36 -/

/-- Settles O36. -/
theorem floorResetEmptiesTheFloor : Obligations.FloorResetEmptiesTheFloor := by
  intro h s ho
  rw [exec_inOperate (kind := 0x0342) (own := fun s => ok (floorReset s)) ho rfl rfl]
  refine congrArg (fun o => Host.Outcome.next (respond h 0x0342 (ok { floorReset s with outbound := o }))) ?_
  exact List.filter_congr fun o _ => by cases o <;> rfl

/-! ## O30 -/

theorem cellInUse_eq_none {s : State} {b : Byte} (h : s.profile.cellsInUse ≤ b.toNat) : cellInUse s b = none := by
  rw [cellInUse]
  split
  · exact if_neg (Nat.not_lt.2 h)
  · rfl

theorem cellInUse_of_index {s : State} {b : Byte} {c : CellIx} (hc : c.val = b.toNat)
    (h : c.val < s.profile.cellsInUse) : cellInUse s b = some c := cellInUse_of_lt hc (hc ▸ h)

theorem chooseLot_of_nothing {c : CellIx} {s : State}
    (h : ∀ l ∈ s.queue, compatible (s.cell c) (stepOf s (s.lot l)) = false) : chooseLot s c = none := by
  have hfit : (s.queue.filter fun l => compatible (s.cell c) (stepOf s (s.lot l))) = [] := by
    simpa [List.filter_eq_nil_iff] using h
  simp only [chooseLot, hfit, List.take_nil]
  rfl

theorem matchCell_of_ineligible {c : CellIx} {s : State} (h : eligible (s.cell c) = false) : matchCell c s = s := by
  simp [matchCell, h]

/-- A cell that no queued lot fits stays as it is (R118, R119). -/
theorem matchCell_of_nothing {c : CellIx} {s : State}
    (h : ∀ l ∈ s.queue, compatible (s.cell c) (stepOf s (s.lot l)) = false) : matchCell c s = s := by
  rw [matchCell, chooseLot_of_nothing h, ite_self]

theorem matchCell_of_nothingFor {c : CellIx} {s : State} (h : nothingFor c s) : matchCell c s = s :=
  h.elim (fun h => matchCell_of_ineligible (by simp [eligible, h])) matchCell_of_nothing

/-- Settles O30. -/
theorem drainAndCountersClear : Obligations.DrainAndCountersClear := by
  intro h cell setting s
  refine ⟨fun ho => ?_, fun ho => ?_⟩
  · rw [exec_inOperate (kind := 0x0322) (own := ownCellDrain cell setting) ho rfl rfl]
    refine ⟨fun hbad => ?_, fun c hc hin => ⟨fun hon => ?_, fun hoff hno => ?_⟩⟩
    · have hrefused : ownCellDrain cell setting s = refuse .range s := by
        rcases hbad with hout | hset
        · simp [ownCellDrain, cellInUse_eq_none hout]
        · have hnone : onOff setting = none := Option.not_isSome_iff_eq_none.1 fun hs => by
            have := (onOff_isSome_iff setting).1 hs
            omega
          simp [ownCellDrain, hnone]
      rw [hrefused]
    · subst hon
      simp only [ownCellDrain, cellInUse_of_index hc hin]
      rfl
    · subst hoff
      have hown : ownCellDrain cell 0 s = ok (drainCell c false s) := by
        simp only [ownCellDrain, cellInUse_of_index hc hin]
        rfl
      rw [hown, drainCell]
      refine congrArg (fun t => Host.Outcome.next (respond h 0x0322 (ok t))) ?_
      show matchCell c (s.setCell c _) = _
      rcases hno with hstate | hstack | hnone
      · exact matchCell_of_ineligible (by simp [eligible, hstate])
      · exact matchCell_of_ineligible (by simp [eligible, hstack])
      · exact matchCell_of_nothing (by rw [setCell_cell]; exact hnone)
  · rw [exec_inOperate (kind := 0x0323) (own := ownCellCountersClear cell) ho rfl rfl]
    refine ⟨fun hout => ?_, fun c hc hin => ?_⟩
    · simp only [ownCellCountersClear, cellInUse_eq_none hout]
    · simp only [ownCellCountersClear, cellInUse_of_index hc hin]
      rfl

end Sys2Proof.Machine
end

section
/-! THE PROOF of O26: the queries change nothing, and their responses hold the items of their layouts, each at its
place. -/

set_option Elab.async false

namespace Sys2Proof.Machine

/-! ## Fields of a response (R186) -/

theorem byte1_length (n : Nat) : (byte1 n).length = 1 := beBytes_length 1 n
theorem flagByte_length (b : Bool) : (flagByte b).length = 1 := by cases b <;> rfl
theorem tagBytes_length (t : Tag) : (tagBytes t).length = 8 := beBytes_length ..

theorem optBytes_length (n : Nat) (o : Option Nat) : (optBytes n o).length = n + 1 := by
  cases o <;> simp [optBytes]

theorem vecBytes_length {α : Type} {m : Nat} (f : α → List Byte) (n : Nat) (hf : ∀ a, (f a).length = n)
    (v : Vector α m) : (vecBytes f v).length = n * m := by
  rw [vecBytes, flatMap_length f n _ fun a _ => hf a, Vector.length_toList]

theorem vecBytes_beBytes_length {α : Type} {m : Nat} (n : Nat) (f : α → Nat) (v : Vector α m) :
    (vecBytes (fun a => beBytes n (f a)) v).length = n * m := vecBytes_length _ n (fun _ => beBytes_length n _) v

theorem vecBytes_numbers_length {m : Nat} (n : Nat) (v : Vector Nat m) : (vecBytes (beBytes n) v).length = n * m :=
  vecBytes_beBytes_length n id v

theorem vecBytes_byte1_length {α : Type} {m : Nat} (f : α → Nat) (v : Vector α m) :
    (vecBytes (fun a => byte1 (f a)) v).length = 1 * m := vecBytes_beBytes_length 1 f v

theorem listBytes_length {α : Type} (w : Nat) (f : α → List Byte) (n : Nat) (l : List α) (hf : ∀ a ∈ l, (f a).length = n) :
    (listBytes w f l).length = w + n * l.length := by
  rw [listBytes, List.length_append, beBytes_length, flatMap_length f n l hf]

theorem numAt_byte1 (n : Nat) : numAt (byte1 n) 0 1 = n % 256 := numAt_beBytes 1 n

theorem numAt_byte1_append (n : Nat) (r : List Byte) : numAt (byte1 n ++ r) 0 1 = n % 256 := numAt_beBytes_append 1 n r

theorem numAt_flagByte (b : Bool) : numAt (flagByte b) 0 1 = if b then 1 else 0 := by cases b <;> rfl

theorem numAt_flagByte_append (b : Bool) (r : List Byte) : numAt (flagByte b ++ r) 0 1 = if b then 1 else 0 := by
  rw [numAt_append_left _ _ (by simp [flagByte_length]), numAt_flagByte]

theorem numAt_tagBytes_append (t : Tag) (r : List Byte) : numAt (tagBytes t ++ r) 0 8 = t.toNat := by
  rw [tagBytes, numAt_field_append _ _ (by decide)]

theorem numAt_append_add (l r : List Byte) {n : Nat} (i len : Nat) (h : l.length ≤ n) :
    numAt (l ++ r) (n + i) len = numAt r (n - l.length + i) len := by
  rw [numAt_append l r len (by omega), Nat.sub_add_comm h]

/-- Entry `i` of a vector written entry by entry. -/
theorem numAt_vecBytes_append {α : Type} {m : Nat} (f : α → List Byte) (n : Nat) (hf : ∀ a, (f a).length = n)
    (v : Vector α m) (r : List Byte) (i : Fin m) : numAt (vecBytes f v ++ r) (n * i.val) n = ofBytes (f v[i]) := by
  rw [vecBytes, numAt_flatMap f n hf _ _ _ (by simp), Vector.getElem_toList]
  rfl

/-- Entry `i` of a list of counts, each in `n` bytes. -/
theorem numAt_counts_append {α : Type} (f : α → Nat) (n : Nat) (l : List α) (r : List Byte) {i : Nat} (hi : i < l.length)
    (h : f l[i] < 256 ^ n) : numAt (l.flatMap (fun a => beBytes n (f a)) ++ r) (n * i) n = f l[i] := by
  rw [numAt_flatMap _ n (fun _ => beBytes_length n _) l r i hi, ofBytes_beBytes, Nat.mod_eq_of_lt h]

theorem numAt_byteCounts_append {α : Type} (f : α → Nat) (l : List α) (r : List Byte) {i : Nat} (hi : i < l.length)
    (h : f l[i] < 256) : numAt (l.flatMap (fun a => byte1 (f a)) ++ r) i 1 = f l[i] := by
  have hread := numAt_counts_append f 1 l r hi h
  rwa [Nat.one_mul] at hread

theorem countP_toList {α : Type} {n : Nat} (v : Vector α n) (p : α → Bool) :
    v.toList.countP p = (List.finRange n).countP fun i => p v[i] := by
  have hlist : v.toList = (List.finRange n).map fun i => v[i] := by
    apply List.ext_getElem <;> simp
  rw [hlist, List.countP_map]
  rfl

theorem countP_finRange_le {n : Nat} (p : Fin n → Bool) : (List.finRange n).countP p ≤ n := by
  simpa using List.countP_le_length (p := p) (l := List.finRange n)

/-! ## Lengths -/

theorem queueData_length (s : State) : (queueData s).length = 2 + 15 * s.queue.length :=
  listBytes_length 2 _ 15 _ fun l _ => by simp [queueEntryBytes, tagBytes_length, byte1_length]

theorem shipData_length (s : State) (n : ShipSlot) : (shipData s n).length = 22 + 12 * (s.ship n).members.length := by
  have hmembers : (listBytes 1 Member.bytes (s.ship n).members).length = 1 + 12 * (s.ship n).members.length :=
    listBytes_length 1 _ 12 _ fun m _ => by simp [Member.bytes, tagBytes_length, byte1_length]
  simp [shipData, tagBytes_length, byte1_length, hmembers]
  omega

theorem programBytes_length (o : Option Program) : (programBytes o).length = 8 := by cases o <;> simp [programBytes]

theorem deadlineBytes_length (now : Nat) (o : Option Deadline) : (deadlineBytes now o).length = 6 := by
  cases o <;> simp [deadlineBytes, byte1_length]

theorem cellBytes_length (now : Nat) (k : Cell) : (k.bytes now).length = 101 + k.stack.length := by
  have hstack : (listBytes 1 (fun r : RunIx => byte1 r.val) k.stack.reverse).length = 1 + 1 * k.stack.reverse.length :=
    listBytes_length 1 _ 1 _ fun r _ => byte1_length _
  unfold Cell.bytes
  dsimp only
  simp only [List.length_append, beBytes_length, byte1_length, flagByte_length, optBytes_length, programBytes_length, deadlineBytes_length, hstack,
    List.length_reverse]
  omega

theorem scopeByte_length (pos : Option RunPlace) : (scopeByte pos).length = 1 := by
  cases pos <;> simp [scopeByte, byte1_length]

theorem holdBytes_length (h : Hold) : h.bytes.length = 13 := by
  simp [Hold.bytes, byte1_length, scopeByte_length, optBytes_length]

theorem runPosByte_length (p : RunPos) : (runPosByte p).length = 1 := by cases p <;> simp [runPosByte, byte1_length]

theorem markByte_length (m : PortionMark) : (markByte m).length = 1 := by cases m <;> simp [markByte, byte1_length]

theorem ringBytes_length (e : RingEntry) : e.bytes.length = 2 := by simp [RingEntry.bytes, byte1_length]

theorem runBytes_length (x : Run) : x.bytes.length = 131 + 2 * x.ring.length + 50 := by
  have hring : (listBytes 1 RingEntry.bytes x.ring).length = 1 + 2 * x.ring.length :=
    listBytes_length 1 _ 2 _ fun e _ => ringBytes_length e
  unfold Run.bytes
  simp only [List.length_append, beBytes_length, byte1_length, flagByte_length, optBytes_length, hring,
    vecBytes_beBytes_length, vecBytes_numbers_length, vecBytes_byte1_length]
  omega

theorem lotBytes_length (now : Nat) (x : Lot) : (x.bytes now).length = 125 := by
  unfold Lot.bytes
  simp only [List.length_append, beBytes_length, tagBytes_length, byte1_length, flagByte_length, vecBytes_numbers_length,
    vecBytes_length _ 1 runPosByte_length, vecBytes_length _ 1 markByte_length]

theorem lotData_length_lt {s : State} {l : LotSlot} (hholds : (s.lot l).holds.length ≤ 29)
    (hrings : ∀ r, (s.run r).ring.length ≤ 32) : (lotData s l).length + 1 < 2048 := by
  have hopen : (openRuns s (s.lot l)).length ≤ 4 := List.length_filterMap_le ..
  have hruns : ((openRuns s (s.lot l)).flatMap Run.bytes).length ≤ 4 * 245 := by
    rw [List.length_flatMap]
    refine (List.sum_le_card_nsmul _ 245 fun n hn => ?_).trans ?_
    · obtain ⟨x, hx, rfl⟩ := List.mem_map.1 hn
      obtain ⟨p, -, hp⟩ := List.mem_filterMap.1 hx
      split at hp
      · cases hp
        rw [runBytes_length]
        have := hrings ‹_›
        omega
      · cases hp
      · cases hp
    · simp
      omega
  have hholdBytes : (listBytes 1 Hold.bytes (s.lot l).holds).length = 1 + 13 * (s.lot l).holds.length :=
    listBytes_length 1 _ 13 _ fun h _ => holdBytes_length h
  have hrunBytes : (listBytes 1 Run.bytes (openRuns s (s.lot l))).length ≤ 1 + 4 * 245 := by
    rw [listBytes, List.length_append, beBytes_length]
    omega
  simp only [lotData, List.length_append, byte1_length, lotBytes_length, flagByte_length, hholdBytes]
  omega

/-! ## STATUS, item by item (R178) -/

theorem phase_code_lt (p : Phase) : p.code % 256 = if p = .config then 0 else 1 := by cases p <;> rfl

theorem profileBytes_length (p : Profile) : p.bytes.length = 18 := by
  unfold Profile.bytes
  simp only [List.length_append, beBytes_length, byte1_length, flagByte_length]

theorem statusCounts_length (s : State) :
    (countedLotStates.flatMap fun st => beBytes 2 (lotsIn s st)).length = 12
    ∧ (allCellStates.flatMap fun st => byte1 (cellsIn s st)).length = 11
    ∧ ([ShipState.opened, .sealed, .released].flatMap fun st => byte1 (shipsIn s st)).length = 3 :=
  ⟨by rw [flatMap_length _ 2 _ fun _ _ => beBytes_length 2 _]; rfl,
    by rw [flatMap_length _ 1 _ fun _ _ => byte1_length _]; rfl,
    by rw [flatMap_length _ 1 _ fun _ _ => byte1_length _]; rfl⟩

theorem lotsIn_eq (s : State) (x : LotState) :
    lotsIn s x = (List.finRange 256).countP fun l => decide ((s.lot l).state = x) := by
  rw [lotsIn, countP_toList]
  rfl

theorem cellsIn_eq (s : State) (x : CellState) :
    cellsIn s x = (List.finRange 64).countP fun c => decide ((s.cell c).configured = true ∧ (s.cell c).state = x) := by
  rw [cellsIn, countP_toList]
  exact List.countP_congr fun c _ => by
    rw [Bool.and_eq_true, beq_iff_eq, decide_eq_true_iff]
    rfl

theorem shipsIn_eq (s : State) (x : ShipState) :
    shipsIn s x = (List.finRange 64).countP fun n => decide ((s.ship n).state = x) := by
  rw [shipsIn, countP_toList]
  rfl

theorem statusData_length (s : State) : (statusData s).length = 59 := by
  obtain ⟨hlots, hcells, hships⟩ := statusCounts_length s
  unfold statusData
  simp only [List.length_append, beBytes_length, byte1_length, flagByte_length, profileBytes_length, hlots, hcells,
    hships]

theorem statusData_profile (s : State) :
    let b := statusData s
    let p := s.profile
    numAt b 1 2 = p.partStation.toNat ∧ numAt b 3 2 = p.floorHost.toNat ∧ numAt b 5 1 = p.cellsInUse % 256
      ∧ numAt b 6 1 = p.heartbeat % 256 ∧ numAt b 7 2 = p.load % 65536 ∧ numAt b 9 2 = p.golden % 65536
      ∧ numAt b 11 1 = p.closing % 256 ∧ numAt b 12 2 = p.counts % 65536
      ∧ numAt b 14 1 = (if p.goldenAfterDown then 1 else 0) ∧ numAt b 15 1 = p.aging % 256
      ∧ numAt b 16 1 = p.lookahead % 256 ∧ numAt b 17 1 = p.escalation % 256
      ∧ numAt b 18 1 = (if p.forwardResults then 1 else 0) := by
  intro b p
  simp only [b, p]
  unfold statusData Profile.bytes
  have hpart : s.profile.partStation.toNat < 65536 := s.profile.partStation.isLt
  have hhost : s.profile.floorHost.toNat < 65536 := s.profile.floorHost.isLt
  simp [numAt_append, byte1_length, flagByte_length, numAt_byte1_append, numAt_flagByte_append, numAt_beBytes_append,
    hpart, hhost]

theorem statusData_floor (s : State) :
    let b := statusData s
    numAt b 0 1 = (if s.phase = .config then 0 else 1) ∧ numAt b 19 6 = s.floorClock.toNat
      ∧ numAt b 38 2 = s.queue.length % 65536
      ∧ numAt b 55 1 = s.noticeCount % 256 ∧ numAt b 56 1 = (if s.gapFlag then 1 else 0) := by
  obtain ⟨hlots, hcells, hships⟩ := statusCounts_length s
  have hclock : s.floorClock.toNat < 281474976710656 := s.floorClock.isLt
  intro b
  simp only [b]
  unfold statusData
  generalize (countedLotStates.flatMap fun st => beBytes 2 (lotsIn s st)) = lots at hlots
  generalize (allCellStates.flatMap fun st => byte1 (cellsIn s st)) = cells at hcells
  generalize ([ShipState.opened, .sealed, .released].flatMap fun st => byte1 (shipsIn s st)) = ships at hships
  simp [numAt_append, byte1_length, numAt_byte1_append, numAt_flagByte_append, numAt_beBytes_append,
    profileBytes_length, hlots, hcells, hships, phase_code_lt, hclock]

theorem statusData_lots (s : State) (n : Fin 6) :
    numAt (statusData s) (25 + 2 * n.val) 2 = (List.finRange 256).countP fun l => decide ((s.lot l).state =
      #v[LotState.waiting, .running, .held, .finished, .released, .scrapped][n]) := by
  have hn : n.val < countedLotStates.length := n.isLt
  have hle : lotsIn s countedLotStates[n.val] < 256 ^ 2 := by
    rw [lotsIn_eq]
    exact (countP_finRange_le _).trans_lt (by decide)
  refine Eq.trans ?_ (lotsIn_eq s countedLotStates[n.val])
  unfold statusData
  simp [numAt_append_add, byte1_length, profileBytes_length]
  exact numAt_counts_append _ 2 _ _ hn hle

theorem statusData_cells (s : State) (n : Fin 11) :
    numAt (statusData s) (41 + n.val) 1 = (List.finRange 64).countP fun c => decide ((s.cell c).configured = true
      ∧ (s.cell c).state = #v[CellState.offline, .idle, .changeover, .loading, .golden, .running, .pausing, .stopped, .down,
        .lost, .quarantined][n]) := by
  obtain ⟨hlots, -, -⟩ := statusCounts_length s
  have hn : n.val < allCellStates.length := n.isLt
  have hle : cellsIn s allCellStates[n.val] < 256 := by
    rw [cellsIn_eq]
    exact (countP_finRange_le _).trans_lt (by decide)
  refine Eq.trans ?_ (cellsIn_eq s allCellStates[n.val])
  unfold statusData
  generalize (countedLotStates.flatMap fun st => beBytes 2 (lotsIn s st)) = lots at hlots
  simp [numAt_append_add, byte1_length, profileBytes_length, hlots]
  exact numAt_byteCounts_append _ _ _ hn hle

theorem statusData_ships (s : State) (n : Fin 3) :
    numAt (statusData s) (52 + n.val) 1 = (List.finRange 64).countP fun i => decide ((s.ship i).state =
      #v[ShipState.opened, .sealed, .released][n]) := by
  obtain ⟨hlots, hcells, -⟩ := statusCounts_length s
  have hn : n.val < [ShipState.opened, .sealed, .released].length := n.isLt
  have hle : shipsIn s [ShipState.opened, .sealed, .released][n.val] < 256 := by
    rw [shipsIn_eq]
    exact (countP_finRange_le _).trans_lt (by decide)
  refine Eq.trans ?_ (shipsIn_eq s [ShipState.opened, .sealed, .released][n.val])
  unfold statusData
  generalize (countedLotStates.flatMap fun st => beBytes 2 (lotsIn s st)) = lots at hlots
  generalize (allCellStates.flatMap fun st => byte1 (cellsIn s st)) = cells at hcells
  have hread := numAt_byteCounts_append (shipsIn s) [ShipState.opened, .sealed, .released]
  simp [numAt_append_add, byte1_length, profileBytes_length, hlots, hcells] at hread ⊢
  exact hread _ hn hle

theorem statusData_tables (s : State) :
    let b := statusData s
    numAt b 37 1 = ((List.finRange 192).countP fun r => decide ((s.run r).state ≠ .free))
      ∧ numAt b 40 1 = ((List.finRange 64).countP fun c => decide ((s.cell c).configured = true))
      ∧ numAt b 57 1 = ((List.finRange 48).countP fun i => decide ((s.route i).steps ≠ []))
      ∧ numAt b 58 1 = ((List.finRange 64).countP fun i => decide ((s.limit i).loaded = true)) := by
  obtain ⟨hlots, hcells, hships⟩ := statusCounts_length s
  have hruns : (s.runs.toList.countP fun x => x.state != .free)
      = (List.finRange 192).countP fun r => decide ((s.run r).state ≠ .free) := by
    rw [countP_toList]
    exact List.countP_congr fun r _ => by rw [decide_eq_true_iff]; exact bne_iff_ne
  have hconfigured : (s.cells.toList.countP fun k => k.configured)
      = (List.finRange 64).countP fun c => decide ((s.cell c).configured = true) := by
    rw [countP_toList]
    exact List.countP_congr fun r _ => by rw [decide_eq_true_iff]; rfl
  have hroutes : (s.routes.toList.countP fun r => !r.steps.isEmpty)
      = (List.finRange 48).countP fun i => decide ((s.route i).steps ≠ []) := by
    rw [countP_toList]
    exact List.countP_congr fun r _ => by
      rw [decide_eq_true_iff, Bool.not_eq_true', List.isEmpty_eq_false_iff]
      rfl
  have hlimits : (s.limits.toList.countP fun x => x.loaded)
      = (List.finRange 64).countP fun i => decide ((s.limit i).loaded = true) := by
    rw [countP_toList]
    exact List.countP_congr fun r _ => by rw [decide_eq_true_iff]; rfl
  intro b
  simp only [b]
  unfold statusData
  rw [hruns, hconfigured, hroutes, hlimits]
  have hle {n : Nat} (hn : n < 256) (p : Fin n → Bool) : (List.finRange n).countP p % 256 = (List.finRange n).countP p :=
    Nat.mod_eq_of_lt ((countP_finRange_le p).trans_lt hn)
  generalize (countedLotStates.flatMap fun st => beBytes 2 (lotsIn s st)) = lots at hlots
  generalize (allCellStates.flatMap fun st => byte1 (cellsIn s st)) = cells at hcells
  generalize ([ShipState.opened, .sealed, .released].flatMap fun st => byte1 (shipsIn s st)) = ships at hships
  simp only [List.append_assoc]
  refine ⟨?_, ?_, ?_, ?_⟩ <;>
    simp [-ne_eq, -decide_not, numAt_append, byte1_length, flagByte_length, numAt_byte1_append, numAt_byte1,
      profileBytes_length, hlots, hcells, hships, hle]

/-! ## LOT_QUERY, item by item (R28) -/

theorem lotData_start (s : State) (l : LotSlot) :
    let b := lotData s l
    let x := s.lot l
    let flag : Bool → Nat := fun c => if c then 1 else 0
    numAt b 0 1 = l.val ∧ numAt b 1 8 = x.tag.toNat ∧ numAt b 9 1 = x.route.val ∧ numAt b 10 1 = x.state.code
    ∧ numAt b 11 1 = x.step % 256 ∧ numAt b 12 1 = x.split % 256 ∧ numAt b 13 1 = x.runsPerStep % 256
    ∧ numAt b 14 1 = x.cls % 256 ∧ numAt b 15 4 = min 4294967295 (s.timer - x.classSince)
    ∧ numAt b 19 1 = flag x.preempt ∧ numAt b 20 4 = x.queueSeq % 4294967296
    ∧ numAt b 24 3 = x.started % 16777216 ∧ numAt b 27 3 = x.q % 16777216 ∧ numAt b 30 1 = x.toAssign % 256 := by
  intro b x flag
  have hl : l.val % 256 = l.val := Nat.mod_eq_of_lt l.isLt
  have hroute : x.route.val % 256 = x.route.val := Nat.mod_eq_of_lt (x.route.isLt.trans (by decide))
  have hstate : x.state.code % 256 = x.state.code := by cases x.state <;> rfl
  have hage : ageNat s.timer x.classSince % 4294967296 = min 4294967295 (s.timer - x.classSince) :=
    Nat.mod_eq_of_lt (by unfold ageNat; omega)
  simp only [b, lotData]
  unfold Lot.bytes
  simp only [List.append_assoc]
  refine ⟨?_, ?_, ?_, ?_, ?_, ?_, ?_, ?_, ?_, ?_, ?_, ?_, ?_, ?_⟩ <;>
    simp [numAt_append, byte1_length, flagByte_length, tagBytes_length, numAt_byte1_append, numAt_flagByte_append,
      numAt_tagBytes_append, numAt_beBytes_append, hl, hroute, hstate, hage, flag, x]

theorem vecRunPos_length (v : Vector RunPos 4) : (vecBytes runPosByte v).length = 4 :=
  vecBytes_length _ 1 runPosByte_length v

theorem vecMark_length (v : Vector PortionMark 4) : (vecBytes markByte v).length = 4 :=
  vecBytes_length _ 1 markByte_length v

theorem numAt_vecByte_append {α : Type} {m : Nat} (f : α → List Byte) (hf : ∀ a, (f a).length = 1)
    (v : Vector α m) (r : List Byte) (i : Fin m) : numAt (vecBytes f v ++ r) i.val 1 = ofBytes (f v[i]) := by
  have hread := numAt_vecBytes_append f 1 hf v r i
  rwa [Nat.one_mul] at hread

theorem numAt_vecNumber_append {m : Nat} (n : Nat) (v : Vector Nat m) (r : List Byte) (i : Fin m) :
    numAt (vecBytes (beBytes n) v ++ r) (n * i.val) n = v[i] % 256 ^ n := by
  rw [numAt_vecBytes_append (beBytes n) n (beBytes_length n), ofBytes_beBytes]

theorem ofBytes_byte1 {n : Nat} (h : n < 256) : ofBytes (byte1 n) = n := by
  rw [byte1, ofBytes_beBytes]
  exact Nat.mod_eq_of_lt h

theorem ofBytes_byte1_mod (n : Nat) : ofBytes (byte1 n) = n % 256 := ofBytes_beBytes 1 n

theorem ofBytes_runPosByte (p : RunPos) : ofBytes (runPosByte p) =
    match p with
    | .run r => r.val
    | .closed => 0xFE
    | .absent => 0xFF := by
  cases p with
  | run r => exact ofBytes_byte1 (r.isLt.trans (by decide))
  | closed => rfl
  | absent => rfl

theorem ofBytes_markByte (m : PortionMark) : ofBytes (markByte m) =
    match m with
    | .inShipment n => n.val
    | .free => 0x40
    | .released => 0x41 := by
  cases m with
  | inShipment n => exact ofBytes_byte1 (n.isLt.trans (by decide))
  | free => rfl
  | released => rfl

theorem lotData_vectors (s : State) (l : LotSlot) :
    let b := lotData s l
    let x := s.lot l
    (∀ p : Fin 4, numAt b (31 + p.val) 1 = ofBytes (runPosByte x.runs[p]))
    ∧ (∀ h : Fin 15, numAt b (43 + 3 * h.val) 3 = x.figures.bins[h] % 16777216)
    ∧ (∀ g : Fin 4, numAt b (94 + 3 * g.val) 3 = x.figures.gradeSums[g] % 16777216)
    ∧ (∀ g : Fin 4, numAt b (110 + 3 * g.val) 3 = x.gradeQty[g] % 16777216)
    ∧ (∀ g : Fin 4, numAt b (122 + g.val) 1 = ofBytes (markByte x.marks[g])) := by
  intro b x
  simp only [b, lotData]
  unfold Lot.bytes
  simp only [List.append_assoc]
  refine ⟨fun p => ?_, fun h => ?_, fun g => ?_, fun g => ?_, fun g => ?_⟩ <;>
    simp [numAt_append_add, byte1_length, flagByte_length, tagBytes_length, vecRunPos_length, vecBytes_numbers_length,
      numAt_vecByte_append _ runPosByte_length, numAt_vecByte_append _ markByte_length, numAt_vecNumber_append, x]

theorem lotData_figures (s : State) (l : LotSlot) :
    let b := lotData s l
    let x := s.lot l
    let f := x.figures
    let flag : Bool → Nat := fun c => if c then 1 else 0
    numAt b 35 1 = x.closedRuns % 256 ∧ numAt b 36 1 = flag x.stepStarted
    ∧ numAt b 37 3 = f.tested % 16777216 ∧ numAt b 40 3 = f.good % 16777216
    ∧ numAt b 88 3 = f.goodFinal % 16777216 ∧ numAt b 91 3 = f.fedSum % 16777216
    ∧ numAt b 106 1 = flag x.yieldWaived ∧ numAt b 107 1 = flag x.binWaived ∧ numAt b 108 1 = flag x.stepClosed
    ∧ numAt b 109 1 = flag x.routeComplete
    ∧ numAt b 126 1 = flag (s.queue.contains l) ∧ numAt b 127 1 = x.holds.length % 256 := by
  intro b x f flag
  simp only [b, lotData]
  unfold Lot.bytes listBytes
  simp only [List.append_assoc]
  refine ⟨?_, ?_, ?_, ?_, ?_, ?_, ?_, ?_, ?_, ?_, ?_, ?_⟩ <;>
    simp [numAt_append, byte1_length, flagByte_length, tagBytes_length, vecRunPos_length, vecMark_length,
      vecBytes_numbers_length, numAt_byte1_append, numAt_flagByte_append, numAt_beBytes_append, flag, x, f]

theorem openRuns_eq (s : State) (x : Lot) :
    openRuns s x = ((List.finRange 4).filterMap x.openAt).map s.run := by
  rw [openRuns, List.map_filterMap]
  refine List.filterMap_congr fun p _ => ?_
  rw [Lot.openAt]
  cases x.runs[p] <;> rfl

/-- The part of a LOT_QUERY response before its hold records. -/
def lotHead (s : State) (l : LotSlot) : List Byte :=
  byte1 l.val ++ (s.lot l).bytes s.timer ++ flagByte (s.queue.contains l) ++ beBytes 1 (s.lot l).holds.length

theorem lotHead_length (s : State) (l : LotSlot) : (lotHead s l).length = 128 := by
  simp only [lotHead, List.length_append, byte1_length, lotBytes_length, flagByte_length, beBytes_length]

theorem lotData_eq (s : State) (l : LotSlot) :
    lotData s l = lotHead s l ++ ((s.lot l).holds.flatMap Hold.bytes ++ listBytes 1 Run.bytes (openRuns s (s.lot l))) := by
  simp only [lotData, lotHead, listBytes, List.append_assoc]

theorem lotData_drop (s : State) (l : LotSlot) :
    (lotData s l).drop (128 + 13 * (s.lot l).holds.length) =
      BitVec.ofNat 8 ((List.finRange 4).filterMap (s.lot l).openAt).length
        :: ((List.finRange 4).filterMap (s.lot l).openAt).flatMap fun r => (s.run r).bytes := by
  rw [lotData_eq, ← List.append_assoc, List.drop_left' (by
    rw [List.length_append, lotHead_length, flatMap_length _ 13 _ fun h _ => holdBytes_length h]), listBytes,
    openRuns_eq, List.length_map, List.flatMap_map]
  exact congrArg (· ++ _) (byte1_eq _)

/-- A field within entry `i` of a list whose every entry takes `n` bytes. -/
theorem numAt_flatMap_field {α : Type} (f : α → List Byte) {n off len : Nat} (hf : ∀ a, (f a).length = n)
    (hin : off + len ≤ n) (l : List α) (r : List Byte) {i : Nat} {a : α} (hi : l[i]? = some a) :
    numAt (l.flatMap f ++ r) (n * i + off) len = numAt (f a) off len := by
  induction l generalizing i with
  | nil => simp at hi
  | cons x l ih =>
    rw [List.flatMap_cons, List.append_assoc]
    cases i with
    | zero =>
      obtain rfl : x = a := by simpa using hi
      rw [Nat.mul_zero, Nat.zero_add, numAt_append_left _ _ (by rw [hf]; exact hin)]
    | succ i =>
      rw [Nat.mul_succ, Nat.add_right_comm, numAt_append _ _ _ (by rw [hf]; exact Nat.le_add_left ..), hf,
        Nat.add_sub_cancel, ih (by simpa using hi)]

theorem numAt_optBytes_present (n : Nat) (o : Option Nat) (r : List Byte) :
    numAt (optBytes n o ++ r) 0 1 = if o.isSome then 1 else 0 := by
  cases o <;> exact numAt_byte ..

theorem numAt_optBytes_value (n : Nat) (o : Option Nat) (r : List Byte) :
    numAt (optBytes n o ++ r) 1 n = o.getD 0 % 256 ^ n := by
  cases o with
  | none =>
    have hzero : ofBytes (List.replicate n (0 : Byte)) = 0 := by
      induction n with
      | zero => rfl
      | succ n ih => rw [List.replicate_succ, ofBytes_cons, ih]; simp
    rw [optBytes, List.cons_append, numAt_cons _ _ _ (by decide), numAt_append_left _ _ (by simp),
      numAt_whole _ (by simp), hzero]
    simp
  | some v => rw [optBytes, List.cons_append, numAt_cons _ _ _ (by decide), numAt_beBytes_append]; rfl

theorem scopeByte_eq (pos : Option RunPlace) : ofBytes (scopeByte pos) =
    match pos with
    | some p => p.val
    | none => 0xFF := by
  cases pos with
  | none => rfl
  | some p => exact ofBytes_byte1 (p.isLt.trans (by decide))

/-- A hold record in the field order of Table 1-4. -/
theorem holdBytes_fields (h : Hold) :
    numAt h.bytes 0 1 = h.kind.code ∧ numAt h.bytes 1 1 = ofBytes (scopeByte h.pos) ∧ numAt h.bytes 2 1 = h.policy.code
      ∧ numAt h.bytes 3 1 = h.step % 256 ∧ numAt h.bytes 4 6 = h.floorTime.toNat
      ∧ numAt h.bytes 10 1 = (if h.value.isSome then 1 else 0) ∧ numAt h.bytes 11 2 = h.value.getD 0 % 65536 := by
  have hkind : h.kind.code % 256 = h.kind.code := by cases h.kind <;> rfl
  have hpolicy : h.policy.code % 256 = h.policy.code := by cases h.policy <;> rfl
  have htime : h.floorTime.toNat < 281474976710656 := h.floorTime.isLt
  have hscope (r : List Byte) : numAt (scopeByte h.pos ++ r) 0 1 = ofBytes (scopeByte h.pos) := by
    rw [numAt_append_left _ _ (by rw [scopeByte_length]), numAt_whole _ (scopeByte_length _)]
  have hpresent := numAt_optBytes_present 2 h.value []
  have hvalue := numAt_optBytes_value 2 h.value []
  rw [List.append_nil] at hpresent hvalue
  unfold Hold.bytes
  simp only [List.append_assoc]
  refine ⟨?_, ?_, ?_, ?_, ?_, ?_, ?_⟩ <;>
    simp [numAt_append, byte1_length, scopeByte_length, numAt_byte1_append, numAt_beBytes_append, hkind, hpolicy, hscope,
      htime, hpresent, hvalue]

/-- A hold record of a LOT_QUERY response. -/
theorem lotData_hold {s : State} {l : LotSlot} {n : Nat} {h : Hold} (hn : (s.lot l).holds[n]? = some h) {off len : Nat}
    (hin : off + len ≤ 13) : numAt (lotData s l) (128 + 13 * n + off) len = numAt h.bytes off len := by
  rw [lotData_eq, numAt_append _ _ _ (by rw [lotHead_length]; omega), lotHead_length,
    show 128 + 13 * n + off - 128 = 13 * n + off by omega, numAt_flatMap_field _ holdBytes_length hin _ _ hn]

/-! ## A run record, item by item (R136) -/

/-- The part of a run record before its ledger. -/
def Run.bytesHead (x : Run) : List Byte :=
  byte1 x.lot.val ++ byte1 x.pos.val ++ byte1 x.cell.val ++ byte1 x.state.code
    ++ optBytes 1 (x.stoppedFrom.map ActiveState.code) ++ optBytes 1 (x.suspendedFrom.map ActiveState.code)
    ++ byte1 x.pass ++ beBytes 3 x.tested ++ beBytes 3 x.good ++ beBytes 3 x.recovered
    ++ vecBytes (fun f => beBytes 3 f.tested) x.sites ++ vecBytes (fun f => beBytes 3 f.fail) x.sites
    ++ vecBytes (fun f => byte1 f.streak) x.sites ++ beBytes 1 x.ring.length

/-- The part of a run record from its ledger on. -/
def Run.bytesTail (x : Run) : List Byte :=
  vecBytes (beBytes 3) x.ledger ++ beBytes 3 x.outstanding ++ beBytes 3 x.shortfall ++ beBytes 3 x.surplus
    ++ optBytes 3 x.handlerFed ++ optBytes 2 (x.target.map BitVec.toNat) ++ flagByte x.targetReached
    ++ beBytes 2 x.sinceGolden ++ optBytes 6 (x.startTime.map BitVec.toNat)

theorem runBytes_eq (x : Run) : x.bytes = x.bytesHead ++ (x.ring.flatMap RingEntry.bytes ++ x.bytesTail) := by
  unfold Run.bytes Run.bytesHead Run.bytesTail listBytes
  simp only [List.append_assoc]

theorem runBytesHead_length (x : Run) : x.bytesHead.length = 131 := by
  unfold Run.bytesHead
  simp only [List.length_append, beBytes_length, byte1_length, optBytes_length, vecBytes_beBytes_length,
    vecBytes_byte1_length]

theorem runBytes_drop (x : Run) : x.bytes.drop (131 + 2 * x.ring.length) = x.bytesTail := by
  rw [runBytes_eq, ← List.append_assoc]
  exact List.drop_left' (by rw [List.length_append, runBytesHead_length, flatMap_length _ 2 _ fun e _ => ringBytes_length e])

theorem runBytes_head {x : Run} {off len : Nat} (h : off + len ≤ 131) :
    numAt x.bytes off len = numAt x.bytesHead off len := by
  rw [runBytes_eq, numAt_append_left _ _ (by rw [runBytesHead_length]; exact h)]

/-- A stopped-from or suspended-from state and its presence byte, as one number. -/
theorem numAt_activeState (o : Option ActiveState) (r : List Byte) :
    numAt (optBytes 1 (o.map ActiveState.code) ++ r) 0 2 =
      match o with
      | some .testing => 0x0102
      | some .closing => 0x0103
      | none => 0 := by
  rw [numAt_append_left _ _ (by rw [optBytes_length]), numAt_whole _ (optBytes_length ..)]
  match o with
  | some .testing => rfl
  | some .closing => rfl
  | none => rfl

theorem runBytes_start (x : Run) :
    numAt x.bytes 0 1 = x.lot.val ∧ numAt x.bytes 1 1 = x.pos.val ∧ numAt x.bytes 2 1 = x.cell.val
      ∧ numAt x.bytes 3 1 = x.state.code ∧ numAt x.bytes 8 1 = x.pass % 256
      ∧ numAt x.bytes 9 3 = x.tested % 16777216 ∧ numAt x.bytes 12 3 = x.good % 16777216
      ∧ numAt x.bytes 15 3 = x.recovered % 16777216 ∧ numAt x.bytes 130 1 = x.ring.length % 256 := by
  have hlot : x.lot.val % 256 = x.lot.val := Nat.mod_eq_of_lt x.lot.isLt
  have hpos : x.pos.val % 256 = x.pos.val := Nat.mod_eq_of_lt (x.pos.isLt.trans (by decide))
  have hcell : x.cell.val % 256 = x.cell.val := Nat.mod_eq_of_lt (x.cell.isLt.trans (by decide))
  have hstate : x.state.code % 256 = x.state.code := by cases x.state <;> rfl
  refine ⟨?_, ?_, ?_, ?_, ?_, ?_, ?_, ?_, ?_⟩ <;> rw [runBytes_head (by decide)] <;> unfold Run.bytesHead <;>
    simp [numAt_append, byte1_length, optBytes_length, vecBytes_beBytes_length, vecBytes_byte1_length, numAt_byte1_append,
      numAt_beBytes_append, numAt_beBytes, hlot, hpos, hcell, hstate]

theorem runBytes_parked (x : Run) :
    numAt x.bytes 4 2 = numAt (optBytes 1 (x.stoppedFrom.map ActiveState.code) ++ []) 0 2
      ∧ numAt x.bytes 6 2 = numAt (optBytes 1 (x.suspendedFrom.map ActiveState.code) ++ []) 0 2 := by
  have hfield (o : Option ActiveState) (r : List Byte) : numAt (optBytes 1 (o.map ActiveState.code) ++ r) 0 2
      = numAt (optBytes 1 (o.map ActiveState.code)) 0 2 := numAt_append_left _ _ (by rw [optBytes_length])
  constructor <;> rw [runBytes_head (by decide)] <;> unfold Run.bytesHead <;>
    simp [numAt_append, byte1_length, optBytes_length, hfield]

theorem runBytes_sites (x : Run) (a : Fin 16) :
    numAt x.bytes (18 + 3 * a.val) 3 = x.sites[a].tested % 16777216
      ∧ numAt x.bytes (66 + 3 * a.val) 3 = x.sites[a].fail % 16777216
      ∧ numAt x.bytes (114 + a.val) 1 = x.sites[a].streak % 256 := by
  have ha := a.isLt
  have htested (r : List Byte) := numAt_vecBytes_append (fun f : SiteFigures => beBytes 3 f.tested) 3
    (fun _ => beBytes_length 3 _) x.sites r a
  have hfail (r : List Byte) := numAt_vecBytes_append (fun f : SiteFigures => beBytes 3 f.fail) 3
    (fun _ => beBytes_length 3 _) x.sites r a
  have hstreak (r : List Byte) := numAt_vecByte_append (fun f : SiteFigures => byte1 f.streak)
    (fun _ => byte1_length _) x.sites r a
  refine ⟨?_, ?_, ?_⟩ <;> rw [runBytes_head (by omega)] <;> unfold Run.bytesHead <;>
    simp [numAt_append_add, byte1_length, optBytes_length, vecBytes_beBytes_length, htested, hfail, hstreak,
      ofBytes_byte1_mod, ofBytes_beBytes]

theorem runBytes_ring {x : Run} {n : Nat} {e : RingEntry} (hn : x.ring[n]? = some e) :
    numAt x.bytes (131 + 2 * n) 1 = e.tested % 256 ∧ numAt x.bytes (132 + 2 * n) 1 = e.good % 256 := by
  have hentry {off : Nat} (hin : off + 1 ≤ 2) : numAt x.bytes (131 + (2 * n + off)) 1 = numAt e.bytes off 1 := by
    rw [runBytes_eq, numAt_append_add _ _ _ _ (runBytesHead_length x).le, runBytesHead_length, Nat.sub_self, Nat.zero_add,
      numAt_flatMap_field _ ringBytes_length hin _ _ hn]
  constructor
  · rw [← Nat.add_zero (2 * n), hentry (by decide)]
    exact numAt_byte1_append ..
  · rw [show 132 + 2 * n = 131 + (2 * n + 1) by omega, hentry (by decide), RingEntry.bytes,
      numAt_append _ _ _ (byte1_length _).le, byte1_length]
    exact numAt_byte1 _

theorem runBytes_tail (x : Run) :
    let tail := x.bytesTail
    (∀ t : Fin 8, numAt tail (3 * t.val) 3 = x.ledger[t] % 16777216)
    ∧ numAt tail 24 3 = x.outstanding % 16777216 ∧ numAt tail 27 3 = x.shortfall % 16777216
    ∧ numAt tail 30 3 = x.surplus % 16777216
    ∧ numAt tail 33 1 = (if x.handlerFed.isSome then 1 else 0)
    ∧ numAt tail 34 3 = x.handlerFed.getD 0 % 16777216
    ∧ numAt tail 37 1 = (if x.target.isSome then 1 else 0) ∧ numAt tail 38 2 = (x.target.getD 0).toNat
    ∧ numAt tail 40 1 = (if x.targetReached then 1 else 0) ∧ numAt tail 41 2 = x.sinceGolden % 65536
    ∧ numAt tail 43 1 = (if x.startTime.isSome then 1 else 0) ∧ numAt tail 44 6 = (x.startTime.getD 0).toNat := by
  intro tail
  have hoptional {w : Nat} (o : Option (BitVec w)) : (o.map BitVec.toNat).getD 0 = (o.getD 0).toNat := by cases o <;> rfl
  have htarget : (x.target.getD 0#16).toNat < 65536 := (x.target.getD 0#16).isLt
  have htime : (x.startTime.getD 0#48).toNat < 281474976710656 := (x.startTime.getD 0#48).isLt
  have hpresent := numAt_optBytes_present 6 (x.startTime.map BitVec.toNat) []
  have hvalue := numAt_optBytes_value 6 (x.startTime.map BitVec.toNat) []
  rw [List.append_nil] at hpresent hvalue
  simp only [tail]
  unfold Run.bytesTail
  simp only [List.append_assoc]
  refine ⟨fun t => ?_, ?_, ?_, ?_, ?_, ?_, ?_, ?_, ?_, ?_, ?_, ?_⟩ <;>
    simp [-Option.getD_map, numAt_append, flagByte_length, optBytes_length, vecBytes_numbers_length, numAt_flagByte_append,
      numAt_beBytes_append, numAt_vecNumber_append, numAt_optBytes_present, numAt_optBytes_value, hoptional, htarget, htime,
      hpresent, hvalue]

/-! ## O26 -/

theorem ownCellQuery_of_index {s : State} {b : Byte} {c : CellIx} (hc : c.val = b.toNat)
    (h : c.val < s.profile.cellsInUse) : ownCellQuery b s = okWith ((s.cell c).bytes s.timer) s := by
  rw [ownCellQuery, cellInUse_of_index hc h]

theorem ownCellQuery_of_out {s : State} {b : Byte} (h : s.profile.cellsInUse ≤ b.toNat) :
    ownCellQuery b s = refuse .range s := by
  rw [ownCellQuery, cellInUse_eq_none h]

/-- The queries are answered by their own rules. -/
theorem queries_answer (h : ReqHead) (tag : Tag) (cell : Byte) (s : State) :
    (inOperate (.lotQuery h tag) h s → exec (.lotQuery h tag) s = .next (respond h 0x0316 (ownLotQuery tag s)))
    ∧ (inOperate (.shipQuery h tag) h s → exec (.shipQuery h tag) s = .next (respond h 0x0337 (ownShipQuery tag s)))
    ∧ (inOperate (.cellQuery h cell) h s → exec (.cellQuery h cell) s = .next (respond h 0x0324 (ownCellQuery cell s)))
    ∧ (inOperate (.queueQuery h) h s → exec (.queueQuery h) s = .next (respond h 0x0340 (okWith (queueData s) s)))
    ∧ (admitted (.status h) h s → exec (.status h) s = .next (respond h 0x0341 (okWith (statusData s) s))) :=
  ⟨fun ho => exec_inOperate ho rfl rfl, fun ho => exec_inOperate ho rfl rfl, fun ho => exec_inOperate ho rfl rfl,
    fun ho => exec_inOperate (own := fun s => okWith (queueData s) s) ho rfl rfl,
    fun ha => congrArg Host.Outcome.next
      (serve_of_admitted (own := fun s => okWith (statusData s) s) ha (fun _ => rfl) fun _ => rfl)⟩

/-- Settles O26. -/
theorem queriesChangeNothing : Obligations.QueriesChangeNothing := by
  refine ⟨fun h tag cell s => ?_, ⟨queueData_length, shipData_length, fun s c => cellBytes_length s.timer (s.cell c),
    fun s l => lotData_length_lt⟩, fun s => ?_, fun s l => ?_, fun run => ?_⟩
  · obtain ⟨hlot, hship, hcell, hqueue, hstatus⟩ := queries_answer h tag cell s
    refine ⟨fun ho => ?_, fun ho => ?_, fun ho => ⟨fun hout => ?_, fun c hc hin => ?_⟩, hqueue, hstatus⟩
    · rw [hlot ho, ownLotQuery]
      cases findLot s tag <;> rfl
    · rw [hship ho, ownShipQuery]
      cases findShip s tag <;> rfl
    · rw [hcell ho, ownCellQuery_of_out hout]
    · rw [hcell ho, ownCellQuery_of_index hc hin]
  · obtain ⟨hphase, hclock, hqueue, hnotices, hgap⟩ := statusData_floor s
    obtain ⟨hruns, hconfigured, hroutes, hlimits⟩ := statusData_tables s
    exact ⟨statusData_length s, hphase, statusData_profile s, hclock, statusData_lots s, hruns, hqueue, hconfigured,
      statusData_cells s, statusData_ships s, hnotices, hgap, hroutes, hlimits⟩
  · obtain ⟨h1, h2, h3, h4, h5, h6, h7, h8, h9, h10, h11, h12, h13, h14⟩ := lotData_start s l
    obtain ⟨hruns, hbins, hgrades, hqty, hmarks⟩ := lotData_vectors s l
    obtain ⟨hclosed, hstarted, htested, hgood, hfinal, hfed, hyield, hbin, hstep, hroute, hqueued, hholds⟩ :=
      lotData_figures s l
    refine ⟨h1, h2, h3, h4, h5, h6, h7, h8, h9, h10, h11, h12, h13, h14, fun p => ?_, hclosed, hstarted, htested, hgood,
      hbins, hfinal, hfed, hgrades, hyield, hbin, hstep, hroute, hqty, fun g => ?_, hqueued, hholds, fun n h hn => ?_,
      lotData_drop s l⟩
    · exact (hruns p).trans (ofBytes_runPosByte _)
    · exact (hmarks g).trans (ofBytes_markByte _)
    · obtain ⟨hkind, hpos, hpolicy, hatStep, htime, hpresent, hvalue⟩ := holdBytes_fields h
      exact ⟨(lotData_hold hn (off := 0) (by decide)).trans hkind,
        (lotData_hold hn (by decide)).trans (hpos.trans (scopeByte_eq _)),
        (lotData_hold hn (by decide)).trans hpolicy, (lotData_hold hn (by decide)).trans hatStep,
        (lotData_hold hn (by decide)).trans htime, (lotData_hold hn (by decide)).trans hpresent,
        (lotData_hold hn (by decide)).trans hvalue⟩
  · intro b after tail from'
    obtain ⟨hlot, hpos, hcell, hstate, hpass, htested, hgood, hrecovered, hring⟩ := runBytes_start run
    obtain ⟨hstopped, hsuspended⟩ := runBytes_parked run
    have htail : tail = run.bytesTail := runBytes_drop run
    rw [htail]
    exact ⟨runBytes_length run, hlot, hpos, hcell, hstate, hstopped.trans (numAt_activeState _ _),
      hsuspended.trans (numAt_activeState _ _), hpass, htested, hgood, hrecovered, runBytes_sites run, hring,
      fun n e hn => runBytes_ring hn, runBytes_tail run⟩

end Sys2Proof.Machine
end

section
/-! SUPPORT. What the shared operations of the dispatch queue and of the lots do where nothing is there to match: the rules
by which the statements about requests and reports are computed. -/

set_option Elab.async false

namespace Sys2Proof.Machine

/-! ## No cell for a lot (R118, R120, R124) -/

theorem bestCell_of_noCell {l : LotSlot} {s : State} (h : noCellFor (stepOf s (s.lot l)) s) : bestCell s l = none := by
  have hnone : ((List.finRange 64).filter fun c => eligible (s.cell c) && compatible (s.cell c) (stepOf s (s.lot l))) = [] :=
    List.filter_eq_nil_iff.2 fun c _ hc => by
      rw [Bool.and_eq_true] at hc
      simp [h c hc.1] at hc
  rw [bestCell, hnone]
  rfl

theorem matchRounds_of_noCell (n : Nat) {l : LotSlot} {s : State} (h : noCellFor (stepOf s (s.lot l)) s) :
    matchRounds n l s = s := by
  cases n with
  | zero => rfl
  | succ n =>
    rw [matchRounds, bestCell_of_noCell h]
    exact ite_self s

theorem matchLot_of_noCell {l : LotSlot} {s : State} (h : noCellFor (stepOf s (s.lot l)) s) : matchLot l s = s :=
  matchRounds_of_noCell _ h

theorem searchRounds_of_none (n : Nat) {l : LotSlot} {s : State} (h : ∀ c, preemptable s (stepOf s (s.lot l)) c = false) :
    searchRounds n l s = s := by
  have hnone : ((List.finRange 64).filter fun c => preemptable s (stepOf s (s.lot l)) c) = [] :=
    List.filter_eq_nil_iff.2 fun c _ hc => by simp [h c] at hc
  have hbest : bestCandidate s l = none := by rw [bestCandidate, hnone]; rfl
  cases n with
  | zero => rfl
  | succ n =>
    rw [searchRounds, hbest]
    exact ite_self s

theorem preemptSearch_of_noCandidate {l : LotSlot} {s : State}
    (h : noCandidateFor (s.lot l).cls (s.lot l).preempt (stepOf s (s.lot l)) s) : preemptSearch l s = s := by
  rw [preemptSearch]
  split
  · next hhot => exact searchRounds_of_none _ (h hhot.1 hhot.2)
  · rfl

/-- The search for candidates reads the cells, the runs, and the classes of the lots (R125). -/
theorem preemptable_congr {s t : State} {st : Step} (hcell : t.cells = s.cells) (hrun : t.runs = s.runs)
    (hcls : ∀ l, (t.lot l).cls = (s.lot l).cls) (c : CellIx) : preemptable t st c = preemptable s st c := by
  have hcell (c : CellIx) : t.cell c = s.cell c := by rw [State.cell, hcell, State.cell]
  have hrun (r : RunIx) : t.run r = s.run r := by rw [State.run, hrun, State.run]
  rw [preemptable, preemptable, hcell]
  cases (s.cell c).current with
  | none => rfl
  | some r => simp only [hrun, lotOfRun, hcls]

theorem noCandidateFor_congr {s t : State} {cls : Nat} {preempt : Bool} {st : Step} (hcell : t.cells = s.cells)
    (hrun : t.runs = s.runs) (hcls : ∀ l, (t.lot l).cls = (s.lot l).cls) (h : noCandidateFor cls preempt st s) :
    noCandidateFor cls preempt st t :=
  fun h0 hp c => (preemptable_congr hcell hrun hcls c).trans (h h0 hp c)

theorem noCellFor_congr {s t : State} {st : Step} (hcell : t.cells = s.cells) (h : noCellFor st s) : noCellFor st t := by
  intro c
  rw [State.cell, hcell]
  exact h c

theorem stepOf_congr {s t : State} {x y : Lot} (hroutes : t.routes = s.routes) (hroute : y.route = x.route)
    (hstep : y.step = x.step) : stepOf t y = stepOf s x := by
  rw [stepOf, stepOf, State.route, State.route, hroutes, hroute, hstep]

/-! ## Entering, leaving and moving in the queue (R6, R116, R117) -/

theorem ageAtEntry_of_notAging {l : LotSlot} {s : State} (h : notAging (s.lot l) s) : ageAtEntry l s = s := by
  have hno : agingDue s l = false := by
    rw [Bool.eq_false_iff]
    simp only [agingDue, ne_eq, Bool.and_eq_true, bne_iff_ne, Bool.or_eq_true, beq_iff_eq, decide_eq_true_eq]
    rcases h with h | h | h | h <;> omega
  rw [ageAtEntry, hno]
  rfl

/-- A lot enters the queue where no cell can take it (R116, R117, R120, R124). -/
theorem enterQueue_of_noCell {l : LotSlot} {s : State} (hage : notAging (s.lot l) s)
    (hcell : noCellFor (stepOf s (s.lot l)) s)
    (hhot : noCandidateFor (s.lot l).cls (s.lot l).preempt (stepOf s (s.lot l)) s) :
    enterQueue l s = queueInsert l s := by
  have hage' : ageAtEntry l (queueInsert l s) = queueInsert l s := ageAtEntry_of_notAging hage
  have hmatch : matchLot l (queueInsert l s) = queueInsert l s :=
    matchLot_of_noCell (noCellFor_congr rfl hcell)
  have hsearch : preemptSearch l (queueInsert l s) = queueInsert l s :=
    preemptSearch_of_noCandidate (noCandidateFor_congr rfl rfl (fun _ => rfl) hhot)
  rw [enterQueue, hage', hmatch, hsearch]

theorem queueRemove_of_not_mem {l : LotSlot} {s : State} (h : l ∉ s.queue) : queueRemove l s = s := by
  have hfilter : s.queue.filter (· ≠ l) = s.queue :=
    List.filter_eq_self.2 fun m hm => by simpa using fun hml : m = l => h (hml ▸ hm)
  rw [queueRemove, hfilter]

/-- The queue test of a lot that does not belong in the queue (R6). -/
theorem queueTest_leaves {l : LotSlot} {s : State} (h : belongsInQueue (s.lot l) = false) :
    queueTest l s = queueRemove l s := by
  rw [queueTest, h]
  by_cases hm : l ∈ s.queue
  · rw [if_pos (by simpa using hm), if_neg (by simp)]
  · rw [if_neg (by simpa using hm), if_neg (by simp), queueRemove_of_not_mem hm]

/-- The queue test of a lot in its place (R6). -/
theorem queueTest_inPlace {l : LotSlot} {s : State} (h : s.queue.contains l = belongsInQueue (s.lot l)) :
    queueTest l s = s := by
  rw [queueTest, h]
  cases belongsInQueue (s.lot l) <;> rfl

/-- The queue test of a lot that belongs in the queue, stands out of it, and is taken by no cell (R6). -/
theorem queueTest_enters {l : LotSlot} {s : State} (hout : l ∉ s.queue) (hin : belongsInQueue (s.lot l) = true)
    (hage : notAging (s.lot l) s) (hcell : noCellFor (stepOf s (s.lot l)) s)
    (hhot : noCandidateFor (s.lot l).cls (s.lot l).preempt (stepOf s (s.lot l)) s) :
    queueTest l s = queueInsert l s := by
  rw [queueTest, if_neg (by simpa using hout), if_pos hin, enterQueue_of_noCell hage hcell hhot]

theorem belongsInQueue_iff (x : Lot) :
    belongsInQueue x = true ↔ (x.state = .waiting ∨ x.state = .running) ∧ 0 < x.toAssign ∧ x.lotBlocked = false := by
  simp [belongsInQueue, and_assoc]

/-- The place of a lot reads the class, the sequence and the slot of each lot (R114). -/
theorem placeIn_congr {s t : State} (l : LotSlot) (q : List LotSlot) (hcls : ∀ m, (t.lot m).cls = (s.lot m).cls)
    (hseq : ∀ m, (t.lot m).queueSeq = (s.lot m).queueSeq) : placeIn t l q = placeIn s l q := by
  induction q with
  | nil => rfl
  | cons a q ih =>
    have hbefore : queueBefore t l a = queueBefore s l a := by simp only [queueBefore, hcls, hseq]
    rw [placeIn, placeIn, hbefore, ih]

end Sys2Proof.Machine
end

section
/-! THE PROOFS of O19 and O20: a lot is added, and a lot changes its class. -/

set_option Elab.async false

namespace Sys2Proof.Machine

/-! ## O19 -/

theorem takeSequence_of_lt {l : LotSlot} {s : State} (h : s.seqCounter < 4294967295) :
    takeSequence l s =
      { s.setLot l { s.lot l with queueSeq := s.seqCounter } with seqCounter := s.seqCounter + 1 } := by
  have h : s.seqCounter < Config.maxSequence := h
  rw [takeSequence]
  simp only [h, if_true]
  rfl

/-- The record that LOT_ADD leaves, with its queue sequence (R22). -/
def addedLot (tag : Tag) (route : RouteIx) (quantity cls split maxRuns seq : Nat) (preempt : Bool) (now : Nat) : Lot :=
  { newLot tag route quantity cls split maxRuns now preempt with queueSeq := seq }

/-- The floor of LOT_ADD before the queue test (R22, R5, R115). -/
def addedFloor (i : LotSlot) (tag : Tag) (route : RouteIx) (quantity cls split maxRuns : Nat) (preempt : Bool) (s : State) :
    State :=
  { s.setLot i (addedLot tag route quantity cls split maxRuns s.seqCounter preempt s.timer) with
    routes := vset s.routes route { s.route route with refs := (s.route route).refs + 1 }
    seqCounter := s.seqCounter + 1 }

theorem addLot_eq {i : LotSlot} {tag : Tag} {route : RouteIx} {quantity cls split : Nat} {preempt : Bool} {s : State}
    (hseq : s.seqCounter < 4294967295) :
    addLot i tag route quantity cls split preempt s = queueTest i (addedFloor i tag route quantity cls split
      ((s.route route).steps.getD 0 Step.none).maxRuns preempt s) := by
  have hseq' : (modRefs route (· + 1) (s.setLot i (newLot tag route quantity cls split
      ((s.route route).steps.getD 0 Step.none).maxRuns s.timer preempt))).seqCounter < 4294967295 := hseq
  rw [addLot, takeSequence_of_lt hseq', modRefs_lot, setLot_lot]
  refine congrArg (queueTest i) ?_
  simp only [addedFloor, addedLot, State.setLot, modRefs, State.modRoute, State.setRoute, vset_vset, newLot]
  rfl

theorem addedFloor_lot (i : LotSlot) (tag : Tag) (route : RouteIx) (quantity cls split maxRuns : Nat) (preempt : Bool)
    (s : State) : (addedFloor i tag route quantity cls split maxRuns preempt s).lot i =
      addedLot tag route quantity cls split maxRuns s.seqCounter preempt s.timer := vset_get_same ..

theorem addedFloor_stepOf (i : LotSlot) (tag : Tag) (route : RouteIx) (quantity cls split maxRuns : Nat) (preempt : Bool)
    (s : State) : stepOf (addedFloor i tag route quantity cls split maxRuns preempt s)
      (addedLot tag route quantity cls split maxRuns s.seqCounter preempt s.timer) = (s.route route).steps.getD 0 Step.none := by
  have hroute : (addedFloor i tag route quantity cls split maxRuns preempt s).route route
      = { s.route route with refs := (s.route route).refs + 1 } := vset_get_same ..
  rw [stepOf, show (addedLot tag route quantity cls split maxRuns s.seqCounter preempt s.timer).route = route from rfl, hroute]
  rfl

/-- A lot that no cell can take and that cannot preempt enters the queue as it is added (R22, R6). -/
theorem addLot_of_noCell {i : LotSlot} {tag : Tag} {route : RouteIx} {quantity cls split : Nat} {preempt : Bool}
    {s : State} {st : Step} (hst : (s.route route).steps.getD 0 Step.none = st) (hseq : s.seqCounter < 4294967295)
    (hsplit : 1 ≤ split) (hruns : 1 ≤ st.maxRuns) (hout : i ∉ s.queue) (hcell : noCellFor st s)
    (hhot : noCandidateFor cls preempt st (s.setLot i { Lot.vacant with cls := cls })) :
    addLot i tag route quantity cls split preempt s =
      queueInsert i (addedFloor i tag route quantity cls split st.maxRuns preempt s) := by
  rw [addLot_eq hseq, hst]
  have hlot := addedFloor_lot i tag route quantity cls split st.maxRuns preempt s
  have hstep := addedFloor_stepOf i tag route quantity cls split st.maxRuns preempt s
  rw [hst] at hstep
  refine queueTest_enters hout ?_ ?_ ?_ ?_
  · rw [hlot, belongsInQueue_iff]
    exact ⟨.inl rfl, Nat.lt_min.2 ⟨hsplit, hruns⟩, rfl⟩
  · rw [hlot]
    show s.profile.aging = 0 ∨ cls ≤ 1 ∨ 4 ≤ cls ∨ s.timer < s.timer + s.profile.aging * 60000
    omega
  · rw [hlot, hstep]
    exact noCellFor_congr rfl hcell
  · rw [hlot, hstep]
    refine noCandidateFor_congr (s := s.setLot i { Lot.vacant with cls := cls }) rfl rfl (fun m => ?_) hhot
    by_cases hm : i = m
    · subst hm
      rw [hlot, setLot_lot]
      rfl
    · rw [setLot_lot_ne _ _ hm]
      exact congrArg Lot.cls (vset_get_ne s.lots _ hm)

/-- Settles O19. -/
theorem lotAddFillsARecord : Obligations.LotAddFillsARecord := by
  intro h tag route quantity cls split preempt s i ho good
  rw [exec_inOperate (kind := 0x0310) (own := ownLotAdd tag route quantity cls split preempt) ho rfl rfl]
  have hranges : ¬ (quantity.toNat = 0 ∨ Config.maxQuantity < quantity.toNat ∨ 3 < cls.toNat ∨ split.toNat = 0
      ∨ 4 < split.toNat) ∧ route.toNat < 48 ↔ good := by
    simp only [good, Config.maxQuantity]
    omega
  refine ⟨fun hbad => ?_, fun x hgood hx => ?_⟩
  · rw [ownLotAdd]
    split
    · next hroute =>
      rw [if_pos (not_not.1 fun hin => hbad (hranges.1 ⟨hin, hroute⟩))]
    · rfl
  · obtain ⟨hin, hroute⟩ := hranges.2 hgood
    have hindex : (⟨route.toNat, hroute⟩ : RouteIx) = x := Fin.ext hx.symm
    have hown : ownLotAdd tag route quantity cls split preempt s =
        if (s.route x).steps.isEmpty then refuse .notFound s
        else if (findLot s tag).isSome then refuse .duplicate s
        else match vacantLot s with
          | none => refuse .noSlot s
          | some i => okWith (byte1 i.val) (addLot i tag x quantity.toNat cls.toNat split.toNat (preempt != 0) s) := by
      rw [ownLotAdd, dif_pos hroute, if_neg hin, hindex] <;> rfl
    rw [hown]
    refine ⟨fun hempty => ?_, fun hsteps hused => ?_, fun hsteps hnew hfull => ?_, fun l st hst hnew hl hlow hruns hseq hout
      hcell hhot => ?_⟩
    · rw [if_pos (by simp [hempty])]
    · rw [if_neg (by simpa using hsteps), if_pos (Option.isSome_iff_ne_none.2 hused)]
    · have hvacant : vacantLot s = none := by simpa [vacantLot] using hfull
      rw [if_neg (by simpa using hsteps), if_neg (by simp [hnew]), hvacant]
    · have hvacant : vacantLot s = some l :=
        find?_finRange_eq_some (by simp [hl]) fun m hm => by simpa using hlow m hm
      have hsteps : (s.route x).steps ≠ [] := fun hnil => by simp [hnil] at hst
      have hfirst : (s.route x).steps.getD 0 Step.none = st := by
        rw [List.getD_eq_getElem?_getD, ← List.head?_eq_getElem?, hst]
        rfl
      intro t
      have hplace : placeIn (addedFloor l tag x quantity.toNat cls.toNat split.toNat st.maxRuns (preempt != 0) s) l s.queue
          = placeIn t l s.queue := placeIn_congr l s.queue (fun _ => rfl) (fun _ => rfl)
      rw [if_neg (by simpa using hsteps), if_neg (by simp [hnew]), hvacant]
      simp only [byte1_eq]
      rw [addLot_of_noCell hfirst hseq hgood.2.2.2.2.1 hruns hout hcell hhot, queueInsert,
        show (addedFloor l tag x quantity.toNat cls.toNat split.toNat st.maxRuns (preempt != 0) s).queue = s.queue from rfl,
        hplace]
      rfl

/-! ## O20 -/

theorem agingDue_iff (s : State) (l : LotSlot) :
    agingDue s l = true ↔ s.profile.aging ≠ 0 ∧ l ∈ s.queue ∧ ((s.lot l).cls = 2 ∨ (s.lot l).cls = 3)
      ∧ (s.lot l).classSince + s.profile.aging * 60000 ≤ s.timer := by
  simp [agingDue, and_assoc]

/-- A queued lot whose class has changed moves to its place, where no cell can take it (R116). -/
theorem queueMove_eq (l : LotSlot) (s : State) :
    queueMove l s = { s with queue := placeIn s l (s.queue.filter (· ≠ l)) } := by
  have hplace : placeIn (queueRemove l s) l (queueRemove l s).queue = placeIn s l (s.queue.filter (· ≠ l)) :=
    placeIn_congr l _ (fun _ => rfl) (fun _ => rfl)
  rw [queueMove, queueInsert, hplace]
  rfl

theorem matchLot_queueMove {l : LotSlot} {s : State} (h : noCellFor (stepOf s (s.lot l)) s) :
    matchLot l (queueMove l s) = queueMove l s := by
  rw [queueMove_eq]
  exact matchLot_of_noCell (noCellFor_congr rfl h)

theorem requeue_of_not_mem {l : LotSlot} {s : State} (h : l ∉ s.queue) : requeue l s = s := by
  rw [requeue, if_neg (by simpa using h)]

theorem requeue_of_noCell {l : LotSlot} {s : State} (h : l ∈ s.queue) (hcell : noCellFor (stepOf s (s.lot l)) s)
    (hhot : noCandidateFor (s.lot l).cls (s.lot l).preempt (stepOf s (s.lot l)) s) : requeue l s = queueMove l s := by
  rw [requeue, if_pos (by simpa using h), matchLot_queueMove hcell, queueMove_eq]
  exact preemptSearch_of_noCandidate (noCandidateFor_congr rfl rfl (fun _ => rfl) hhot)

/-- LOT_PRIORITY of a class below 4 for a lot that is there (R23). -/
theorem ownLotPriority_of_live {tag : Tag} {cls : Byte} {s : State} {l : LotSlot} (hcls : cls.toNat ≤ 3)
    (hl : findLot s tag = some l) (hlive : (s.lot l).state = .waiting ∨ (s.lot l).state = .running ∨ (s.lot l).state = .held) :
    ownLotPriority tag cls s =
      if (s.lot l).cls = cls.toNat then ok s
      else ok (requeue l (s.modLot l fun x => { x with cls := cls.toNat, classSince := s.timer })) := by
  rw [ownLotPriority, if_neg (Nat.not_lt.2 hcls), hl]
  rcases hlive with h | h | h <;> simp only [h]

theorem ownLotPriority_of_gone {tag : Tag} {cls : Byte} {s : State} {l : LotSlot} (hcls : cls.toNat ≤ 3)
    (hl : findLot s tag = some l)
    (hgone : ¬ ((s.lot l).state = .waiting ∨ (s.lot l).state = .running ∨ (s.lot l).state = .held)) :
    ownLotPriority tag cls s = refuse .wrongState s := by
  rw [ownLotPriority, if_neg (Nat.not_lt.2 hcls), hl]
  cases h : (s.lot l).state <;> simp_all

/-- Settles O20. -/
theorem classChangesMoveTheLot : Obligations.ClassChangesMoveTheLot := by
  refine ⟨fun h tag cls s ho => ?_, fun l s => ?_⟩
  · rw [exec_inOperate (kind := 0x0311) (own := ownLotPriority tag cls) ho rfl rfl]
    refine ⟨fun hcls => ?_, fun hcls hl => ?_, fun l hcls hl => ?_⟩
    · rw [ownLotPriority, if_pos hcls]
    · rw [ownLotPriority, if_neg (Nat.not_lt.2 hcls), hl]
    · intro live t
      have hstep : stepOf t (t.lot l) = stepOf s (s.lot l) := by
        rw [setLot_lot]
        exact stepOf_congr rfl rfl rfl
      refine ⟨fun hgone => ?_, fun hlive hsame => ?_, fun hlive hne hout => ?_, fun hlive hne hin hcell hhot => ?_⟩
      · rw [ownLotPriority_of_gone hcls hl hgone]
      · rw [ownLotPriority_of_live hcls hl hlive, if_pos hsame]
      · have hreply : ownLotPriority tag cls s = ok (requeue l t) := by
          rw [ownLotPriority_of_live hcls hl hlive, if_neg hne]
          rfl
        rw [hreply, requeue_of_not_mem (by exact hout)]
      · have hreply : ownLotPriority tag cls s = ok (requeue l t) := by
          rw [ownLotPriority_of_live hcls hl hlive, if_neg hne]
          rfl
        rw [hreply, requeue_of_noCell (by exact hin), queueMove_eq]
        · rfl
        · exact hstep ▸ noCellFor_congr rfl hcell
        · rw [hstep]
          simp only [t, setLot_lot]
          exact hhot
  · intro x t
    refine ⟨fun hno => ?_, fun haging hin hcls hdue hcell => ?_⟩
    · have hdue : agingDue s l = false := by
        rw [Bool.eq_false_iff]
        rintro hdue
        obtain ⟨haging, hin, hcls, -⟩ := (agingDue_iff s l).1 hdue
        rcases hno with h | h | h
        · exact haging h
        · exact h hin
        · simp only [x] at h
          omega
      show Host.Outcome.next (if agingDue s l then _ else s) = _
      rw [hdue]
      rfl
    · have hstep : stepOf t (t.lot l) = stepOf s x := by
        rw [setLot_lot]
        exact stepOf_congr rfl rfl rfl
      show Host.Outcome.next (if agingDue s l then matchLot l (queueMove l (ageLot l s)) else s) = _
      rw [(agingDue_iff s l).2 ⟨haging, hin, hcls, hdue⟩, if_pos rfl, show ageLot l s = t from rfl,
        matchLot_queueMove (by rw [hstep]; exact noCellFor_congr rfl hcell), queueMove_eq]
      rfl

end Sys2Proof.Machine
end

section
/-! SUPPORT. The rules of the shared operations on lots and their open runs: the HELD test (R14), the walk over the open
runs of a lot (R3), the effect of a policy (R9, R10), and what a STOP does to a TESTING run (R138). -/

set_option Elab.async false

namespace Sys2Proof.Machine

/-! ## The entry of a state (R91) -/

theorem Cell.entered_of_ne {k : Cell} {now : Nat} {st : CellState} {cause : Option Cause} (h : k.state ≠ st) :
    k.entered now st cause = { k with acc := k.accNow now, since := now, state := st, cause := cause } := if_neg h

theorem enterCell_of_ne {c : CellIx} {st : CellState} {cause : Option Cause} {s : State} (h : (s.cell c).state ≠ st) :
    enterCell c st cause s = s.setCell c
      { s.cell c with acc := (s.cell c).accNow s.timer, since := s.timer, state := st, cause := cause } :=
  congrArg (s.setCell c) (Cell.entered_of_ne h)

/-! ## The runs of a lot (R3, R14) -/

theorem lotWorking_of_idle {s : State} {x : Lot} (h : x.idle) : lotWorking s x = false := by
  rw [lotWorking, List.any_eq_false]
  intro p _
  have hp := h p
  rw [Lot.openAt] at hp
  split
  · next r hr => rw [hr] at hp; exact absurd hp (by simp)
  · simp
  · simp

/-- A lot whose open runs all stand out of work has none at work (R14). -/
theorem lotWorking_of_open {s : State} {x : Lot} (h : ∀ p r, x.openAt p = some r → (s.run r).state.isWorking = false) :
    lotWorking s x = false := by
  rw [lotWorking, List.any_eq_false]
  intro p _
  have hp := h p
  rw [Lot.openAt] at hp
  split
  · next r hr => rw [hr] at hp; simp [hp r rfl]
  · simp
  · simp

/-- The HELD test of a lot that a lot-scope hold holds and that has no run at work (R14). -/
theorem heldTest_holds {l : LotSlot} {s : State} (hstate : (s.lot l).state = .waiting ∨ (s.lot l).state = .running)
    (hblocked : (s.lot l).lotBlocked = true) (hidle : lotWorking s (s.lot l) = false) :
    heldTest l s = s.setLot l { s.lot l with state := .held } :=
  if_pos ⟨hstate, hblocked, by simp [hidle]⟩

/-- The HELD test of any other lot (R14). -/
theorem heldTest_keeps {l : LotSlot} {s : State}
    (h : ¬ ((s.lot l).state = .waiting ∨ (s.lot l).state = .running) ∨ (s.lot l).lotBlocked = false
      ∨ lotWorking s (s.lot l) = true) : heldTest l s = s := by
  refine if_neg fun ⟨hstate, hblocked, hidle⟩ => ?_
  rcases h with h | h | h
  · exact h hstate
  · exact absurd hblocked (by simp [h])
  · exact hidle h

/-! ## The walk over the open runs (R3) -/

/-- One position of the walk. -/
def visit (l : LotSlot) (skip : Option RunIx) (f : RunIx → State → State) (s : State) (p : RunPlace) : State :=
  match (s.lot l).openAt p with
  | some r => if skip = some r then s else f r s
  | none => s

theorem eachOpen_eq (l : LotSlot) (skip : Option RunIx) (f : RunIx → State → State) (s : State) :
    eachOpen l skip f s = places.foldl (visit l skip f) s := rfl

theorem visit_of_none {l : LotSlot} {skip : Option RunIx} {f : RunIx → State → State} {s : State} {p : RunPlace}
    (h : ∀ r, (s.lot l).openAt p = some r → skip = some r) : visit l skip f s p = s := by
  rw [visit]
  split
  · next r hr => rw [if_pos (h r hr)]
  · rfl

theorem foldl_visit_of_none {l : LotSlot} {skip : Option RunIx} {f : RunIx → State → State} (ps : List RunPlace)
    {s : State} (h : ∀ p ∈ ps, ∀ r, (s.lot l).openAt p = some r → skip = some r) :
    ps.foldl (visit l skip f) s = s := by
  induction ps with
  | nil => rfl
  | cons p ps ih =>
    rw [List.foldl_cons, visit_of_none (h p (by simp))]
    exact ih fun q hq => h q (List.mem_cons_of_mem _ hq)

/-- The walk over a lot with no open run but the one passed over. -/
theorem eachOpen_of_none {l : LotSlot} {skip : Option RunIx} {f : RunIx → State → State} {s : State}
    (h : ∀ p r, (s.lot l).openAt p = some r → skip = some r) : eachOpen l skip f s = s :=
  foldl_visit_of_none places fun p _ => h p

theorem eachOpen_of_idle {l : LotSlot} {skip : Option RunIx} {f : RunIx → State → State} {s : State}
    (h : (s.lot l).idle) : eachOpen l skip f s = s :=
  eachOpen_of_none fun p r hr => absurd hr (by simp [h p])

theorem mem_places (p : RunPlace) : p ∈ places := by
  revert p
  decide

/-- The walk over a lot with one open run, which leaves no other position open. -/
theorem eachOpen_of_onlyRun {l : LotSlot} {p : RunPlace} {r : RunIx} {f : RunIx → State → State} {s : State}
    (honly : onlyRun l p r s) (hafter : ∀ q, q ≠ p → ((f r s).lot l).openAt q = none) : eachOpen l none f s = f r s := by
  obtain ⟨before, after, hsplit⟩ := List.append_of_mem (mem_places p)
  have hnodup : (before ++ p :: after).Nodup := hsplit ▸ (by decide : places.Nodup)
  have hne (q : RunPlace) (hq : q ∈ before ∨ q ∈ after) : q ≠ p := by
    rintro rfl
    rw [List.nodup_append] at hnodup
    obtain ⟨-, hcons, hdisjoint⟩ := hnodup
    rcases hq with hq | hq
    · exact hdisjoint q hq q (by simp) rfl
    · exact (List.nodup_cons.1 hcons).1 hq
  have hvisit : visit l none f s p = f r s := by rw [visit, honly.1 p, if_pos rfl]; rfl
  have hbefore : before.foldl (visit l none f) s = s := foldl_visit_of_none before fun q hq r' hr' => by
    rw [honly.1 q, if_neg (hne q (.inl hq))] at hr'
    exact absurd hr' (by simp)
  have hlater : after.foldl (visit l none f) (f r s) = f r s := foldl_visit_of_none after fun q hq r' hr' => by
    rw [hafter q (hne q (.inr hq))] at hr'
    exact absurd hr' (by simp)
  rw [eachOpen_eq, hsplit, List.foldl_append, hbefore, List.foldl_cons, hvisit, hlater]

/-! ## Raises (R7, R8) -/

theorem raiseHold_of_new {l : LotSlot} {k : HoldKind} {pos : Option RunPlace} {value : Option Nat} {given : Policy}
    {skip : Option RunIx} {s : State} (htakes : (s.lot l).state.takesHold k = true)
    (hnew : (s.lot l).holdsKind k pos = false) :
    raiseHold l k pos value given skip s = addHold l k pos value given skip s := by
  rw [raiseHold, if_pos htakes, hnew]
  rfl

theorem raiseHold_of_held {l : LotSlot} {k : HoldKind} {pos : Option RunPlace} {value : Option Nat} {given : Policy}
    {skip : Option RunIx} {s : State} (htakes : (s.lot l).state.takesHold k = true)
    (hheld : (s.lot l).holdsKind k pos = true) :
    raiseHold l k pos value given skip s = refreshHold l k pos value given s := by
  rw [raiseHold, if_pos htakes, hheld]
  rfl

/-- The state in which a raise that adds a record has its policy's effect: the record joins the list, and its notice is
posted (R8). -/
def withHold (l : LotSlot) (k : HoldKind) (pos : Option RunPlace) (policy : Policy) (value : Option Nat) (s : State) :
    State :=
  postNotice (.holdRaised (s.lot l).tag k pos policy value)
    (s.setLot l { s.lot l with holds := (s.lot l).holds ++ [newHold s l k pos policy value] })

@[simp] theorem withHold_lot (l : LotSlot) (k : HoldKind) (pos : Option RunPlace) (policy : Policy) (value : Option Nat)
    (s : State) : (withHold l k pos policy value s).lot l =
      { s.lot l with holds := (s.lot l).holds ++ [newHold s l k pos policy value] } := by
  rw [withHold, postNotice_lot, setLot_lot]

@[simp] theorem withHold_run (l : LotSlot) (k : HoldKind) (pos : Option RunPlace) (policy : Policy) (value : Option Nat)
    (s : State) (r : RunIx) : (withHold l k pos policy value s).run r = s.run r := by
  rw [withHold, postNotice_run, setLot_run]

@[simp] theorem withHold_cell (l : LotSlot) (k : HoldKind) (pos : Option RunPlace) (policy : Policy) (value : Option Nat)
    (s : State) (c : CellIx) : (withHold l k pos policy value s).cell c = s.cell c := by
  rw [withHold, postNotice_cell, setLot_cell]

theorem withHold_openAt (l : LotSlot) (k : HoldKind) (pos : Option RunPlace) (policy : Policy) (value : Option Nat)
    (s : State) (p : RunPlace) : ((withHold l k pos policy value s).lot l).openAt p = (s.lot l).openAt p := by
  rw [withHold_lot]
  rfl

theorem addHold_of_unfinished {l : LotSlot} {k : HoldKind} {pos : Option RunPlace} {value : Option Nat} {given : Policy}
    {skip : Option RunIx} {s : State} (h : (s.lot l).state ≠ .finished) :
    addHold l k pos value given skip s =
      heldTest l (queueTest l (policyEffect l pos (policyFor (limitsOf s (s.lot l)) given k) skip
        (withHold l k pos (policyFor (limitsOf s (s.lot l)) given k) value s))) := if_neg h

theorem addHold_of_finished {l : LotSlot} {k : HoldKind} {pos : Option RunPlace} {value : Option Nat} {given : Policy}
    {skip : Option RunIx} {s : State} (h : (s.lot l).state = .finished) :
    addHold l k pos value given skip s =
      (heldTest l (queueTest l (policyEffect l pos (policyFor (limitsOf s (s.lot l)) given k) skip
        (withHold l k pos (policyFor (limitsOf s (s.lot l)) given k) value s)))).modLot l
        fun y => { y with state := .held } := if_pos h

theorem lotBlocked_append (x : Lot) (h : Hold) :
    { x with holds := x.holds ++ [h] : Lot }.lotBlocked = (x.lotBlocked || (h.policy.restrains && h.pos.isNone)) := by
  simp [Lot.lotBlocked]

theorem belongsInQueue_of_blocked {x : Lot} (h : x.lotBlocked = true) : belongsInQueue x = false := by
  simp [belongsInQueue, h]

theorem belongsInQueue_of_state {x : Lot} (h : ¬ (x.state = .waiting ∨ x.state = .running)) :
    belongsInQueue x = false :=
  Bool.eq_false_iff.2 fun hb => h ((belongsInQueue_iff x).1 hb).1

/-- A lot that a lot-scope hold holds and that has no run at work is HELD and out of the queue (R6, R14). -/
theorem heldTest_queueTest {l : LotSlot} {s : State}
    (hstate : (s.lot l).state = .waiting ∨ (s.lot l).state = .running ∨ (s.lot l).state = .held)
    (hblocked : (s.lot l).lotBlocked = true) (hidle : lotWorking s (s.lot l) = false) :
    heldTest l (queueTest l s) = { s.setLot l { s.lot l with state := .held } with queue := s.queue.filter (· ≠ l) } := by
  rw [queueTest_leaves (by simp [belongsInQueue, hblocked])]
  by_cases hheld : (s.lot l).state = .held
  · rw [heldTest_keeps (.inl (by simp [hheld]))]
    have hsame : s.setLot l { s.lot l with state := .held } = s := by
      rw [← hheld]
      exact congrArg (fun v => { s with lots := v }) (vset_self s.lots l)
    rw [hsame]
    rfl
  · have hstate : (s.lot l).state = .waiting ∨ (s.lot l).state = .running := by
      rcases hstate with h | h | h
      · exact .inl h
      · exact .inr h
      · exact absurd h hheld
    exact heldTest_holds (s := queueRemove l s) hstate hblocked hidle

/-! ## A STOP at a TESTING run (R138) -/

theorem stopRun_of_testing {r : RunIx} {s : State} (hrun : (s.run r).state = .testing)
    (hcell : (s.cell (s.run r).cell).state = .running) :
    stopRun r s =
      ((sendOrder (s.run r).cell .handler .stop s).setRun r
        { s.run r with state := .stopped, stoppedFrom := some .testing }).setCell (s.run r).cell
        { s.cell (s.run r).cell with
          state := .stopped, cause := none, since := s.timer, acc := (s.cell (s.run r).cell).accNow s.timer } := by
  have hnot : ¬ (s.run r).state = .closing := by simp [hrun]
  rw [stopRun]
  dsimp only
  rw [if_neg hnot]
  simp only [modRun_cell, sendOrder_cell, hcell]
  rw [enterCell_of_ne (by simp [hcell])]
  simp only [State.modRun, setRun_cell, sendOrder_cell, setRun_timer, sendOrder_timer, sendOrder_run, hrun]
  rfl

theorem stopOpen_of_testing {r : RunIx} {s : State} (hrun : (s.run r).state = .testing) : stopOpen r s = stopRun r s := by
  rw [stopOpen, hrun]
  rfl

/-- The run at work that a STOP stops, as the order leaves it (R138). -/
def Run.stoppedAt (x : Run) : Run := { x with state := .stopped, stoppedFrom := some .testing }

/-- A cell that enters STOPPED (R9). -/
def Cell.stoppedAt (k : Cell) (now : Nat) : Cell :=
  { k with state := .stopped, cause := none, since := now, acc := k.accNow now }

/-- A lot-scope STOP hold at a lot whose one open run is TESTING: the handler is told, the run and its cell are STOPPED,
the lot is HELD and out of the queue (R9, R14, R138). -/
theorem stop_at_testing {l : LotSlot} {p : RunPlace} {r : RunIx} {s : State} (honly : onlyRun l p r s)
    (hrun : (s.run r).state = .testing) (hcell : (s.cell (s.run r).cell).state = .running)
    (hstate : (s.lot l).state = .waiting ∨ (s.lot l).state = .running ∨ (s.lot l).state = .held)
    (hblocked : (s.lot l).lotBlocked = true) :
    heldTest l (queueTest l (policyEffect l none .stop none s)) =
      (sendOrder (s.run r).cell .handler .stop s).work (vset s.lots l { s.lot l with state := .held })
        (vset s.runs r (s.run r).stoppedAt)
        (vset s.cells (s.run r).cell ((s.cell (s.run r).cell).stoppedAt s.timer)) (s.queue.filter (· ≠ l)) s.seqCounter := by
  set u := ((sendOrder (s.run r).cell .handler .stop s).setRun r (s.run r).stoppedAt).setCell (s.run r).cell
    ((s.cell (s.run r).cell).stoppedAt s.timer) with hu
  have hlot : u.lot l = s.lot l := by simp [hu]
  have hstopped : u.run r = (s.run r).stoppedAt := by rw [hu, setCell_run, setRun_run]
  have hopen : stopOpen r s = u := by
    rw [stopOpen_of_testing hrun, stopRun_of_testing hrun hcell]
    rfl
  have hafter (q : RunPlace) (hq : q ≠ p) : ((stopOpen r s).lot l).openAt q = none := by
    rw [hopen, hlot, honly.1 q, if_neg hq]
  have heffect : policyEffect l none .stop none s = u := (eachOpen_of_onlyRun honly hafter).trans hopen
  have hidle : lotWorking u (u.lot l) = false := lotWorking_of_open fun q r' hr' => by
    rw [hlot, honly.1 q] at hr'
    split at hr'
    · obtain rfl := Option.some.inj hr'
      rw [hstopped]
      rfl
    · exact absurd hr' (by simp)
  rw [heffect, heldTest_queueTest (by rw [hlot]; exact hstate) (by rw [hlot]; exact hblocked) hidle, hlot, hu]
  show State.work _ _ _ _ _ _ = _
  simp only [setRun_work, setCell_work, setLot_work, work_work, work_lots, work_runs, work_cells, work_queue,
    work_seqCounter, sendOrder_lots, sendOrder_runs, sendOrder_cells, sendOrder_queue, sendOrder_seqCounter]

/-! ## The withdrawal of an ASSIGNED run (R123) -/

/-- The state in which a withdrawal tests its lot: the record free, the cell without the run, the position absent (R123). -/
def withdrawn (r : RunIx) (s : State) : State :=
  ((s.setRun r .free).setCell (s.run r).cell ((s.cell (s.run r).cell).forget r)).setLot (s.run r).lot
    ((s.lot (s.run r).lot).returned (s.run r).pos)

theorem withdraw_eq (r : RunIx) (s : State) :
    withdraw r s = queueTest (s.run r).lot (heldTest (s.run r).lot (withdrawn r s)) := rfl

@[simp] theorem withdrawn_lot (r : RunIx) (s : State) :
    (withdrawn r s).lot (s.run r).lot = (s.lot (s.run r).lot).returned (s.run r).pos := setLot_lot ..

theorem returned_openAt (x : Lot) (p q : RunPlace) : (x.returned p).openAt q = if q = p then none else x.openAt q := by
  rw [Lot.openAt, Lot.openAt, Lot.returned]
  dsimp only
  rw [vset_get]
  by_cases h : p = q
  · simp [h]
  · rw [if_neg h, if_neg (Ne.symm h)]

/-- The one open run of a lot returned leaves none. -/
theorem returned_idle {l : LotSlot} {p : RunPlace} {r : RunIx} {s : State} (honly : onlyRun l p r s) :
    ((s.lot l).returned p).idle := by
  intro q
  rw [returned_openAt, honly.1 q]
  split <;> rfl

/-- A cell that holds a run as its current run, and prepares for it, loses the run and keeps the preparation without a
target (R123). -/
theorem forget_current {k : Cell} {r : RunIx} {j : Prep} (hcur : k.current = some r) (hres : k.reserved ≠ some r)
    (hstack : r ∉ k.stack) (hprep : k.prep = some j) (htarget : j.target = some r) :
    k.forget r = { k with current := none, prep := some { j with target := none } } := by
  have hfilter : k.stack.filter (· ≠ r) = k.stack :=
    List.filter_eq_self.2 fun m hm => by simpa using fun hmr : m = r => hstack (hmr ▸ hm)
  rw [Cell.forget, hfilter, if_pos hcur, if_neg hres, hprep, Option.map_some, if_pos htarget]

/-- A lot-scope STOP or FINISH hold at a lot whose one open run is ASSIGNED withdraws the run: the lot is HELD and out
of the queue (R9, R10, R14, R123). -/
theorem hold_at_assigned {l : LotSlot} {p : RunPlace} {r : RunIx} {policy : Policy} {s : State} (honly : onlyRun l p r s)
    (hrun : (s.run r).state = .assigned) (hpolicy : policy ≠ .mark)
    (hstate : (s.lot l).state = .waiting ∨ (s.lot l).state = .running) (hblocked : (s.lot l).lotBlocked = true) :
    heldTest l (queueTest l (policyEffect l none policy none s)) =
      s.work (vset s.lots l { (s.lot l).returned p with state := .held }) (vset s.runs r .free)
        (vset s.cells (s.run r).cell ((s.cell (s.run r).cell).forget r)) (s.queue.filter (· ≠ l)) s.seqCounter := by
  obtain ⟨hopen, hlot, hpos⟩ := honly
  have hw : (withdrawn r s).lot l = (s.lot l).returned p := by rw [← hlot, withdrawn_lot, hpos]
  have hidle : ((withdrawn r s).lot l).idle := hw ▸ returned_idle ⟨hopen, hlot, hpos⟩
  set u := (withdrawn r s).setLot l { (s.lot l).returned p with state := .held } with hu
  have hheld : heldTest l (withdrawn r s) = u := by
    rw [heldTest_holds (by rw [hw]; exact hstate) (by rw [hw]; exact hblocked) (lotWorking_of_idle hidle), hw]
  have hulot : u.lot l = { (s.lot l).returned p with state := .held } := setLot_lot ..
  have hwithdraw : withdraw r s = queueRemove l u := by
    rw [withdraw_eq, hlot, hheld, queueTest_leaves (belongsInQueue_of_blocked (by rw [hulot]; exact hblocked))]
  have heffect : policyEffect l none policy none s = queueRemove l u := by
    have hafter (q : RunPlace) : ((queueRemove l u).lot l).openAt q = none := by
      rw [queueRemove_lot, hulot]
      exact returned_idle ⟨hopen, hlot, hpos⟩ q
    have hstop : stopOpen r s = queueRemove l u := by
      rw [stopOpen, hrun]
      exact hwithdraw
    have hfinish : finishOpen r s = queueRemove l u := by
      rw [finishOpen, hrun]
      exact hwithdraw
    cases policy with
    | stop => exact (eachOpen_of_onlyRun ⟨hopen, hlot, hpos⟩ fun q _ => hstop ▸ hafter q).trans hstop
    | finish => exact (eachOpen_of_onlyRun ⟨hopen, hlot, hpos⟩ fun q _ => hfinish ▸ hafter q).trans hfinish
    | mark => exact absurd rfl hpolicy
  rw [heffect, queueTest_leaves (belongsInQueue_of_blocked (by rw [queueRemove_lot, hulot]; exact hblocked)),
    heldTest_keeps (.inl (by rw [queueRemove_lot, queueRemove_lot, hulot]; simp)), hu, withdrawn, hlot, hpos]
  simp only [setRun_work, setCell_work, setLot_work, queueRemove_work, work_work, work_lots, work_runs, work_cells,
    work_queue, work_seqCounter, vset_vset, List.filter_filter, Bool.and_self]

/-! ## What a release frees (R17) -/

theorem leaveHeld_frees {l : LotSlot} {s : State} (hheld : (s.lot l).state = .held) (hopen : (s.lot l).stepClosed = false)
    (hroute : (s.lot l).routeComplete = false) (hfree : (s.lot l).lotBlocked = false) :
    leaveHeld l s = s.setLot l { s.lot l with state := if (s.lot l).stepStarted then .running else .waiting } :=
  if_pos ⟨hheld, by simp [hopen], by simp [hroute], by simp [hfree]⟩

theorem leaveHeld_keeps {l : LotSlot} {s : State}
    (h : (s.lot l).state ≠ .held ∨ (s.lot l).stepClosed = true ∨ (s.lot l).routeComplete = true
      ∨ (s.lot l).lotBlocked = true) : leaveHeld l s = s :=
  if_neg fun ⟨hheld, hopen, hroute, hfree⟩ => by rcases h with h | h | h | h <;> contradiction

theorem leaveStepClose_keeps {l : LotSlot} {s : State}
    (h : (s.lot l).state ≠ .held ∨ (s.lot l).stepClosed = false ∨ (s.lot l).routeComplete = true
      ∨ (s.lot l).anyBlocked = true) : leaveStepClose l s = s :=
  if_neg fun ⟨hheld, hclosed, hroute, hfree⟩ => by
    rcases h with h | h | h | h
    · contradiction
    · exact absurd hclosed (by simp [h])
    · contradiction
    · contradiction

theorem leaveStepClose_advances {l : LotSlot} {s : State} (hheld : (s.lot l).state = .held)
    (hclosed : (s.lot l).stepClosed = true) (hroute : (s.lot l).routeComplete = false)
    (hfree : (s.lot l).anyBlocked = false) : leaveStepClose l s = advance l s :=
  if_pos ⟨hheld, hclosed, by simp [hroute], by simp [hfree]⟩

theorem leaveRouteEnd_keeps {l : LotSlot} {s : State}
    (h : (s.lot l).state ≠ .held ∨ (s.lot l).routeComplete = false ∨ (s.lot l).holds.isEmpty = false) :
    leaveRouteEnd l s = s :=
  if_neg fun ⟨hheld, hroute, hempty⟩ => by
    rcases h with h | h | h
    · contradiction
    · exact absurd hroute (by simp [h])
    · exact absurd hempty (by simp [h])

theorem leaveRouteEnd_finishes {l : LotSlot} {s : State} (hheld : (s.lot l).state = .held)
    (hroute : (s.lot l).routeComplete = true) (hempty : (s.lot l).holds.isEmpty = true) :
    leaveRouteEnd l s = postNotice (.lotFinished (s.lot l).tag (s.lot l).gradeQty)
      (s.setLot l { s.lot l with state := .finished }) :=
  if_pos ⟨hheld, hroute, hempty⟩

/-- What a release frees of a lot HELD within a step, with no open run and runs still to assign that no cell can take:
the lot returns to work and to the queue (R6, R17). -/
theorem freeing_of_held {l : LotSlot} {s : State} (hheld : (s.lot l).state = .held) (hopen : (s.lot l).stepClosed = false)
    (hroute : (s.lot l).routeComplete = false) (hidle : (s.lot l).idle) (hfree : (s.lot l).lotBlocked = false)
    (hassign : 1 ≤ (s.lot l).toAssign) (hout : l ∉ s.queue) (hage : notAging (s.lot l) s)
    (hcell : noCellFor (stepOf s (s.lot l)) s)
    (hhot : noCandidateFor (s.lot l).cls (s.lot l).preempt (stepOf s (s.lot l)) s) :
    freeing l s =
      { s.setLot l { s.lot l with state := if (s.lot l).stepStarted then .running else .waiting } with
        queue := placeIn (s.setLot l { s.lot l with state := if (s.lot l).stepStarted then .running else .waiting }) l
          s.queue } := by
  rw [freeing, eachOpen_of_idle hidle, leaveHeld_frees hheld hopen hroute hfree]
  set t := s.setLot l { s.lot l with state := if (s.lot l).stepStarted then .running else .waiting } with ht
  have hlot : t.lot l = { s.lot l with state := if (s.lot l).stepStarted then .running else .waiting } := setLot_lot ..
  have hstep : stepOf t (t.lot l) = stepOf s (s.lot l) := by rw [hlot]; exact stepOf_congr rfl rfl rfl
  have hstate : (t.lot l).state ≠ .held := by rw [hlot]; dsimp only; split <;> simp
  have hcls (m : LotSlot) : (t.lot m).cls = (s.lot m).cls := by
    by_cases hm : l = m
    · subst hm; rw [hlot]
    · rw [setLot_lot_ne s _ hm]
  have hin : belongsInQueue (t.lot l) = true := by
    rw [belongsInQueue_iff, hlot]
    refine ⟨?_, hassign, hfree⟩
    dsimp only
    split <;> simp
  have hhot' : noCandidateFor (t.lot l).cls (t.lot l).preempt (stepOf t (t.lot l)) t := by
    rw [hstep, hlot]
    exact noCandidateFor_congr (s := s) rfl rfl hcls hhot
  rw [queueTest_enters (by exact hout) hin (by rw [hlot]; exact hage) (by rw [hstep]; exact noCellFor_congr rfl hcell)
    hhot', leaveStepClose_keeps (s := queueInsert l t) (.inl hstate),
    leaveRouteEnd_keeps (s := queueInsert l t) (.inl hstate)]
  rfl

end Sys2Proof.Machine
end

section
/-! PROOF. LOT_HOLD: the ENGINEER record raised and refreshed, and a lot hold at an open run (O21, O22). -/

set_option Elab.async false

namespace Sys2Proof.Machine

/-! ## LOT_HOLD's own rule (R24) -/

theorem policyOf_of_gt {b : Byte} (h : 2 < b.toNat) : policyOf b = none := by
  rw [policyOf]
  split <;> simp_all

theorem policyOf_eq {b : Byte} {p : Policy} (h : p.code = b.toNat) : policyOf b = some p := by
  have hb : b = BitVec.ofNat 8 p.code := by rw [h]; simp
  subst hb
  cases p <;> rfl

theorem ownLotHold_of_gone {tag : Tag} {policy : Byte} {p : Policy} {l : LotSlot} {s : State}
    (hpolicy : p.code = policy.toNat) (hl : findLot s tag = some l)
    (hgone : (s.lot l).state = .released ∨ (s.lot l).state = .scrapped) :
    ownLotHold tag policy s = refuse .wrongState s := by
  rw [ownLotHold, policyOf_eq hpolicy]
  dsimp only
  rw [hl]
  rcases hgone with h | h <;> simp only [h]

theorem ownLotHold_of_live {tag : Tag} {policy : Byte} {p : Policy} {l : LotSlot} {s : State}
    (hpolicy : p.code = policy.toNat) (hl : findLot s tag = some l)
    (hlive : (s.lot l).state = .waiting ∨ (s.lot l).state = .running ∨ (s.lot l).state = .held
      ∨ (s.lot l).state = .finished) :
    ownLotHold tag policy s = ok (engineerHold l p s) := by
  rw [ownLotHold, policyOf_eq hpolicy]
  dsimp only
  rw [hl]
  rcases hlive with h | h | h | h <;> simp only [h]

theorem takesHold_engineer {st : LotState} (h : st = .waiting ∨ st = .running ∨ st = .held ∨ st = .finished) :
    st.takesHold .engineer = true := by
  rcases h with rfl | rfl | rfl | rfl <;> rfl

theorem Hold.is_engineer (h : Hold) : h.is .engineer none = true ↔ h.kind = .engineer ∧ h.pos = none := by
  simp [Hold.is]

/-- A lot without an ENGINEER record takes one (R24). -/
theorem engineerHold_of_new {l : LotSlot} {p : Policy} {s : State}
    (hlive : (s.lot l).state = .waiting ∨ (s.lot l).state = .running ∨ (s.lot l).state = .held
      ∨ (s.lot l).state = .finished) (hnew : (s.lot l).holdsKind .engineer none = false) :
    engineerHold l p s = addHold l .engineer none none p none s := by
  have hpolicy : (s.lot l).engineerPolicy = none := by
    rw [Lot.engineerPolicy, List.find?_eq_none.2]
    · rfl
    · intro a ha
      rw [Lot.holdsKind, List.any_eq_false] at hnew
      exact hnew a ha
  rw [engineerHold, hpolicy]
  exact raiseHold_of_new (takesHold_engineer hlive) hnew

/-- A lot's ENGINEER record refreshed (R8, R24). -/
def refreshedLot (x : Lot) (before after : List Hold) (e : Hold) (p : Policy) (t : FloorTime) : Lot :=
  { x with holds := before ++ { e with floorTime := t, value := none, policy := p } :: after }

/-- A lot with an ENGINEER record has it refreshed in its place, and then the change of policy has its effect (R24). -/
theorem engineerHold_of_held {l : LotSlot} {p : Policy} {s : State} {before after : List Hold} {e : Hold}
    (hlive : (s.lot l).state = .waiting ∨ (s.lot l).state = .running ∨ (s.lot l).state = .held)
    (hholds : (s.lot l).holds = before ++ e :: after) (hkind : e.kind = .engineer) (hpos : e.pos = none)
    (hothers : ∀ a ∈ before ++ after, a.kind ≠ .engineer) :
    engineerHold l p s =
      policyChange l e.policy p (s.setLot l (refreshedLot (s.lot l) before after e p s.floorClock)) := by
  have he : e.is .engineer none = true := (Hold.is_engineer e).2 ⟨hkind, hpos⟩
  have hne (a : Hold) (ha : a ∈ before ++ after) : a.is .engineer none = false :=
    Bool.eq_false_iff.2 fun h => hothers a ha ((Hold.is_engineer a).1 h).1
  have hpolicy : (s.lot l).engineerPolicy = some e.policy := by
    rw [Lot.engineerPolicy, hholds, List.find?_append, List.find?_eq_none.2, List.find?_cons, he]
    · rfl
    · exact fun a ha => by simp [hne a (List.mem_append_left _ ha)]
  have hheld : (s.lot l).holdsKind .engineer none = true := by
    rw [Lot.holdsKind, hholds, List.any_append, List.any_cons, he]
    simp
  have hmap (t : List Hold) (ht : ∀ a ∈ t, a ∈ before ++ after) :
      t.map (fun h => if h.is .engineer none then h.refreshed s.floorClock none p else h) = t :=
    (List.map_congr_left fun a ha => if_neg (by simp [hne a (ht a ha)])).trans (List.map_id' t)
  have hfresh : e.refreshed s.floorClock none p = { e with floorTime := s.floorClock, value := none, policy := p } := by
    rw [Hold.refreshed, if_pos hkind]
  have hraise : raiseHold l .engineer none none p none s =
      s.setLot l (refreshedLot (s.lot l) before after e p s.floorClock) := by
    rw [raiseHold_of_held (takesHold_engineer (hlive.imp_right fun h => h.imp_right .inl)) hheld, refreshHold,
      State.modLot, refreshedLot, hholds, List.map_append, List.map_cons, if_pos he, hfresh,
      hmap before fun a ha => List.mem_append_left _ ha, hmap after fun a ha => List.mem_append_right _ ha]
  rw [engineerHold, hpolicy, hraise]

/-! ## A new record on a lot with no open run (R8, R11, R14, R24) -/

theorem policyEffect_of_idle {l : LotSlot} {policy : Policy} {skip : Option RunIx} {s : State} (h : (s.lot l).idle) :
    policyEffect l none policy skip s = s := by
  cases policy with
  | stop => exact eachOpen_of_idle h
  | finish => exact eachOpen_of_idle h
  | mark => rfl

theorem withHold_idle {l : LotSlot} {k : HoldKind} {pos : Option RunPlace} {policy : Policy} {value : Option Nat}
    {s : State} (h : (s.lot l).idle) : ((withHold l k pos policy value s).lot l).idle := by
  intro p
  rw [withHold_openAt]
  exact h p

/-- The notice of a new record may be posted first (R8). -/
theorem withHold_eq (l : LotSlot) (k : HoldKind) (pos : Option RunPlace) (policy : Policy) (value : Option Nat)
    (s : State) : withHold l k pos policy value s =
      (postNotice (.holdRaised (s.lot l).tag k pos policy value) s).setLot l
        { s.lot l with holds := (s.lot l).holds ++ [newHold s l k pos policy value] } := by
  rw [withHold, setLot_work, postNotice_work, setLot_work]
  simp only [postNotice_lots, postNotice_runs, postNotice_cells, postNotice_queue, postNotice_seqCounter]

/-- A new record on a lot, with the lot's state and the queue that follow. -/
theorem withHold_then (l : LotSlot) (k : HoldKind) (pos : Option RunPlace) (policy : Policy) (value : Option Nat)
    (s : State) (st : LotState) (q : List LotSlot) :
    { (withHold l k pos policy value s).setLot l
        { (withHold l k pos policy value s).lot l with state := st } with queue := q } =
      postNotice (.holdRaised (s.lot l).tag k pos policy value)
        { s.setLot l { s.lot l with holds := (s.lot l).holds ++ [newHold s l k pos policy value], state := st } with
          queue := q } := by
  refine Eq.trans ?_ (postNotice_work s _ s.runs s.cells q s.seqCounter _).symm
  rw [withHold_lot, withHold_eq, setLot_work, setLot_work]
  show State.work _ _ _ _ _ _ = _
  simp only [work_work, work_lots, work_runs, work_cells, work_seqCounter, vset_vset, postNotice_lots, postNotice_runs,
    postNotice_cells, postNotice_seqCounter]
  rfl

/-- A new STOP or FINISH record of lot scope on a lot with no open run makes it HELD and takes it from the queue (R9,
R10, R14). -/
theorem engineerHold_restrains {l : LotSlot} {p : Policy} {s : State}
    (hlive : (s.lot l).state = .waiting ∨ (s.lot l).state = .running ∨ (s.lot l).state = .held)
    (hnew : (s.lot l).holdsKind .engineer none = false) (hidle : (s.lot l).idle) (hp : p.restrains = true) :
    engineerHold l p s = postNotice (.holdRaised (s.lot l).tag .engineer none p none)
      { s.setLot l { s.lot l with holds := (s.lot l).holds ++ [newHold s l .engineer none p none], state := .held } with
        queue := s.queue.filter (· ≠ l) } := by
  have hlive' := hlive
  rw [engineerHold_of_new (hlive.imp_right fun h => h.imp_right .inl) hnew,
    addHold_of_unfinished (by rcases hlive with h | h | h <;> simp [h])]
  simp only [policyFor]
  rw [policyEffect_of_idle (withHold_idle hidle), heldTest_queueTest]
  · rw [withHold_then]
    simp [withHold]
  · simpa using hlive
  · rw [withHold_lot, lotBlocked_append]
    simp [newHold, hp]
  · exact lotWorking_of_idle (withHold_idle hidle)

/-- A new MARK record on a lot with no lot-scope hold in force changes nothing but the list (R11). -/
theorem engineerHold_marks {l : LotSlot} {s : State}
    (hlive : (s.lot l).state = .waiting ∨ (s.lot l).state = .running ∨ (s.lot l).state = .held)
    (hnew : (s.lot l).holdsKind .engineer none = false) (hfree : (s.lot l).lotBlocked = false) (hplace : inPlace l s) :
    engineerHold l .mark s = withHold l .engineer none .mark none s := by
  have hfree' : ((withHold l .engineer none .mark none s).lot l).lotBlocked = false := by
    rw [withHold_lot, lotBlocked_append, hfree]
    rfl
  rw [engineerHold_of_new (hlive.imp_right fun h => h.imp_right .inl) hnew,
    addHold_of_unfinished (by rcases hlive with h | h | h <;> simp [h])]
  show heldTest l (queueTest l (withHold l .engineer none .mark none s)) = _
  have hqueue : queueTest l (withHold l .engineer none .mark none s) = withHold l .engineer none .mark none s := by
    refine queueTest_inPlace ?_
    rw [belongsInQueue, hfree', withHold_lot]
    rw [inPlace, belongsInQueue, hfree] at hplace
    simpa [withHold] using hplace
  rw [hqueue, heldTest_keeps (.inr (.inl hfree'))]

/-- A new record on a FINISHED lot, which stands out of the queue, makes it HELD (R24). -/
theorem engineerHold_finished {l : LotSlot} {p : Policy} {s : State} (hfinished : (s.lot l).state = .finished)
    (hnew : (s.lot l).holdsKind .engineer none = false) (hidle : (s.lot l).idle) (hplace : inPlace l s) :
    engineerHold l p s = postNotice (.holdRaised (s.lot l).tag .engineer none p none)
      { s.setLot l { s.lot l with holds := (s.lot l).holds ++ [newHold s l .engineer none p none], state := .held } with
        queue := s.queue } := by
  have hstate : ((withHold l .engineer none p none s).lot l).state = .finished := by rw [withHold_lot]; exact hfinished
  rw [engineerHold_of_new (.inr (.inr (.inr hfinished))) hnew, addHold_of_finished hfinished]
  simp only [policyFor]
  have hqueue : queueTest l (withHold l .engineer none p none s) = withHold l .engineer none p none s := by
    refine queueTest_inPlace ?_
    rw [inPlace, belongsInQueue_of_state (by simp [hfinished])] at hplace
    rw [belongsInQueue_of_state (by rw [hstate]; simp)]
    simpa [withHold] using hplace
  rw [policyEffect_of_idle (withHold_idle hidle), hqueue, heldTest_keeps (.inl (by rw [hstate]; simp))]
  refine Eq.trans ?_ (withHold_then l .engineer none p none s .held s.queue)
  have hq : (withHold l .engineer none p none s).queue = s.queue := by simp [withHold]
  rw [← hq]
  rfl

/-! ## A change of the record's policy (R24) -/

/-- A change to STOP, or from MARK, takes effect as a raise does (R24). -/
theorem policyChange_tightens {l : LotSlot} {old new : Policy} {s : State} (hne : old ≠ new)
    (h : old = .mark ∨ new = .stop) (hnew : new ≠ .mark) :
    policyChange l old new s = heldTest l (queueTest l (policyEffect l none new none s)) := by
  cases old <;> cases new <;> simp at hne h hnew <;> rfl

theorem policyChange_same (l : LotSlot) (p : Policy) (s : State) : policyChange l p p s = s := by
  cases p <;> rfl

/-- A change to MARK frees as a release does (R24). -/
theorem policyChange_loosens {l : LotSlot} {old : Policy} {s : State} (h : old ≠ .mark) :
    policyChange l old .mark s = freeing l s := by
  cases old with
  | mark => exact absurd rfl h
  | stop => rfl
  | finish => rfl

theorem refreshedLot_lotBlocked {x : Lot} {before after : List Hold} {e : Hold} {p : Policy} {t : FloorTime}
    (hpos : e.pos = none) (hp : p ≠ .mark) : (refreshedLot x before after e p t).lotBlocked = true := by
  have hrestrains : p.restrains = true := by cases p <;> simp_all [Policy.restrains]
  simp [refreshedLot, Lot.lotBlocked, hpos, hrestrains]

theorem refreshedLot_not_lotBlocked {x : Lot} {before after : List Hold} {e : Hold} {t : FloorTime}
    (h : ∀ a ∈ before ++ after, a.policy = .mark ∨ a.pos ≠ none) :
    (refreshedLot x before after e .mark t).lotBlocked = false := by
  have hno (a : Hold) (ha : a ∈ before ++ after) : ¬ ((a.policy.restrains && a.pos.isNone) = true) := by
    rcases h a ha with h | h <;> simp_all [Policy.restrains]
  rw [Lot.lotBlocked, List.any_eq_false]
  intro a ha
  simp only [refreshedLot, List.mem_append, List.mem_cons] at ha
  rcases ha with ha | rfl | ha
  · exact hno a (List.mem_append_left _ ha)
  · simp [Policy.restrains]
  · exact hno a (List.mem_append_right _ ha)

/-- Settles O21. -/
theorem lotHoldRaisesEngineer : Obligations.LotHoldRaisesEngineer := by
  intro h tag policy s ho
  rw [exec_inOperate (kind := 0x0312) (own := ownLotHold tag policy) ho rfl rfl]
  refine ⟨fun hpolicy => ?_, fun hpolicy hl => ?_, fun l p hp hl => ?_⟩
  · rw [ownLotHold, policyOf_of_gt hpolicy]
  · obtain ⟨p, hp⟩ : ∃ p : Policy, p.code = policy.toNat := by
      rcases (by omega : policy.toNat = 0 ∨ policy.toNat = 1 ∨ policy.toNat = 2) with h | h | h
      · exact ⟨.stop, h.symm⟩
      · exact ⟨.finish, h.symm⟩
      · exact ⟨.mark, h.symm⟩
    rw [ownLotHold, policyOf_eq hp]
    dsimp only
    rw [hl]
  · intro x
    refine ⟨fun hgone => ?_, fun hlive hnew hfree hidle hplace => ?_, fun before after e hlive hholds hkind hpos hothers => ?_⟩
    · rw [ownLotHold_of_gone hp hl hgone]
    · rw [ownLotHold_of_live hp hl hlive]
      intro stops t
      refine congrArg (fun t => Host.Outcome.next (respond h 0x0312 (ok t))) ?_
      by_cases hfinished : x.state = .finished
      · rw [engineerHold_finished hfinished hnew hidle hplace]
        have hout : s.queue.filter (· ≠ l) = s.queue := by
          have := queueRemove_of_not_mem (l := l) (s := s) ?_
          · exact congrArg State.queue this
          · intro hm
            rw [inPlace, belongsInQueue_of_state (by simp [show (s.lot l).state = _ from hfinished])] at hplace
            simp [hm] at hplace
        rw [hout, ite_self]
        simp only [t, if_pos (Or.inl hfinished : x.state = .finished ∨ _)]
        rfl
      · have hlive : x.state = .waiting ∨ x.state = .running ∨ x.state = .held := by
          rcases hlive with h | h | h | h
          · exact .inl h
          · exact .inr (.inl h)
          · exact .inr (.inr h)
          · exact absurd h hfinished
        by_cases hmark : p = .mark
        · subst hmark
          rw [engineerHold_marks hlive hnew hfree hplace]
          simp [t, stops, hfinished, withHold]
          rfl
        · have hstops : stops = true := by simp [stops, hmark]
          rw [engineerHold_restrains hlive hnew hidle (by cases p <;> simp_all [Policy.restrains])]
          have hstate : (if x.state = .finished ∨ (stops ∧ (x.state = .waiting ∨ x.state = .running)) then LotState.held
              else x.state) = .held := by
            rcases hlive with h | h | h <;> simp [h, hstops]
          simp only [t, hstate, if_pos hstops]
          rfl
    · intro y stopped
      set t := s.setLot l y with ht
      have hlot : t.lot l = y := setLot_lot ..
      have hlive' : x.state = .waiting ∨ x.state = .running ∨ x.state = .held ∨ x.state = .finished :=
        hlive.imp_right fun h => h.imp_right .inl
      have hreply : ownLotHold tag policy s = ok (policyChange l e.policy p t) := by
        rw [ownLotHold_of_live hp hl hlive', engineerHold_of_held hlive hholds hkind hpos hothers]
        rfl
      have hblocked (hp : p ≠ .mark) : (t.lot l).lotBlocked = true := by
        rw [hlot]
        exact refreshedLot_lotBlocked (x := x) (before := before) (after := after) (e := e) (t := s.floorClock) hpos hp
      have hidle' (hidle : x.idle) : (t.lot l).idle := by
        rw [hlot]
        exact hidle
      have hcls (m : LotSlot) : (t.lot m).cls = (s.lot m).cls := by
        by_cases hm : l = m
        · subst hm; rw [hlot]
        · rw [setLot_lot_ne s _ hm]
      have hlive'' : (t.lot l).state = .waiting ∨ (t.lot l).state = .running ∨ (t.lot l).state = .held := by
        rw [hlot]
        exact hlive
      rw [hreply]
      refine ⟨fun hsame => ?_, fun hstop hfinish hidle => ?_, fun hne htight hmark hidle => ?_,
        fun place r htight hstop honly hrun hcell => ?_,
        fun hne hmark hheld hopen hroute hidle hassign hfree hout hage hcell hhot => ?_⟩
      · rw [hsame, policyChange_same]
      · rw [hstop, hfinish]
        refine congrArg (fun t => Host.Outcome.next (respond h 0x0312 (ok t))) ?_
        show heldTest l t = _
        by_cases hheld : x.state = .held
        · rw [heldTest_keeps (.inl (by rw [hlot]; simp [y, hheld])), ht]
          rw [← hheld]
        · rw [heldTest_holds (by rw [hlot]; exact hlive.imp_right fun h => h.resolve_right hheld)
            (hblocked (by simp [hfinish])) (lotWorking_of_idle (hidle' hidle)), hlot]
          exact congrArg (fun v => { s with lots := v }) (vset_vset s.lots l _ _)
      · rw [policyChange_tightens hne htight hmark, policyEffect_of_idle (hidle' hidle),
          heldTest_queueTest hlive'' (hblocked hmark) (lotWorking_of_idle (hidle' hidle)), hlot]
        refine congrArg (fun t => Host.Outcome.next (respond h 0x0312 (ok t))) ?_
        exact congrArg (fun v => { s with lots := v, queue := s.queue.filter (· ≠ l) }) (vset_vset s.lots l _ _)
      · subst hstop
        have honly' : onlyRun l place r t := ⟨fun q => by rw [hlot]; exact honly.1 q, honly.2⟩
        rw [policyChange_tightens (by rcases htight with h | h <;> simp [h]) (.inr rfl) (by simp),
          stop_at_testing honly' hrun hcell hlive'' (hblocked (by simp)), hlot]
        refine congrArg (fun t => Host.Outcome.next (respond h 0x0312 (ok t))) ?_
        show (sendOrder (s.run r).cell .handler .stop (s.setLot l y)).work _ _ _ _ _ = State.work _ _ _ _ _ _
        rw [setLot_work, sendOrder_work _ _ _ _ _ _ _ _ _ rfl]
        rw [show t.lots = vset s.lots l y from rfl]
        simp only [work_work, vset_vset, sendOrder_seqCounter]
        rfl
      · subst hmark
        rw [policyChange_loosens hne, freeing_of_held (by rw [hlot]; exact hheld) (by rw [hlot]; exact hopen)
          (by rw [hlot]; exact hroute) (hidle' hidle) (by rw [hlot]; exact refreshedLot_not_lotBlocked hfree)
          (by rw [hlot]; exact hassign) (by exact hout) (by rw [hlot]; exact hage)]
        · rw [hlot]
          refine congrArg (fun t => Host.Outcome.next (respond h 0x0312 (ok t))) ?_
          have htwice : t.setLot l { y with state := if y.stepStarted then .running else .waiting } =
              s.setLot l { y with state := if y.stepStarted then .running else .waiting } :=
            congrArg (fun v => { s with lots := v }) (vset_vset s.lots l _ _)
          rw [htwice]
          rfl
        · rw [hlot]
          exact noCellFor_congr (s := s) rfl hcell
        · rw [hlot]
          exact noCandidateFor_congr (s := s) rfl rfl hcls hhot

/-! ## A lot hold at an open run (R9, R10) -/

/-- A new ENGINEER record on a lot in work: the record and its notice, then what the policy does (R8). -/
theorem engineerHold_of_work {l : LotSlot} {p : Policy} {s : State}
    (hstate : (s.lot l).state = .waiting ∨ (s.lot l).state = .running)
    (hnew : (s.lot l).holdsKind .engineer none = false) :
    engineerHold l p s =
      heldTest l (queueTest l (policyEffect l none p none (withHold l .engineer none p none s))) := by
  rw [engineerHold_of_new (hstate.imp_right .inl) hnew,
    addHold_of_unfinished (by rcases hstate with h | h <;> simp [h])]
  rfl

theorem withHold_onlyRun {l : LotSlot} {k : HoldKind} {pos : Option RunPlace} {policy : Policy} {value : Option Nat}
    {p : RunPlace} {r : RunIx} {s : State} (h : onlyRun l p r s) : onlyRun l p r (withHold l k pos policy value s) :=
  ⟨fun q => by rw [withHold_openAt]; exact h.1 q, by rw [withHold_run]; exact h.2⟩

theorem withHold_lotBlocked {l : LotSlot} {k : HoldKind} {policy : Policy} {value : Option Nat} {s : State}
    (h : policy ≠ .mark) : ((withHold l k none policy value s).lot l).lotBlocked = true := by
  rw [withHold_lot, lotBlocked_append]
  cases policy <;> simp_all [newHold, Policy.restrains]

/-- Settles O22. -/
theorem holdsReachTheOpenRun : Obligations.HoldsReachTheOpenRun := by
  refine ⟨fun h tag l p r s ho hl hstate hnew honly hrun hcell => ?_,
    fun h tag policy pol l p r j s ho hl hcode hpol hstate hnew honly hrun => ?_⟩
  · intro c u
    have hlive : (s.lot l).state = .waiting ∨ (s.lot l).state = .running ∨ (s.lot l).state = .held
      ∨ (s.lot l).state = .finished := hstate.imp_right .inl
    rw [exec_inOperate (kind := 0x0312) (own := ownLotHold tag 0) ho rfl rfl,
      ownLotHold_of_live (p := .stop) rfl hl hlive, engineerHold_of_work hstate hnew,
      stop_at_testing (withHold_onlyRun honly) (by rw [withHold_run]; exact hrun)
        (by rw [withHold_run, withHold_cell]; exact hcell) (by rw [withHold_lot]; exact hstate.imp_right .inl)
        (withHold_lotBlocked (by simp))]
    refine congrArg (fun t => Host.Outcome.next (respond h 0x0312 (ok t))) ?_
    show _ = State.work _ _ _ _ _ _
    have hstation : (postNotice (.holdRaised (s.lot l).tag .engineer none .stop none) s).cells[(s.run r).cell].station .handler
        = ((postNotice (.holdRaised (s.lot l).tag .engineer none .stop none) s).cell (s.run r).cell).station .handler := rfl
    simp only [withHold_lot, withHold_run, withHold_cell]
    rw [withHold_eq, setLot_work, sendOrder_work _ _ _ _ _ _ _ _ _ hstation]
    simp only [work_work, work_lots, work_runs, work_cells, work_queue, work_seqCounter, vset_vset, postNotice_lots,
      postNotice_runs, postNotice_cells, postNotice_queue, postNotice_seqCounter, work_timer, postNotice_timer, u,
      sendOrder_seqCounter]
    rfl
  · intro c k x hcur hres hstack hprep htarget
    rw [exec_inOperate (kind := 0x0312) (own := ownLotHold tag policy) ho rfl rfl,
      ownLotHold_of_live hcode hl (hstate.imp_right .inl), engineerHold_of_work hstate hnew,
      hold_at_assigned (withHold_onlyRun honly) (by rw [withHold_run]; exact hrun) hpol
        (by rw [withHold_lot]; exact hstate) (withHold_lotBlocked hpol)]
    refine congrArg (fun t => Host.Outcome.next (respond h 0x0312 (ok t))) ?_
    show _ = State.work _ _ _ _ _ _
    simp only [withHold_lot, withHold_run, withHold_cell]
    rw [forget_current (by exact hcur) (by exact hres) (by exact hstack) (by exact hprep) htarget, withHold_eq, setLot_work]
    simp only [work_work, work_lots, work_runs, work_cells, work_queue, work_seqCounter, vset_vset, postNotice_lots,
      postNotice_runs, postNotice_cells, postNotice_queue, postNotice_seqCounter]
    rfl

end Sys2Proof.Machine
end

section
/-! SUPPORT. The rules of the shared operations on cells that lose a run: deadlines cancelled, the record freed, and a cell
with nothing to pop or match gone IDLE (R84, R149, R153). -/

set_option Elab.async false

namespace Sys2Proof.Machine

theorem setCell_self (c : CellIx) (s : State) : s.setCell c (s.cell c) = s :=
  congrArg (fun v => { s with cells := v }) (vset_self s.cells c)

/-! ## Deadlines (R153) -/

theorem Cell.cancelRun_of_none {k : Cell} {x : DeadlineKind} (hdeadline : k.deadline = none) (hprep : k.prep = none) :
    k.cancelRun x = k := by
  cases k
  simp_all [Cell.cancelRun, Cell.modPrep]

theorem cancelDeadlines_of_none {r : RunIx} {s : State} (hdeadline : (s.cell (s.run r).cell).deadline = none)
    (hprep : (s.cell (s.run r).cell).prep = none) : cancelDeadlines r s = s := by
  have hcancel (x : DeadlineKind) : cancelRunDeadline (s.run r).cell x s = s := by
    rw [cancelRunDeadline, State.modCell, Cell.cancelRun_of_none hdeadline hprep, setCell_self]
  rw [cancelDeadlines]
  rw [hcancel, hcancel, ite_self]

/-! ## A cell with nothing to do (R84, R93, R119) -/

/-- A cell that enters IDLE (R91). -/
def Cell.idleAt (k : Cell) (now : Nat) : Cell :=
  { k with state := .idle, cause := none, since := now, acc := k.accNow now }

/-- A cell whose queue holds nothing for it goes IDLE and stays so. -/
theorem goIdle_of_nothing {c : CellIx} {s : State} (hstate : (s.cell c).state ≠ .idle)
    (hchanged : (s.cell c).changed = false) (hno : nothingFor c s) :
    goIdle c s = s.setCell c ((s.cell c).idleAt s.timer) := by
  have henter : enterCell c .idle none s = s.setCell c ((s.cell c).idleAt s.timer) := enterCell_of_ne hstate
  have hcell : (s.setCell c ((s.cell c).idleAt s.timer)).cell c = (s.cell c).idleAt s.timer := setCell_cell ..
  have hno' : nothingFor c (s.setCell c ((s.cell c).idleAt s.timer)) := by
    rw [nothingFor, hcell]
    exact hno
  rw [goIdle, henter]
  rw [hcell, if_neg (by simp [Cell.idleAt, hchanged]), matchCell_of_nothingFor hno']

/-- The same with the changed marker set: CELL_CHANGED is posted (R93). -/
theorem goIdle_marked {c : CellIx} {s : State} (hstate : (s.cell c).state ≠ .idle)
    (hchanged : (s.cell c).changed = true) (hno : nothingFor c s) :
    goIdle c s = postNotice (.cellChanged c .idle none)
      (s.setCell c { (s.cell c).idleAt s.timer with changed := false }) := by
  have henter : enterCell c .idle none s = s.setCell c ((s.cell c).idleAt s.timer) := enterCell_of_ne hstate
  have hcell : (s.setCell c ((s.cell c).idleAt s.timer)).cell c = (s.cell c).idleAt s.timer := setCell_cell ..
  have htwice : (s.setCell c ((s.cell c).idleAt s.timer)).modCell c (fun k => { k with changed := false }) =
      s.setCell c { (s.cell c).idleAt s.timer with changed := false } := by
    rw [State.modCell, hcell]
    exact congrArg (fun v => { s with cells := v }) (vset_vset s.cells c _ _)
  rw [goIdle, henter]
  rw [hcell, if_pos (by exact hchanged), htwice, matchCell_of_nothingFor]
  simp only [nothingFor, postNotice_cell, setCell_cell, postNotice_queue, setCell_queue, postNotice_lot, setCell_lot]
  exact hno.imp id fun h l hl => by
    have hstep : stepOf (postNotice (.cellChanged c .idle none)
        (s.setCell c { (s.cell c).idleAt s.timer with changed := false })) (s.lot l) = stepOf s (s.lot l) := by
      simp [stepOf]
    rw [hstep]
    exact h l hl

theorem popOrIdle_of_empty {c : CellIx} {s : State} (h : (s.cell c).stack = []) : popOrIdle c s = goIdle c s := by
  rw [popOrIdle, h]

/-! ## A run leaves its cell (R149) -/

theorem freeRun_eq (r : RunIx) (s : State) :
    freeRun r s = (s.setRun r .free).setCell (s.run r).cell ((s.cell (s.run r).cell).forget r) := rfl

theorem vacate_of_current {r : RunIx} {s : State} (hcur : (s.cell (s.run r).cell).current = some r)
    (hstate : (s.cell (s.run r).cell).state = .running ∨ (s.cell (s.run r).cell).state = .stopped) :
    vacate r s = popOrIdle (s.run r).cell (freeRun r s) := by
  rw [vacate]
  rw [if_pos hcur]
  rcases hstate with h | h <;> rw [h]

/-- A cell without a run that it held as its current run and may hold as its reserved one (R149). -/
def Cell.without (k : Cell) (r : RunIx) : Cell :=
  { k with current := none, reserved := if k.reserved = some r then none else k.reserved }

theorem forget_of_bare {k : Cell} {r : RunIx} (hcur : k.current = some r) (hstack : r ∉ k.stack) (hprep : k.prep = none) :
    k.forget r = k.without r := by
  have hfilter : k.stack.filter (· ≠ r) = k.stack :=
    List.filter_eq_self.2 fun q hq => decide_eq_true fun h => hstack (h ▸ hq)
  rw [Cell.forget, Cell.without, hfilter, hcur, hprep, if_pos rfl]
  rfl

/-- A cell that its current run leaves, with nothing to pop or match, goes IDLE (R84, R149). -/
theorem vacate_to_idle {r : RunIx} {s : State} (hcur : (s.cell (s.run r).cell).current = some r)
    (hstate : (s.cell (s.run r).cell).state = .running ∨ (s.cell (s.run r).cell).state = .stopped)
    (hstack : (s.cell (s.run r).cell).stack = []) (hprep : (s.cell (s.run r).cell).prep = none)
    (hchanged : (s.cell (s.run r).cell).changed = false) (hno : nothingFor (s.run r).cell s) :
    vacate r s =
      (s.setRun r .free).setCell (s.run r).cell (((s.cell (s.run r).cell).idleAt s.timer).without r) := by
  have hcell : (freeRun r s).cell (s.run r).cell = (s.cell (s.run r).cell).without r := by
    rw [freeRun_eq, setCell_cell, forget_of_bare hcur (by simp [hstack]) hprep]
  have hidle : ((s.cell (s.run r).cell).without r).idleAt s.timer = ((s.cell (s.run r).cell).idleAt s.timer).without r := rfl
  have hno' : nothingFor (s.run r).cell (freeRun r s) := by
    rw [nothingFor, hcell]
    exact hno
  rw [vacate_of_current hcur hstate, popOrIdle_of_empty (by rw [hcell]; exact hstack),
    goIdle_of_nothing (by rw [hcell]; rcases hstate with h | h <;> simp [Cell.without, h]) (by rw [hcell]; exact hchanged)
      hno', hcell]
  exact congrArg (fun v => { s with runs := vset s.runs r .free, cells := v }) (vset_vset s.cells _ _ _)

end Sys2Proof.Machine
end

section
/-! PROOF. LOT_SCRAP and RUN_ABORT of a lot with one open run (O24, O27). -/

set_option Elab.async false

namespace Sys2Proof.Machine

/-! ## LOT_SCRAP (R26) -/

theorem marks_inAny_iff (x : Lot) :
    x.marks.toList.any PortionMark.inAny = true ↔ ∃ (g : Fin 4) (n : ShipSlot), x.marks[g] = .inShipment n := by
  rw [List.any_eq_true]
  constructor
  · rintro ⟨m, hm, hin⟩
    obtain ⟨i, hi, rfl⟩ := List.getElem_of_mem hm
    rw [Vector.length_toList] at hi
    rw [Vector.getElem_toList] at hin
    refine ⟨⟨i, hi⟩, ?_⟩
    show ∃ n, x.marks[i] = _
    cases h : x.marks[i] with
    | inShipment n => exact ⟨n, rfl⟩
    | free => rw [h] at hin; exact absurd hin (by simp [PortionMark.inAny])
    | released => rw [h] at hin; exact absurd hin (by simp [PortionMark.inAny])
  · rintro ⟨g, n, h⟩
    exact ⟨x.marks[g], Vector.mem_toList_iff.2 (Vector.getElem_mem _), by rw [h]; rfl⟩

theorem ownLotScrap_of_live {tag : Tag} {l : LotSlot} {s : State} (hl : findLot s tag = some l)
    (hreleased : (s.lot l).state ≠ .released) (hscrapped : (s.lot l).state ≠ .scrapped)
    (hshipped : ¬ ∃ (g : Fin 4) (n : ShipSlot), (s.lot l).marks[g] = .inShipment n) :
    ownLotScrap tag s = ok (scrapLot l s) := by
  rw [ownLotScrap, hl]
  dsimp only
  rw [if_neg hreleased, if_neg (by rwa [marks_inAny_iff]), if_neg hscrapped]

/-- An open run of a scrapped lot: TESTING on a RUNNING cell with nothing to pop or match (R26, R149). -/
theorem scrapRun_of_testing {r : RunIx} {s : State} (hrun : (s.run r).state = .testing)
    (hcur : (s.cell (s.run r).cell).current = some r) (hstate : (s.cell (s.run r).cell).state = .running)
    (hstack : (s.cell (s.run r).cell).stack = []) (hdeadline : (s.cell (s.run r).cell).deadline = none)
    (hprep : (s.cell (s.run r).cell).prep = none) (hchanged : (s.cell (s.run r).cell).changed = false)
    (hno : nothingFor (s.run r).cell s) :
    scrapRun r s = (sendOrder (s.run r).cell .handler .stop s).work
      (vset s.lots (s.run r).lot
        { s.lot (s.run r).lot with runs := vset (s.lot (s.run r).lot).runs (s.run r).pos .absent })
      (vset s.runs r .free)
      (vset s.cells (s.run r).cell (((s.cell (s.run r).cell).idleAt s.timer).without r)) s.queue s.seqCounter := by
  have hstop : sendStop r s = sendOrder (s.run r).cell .handler .stop s := by
    rw [sendStop, hrun]
    rfl
  have hcancel : cancelDeadlines r (sendOrder (s.run r).cell .handler .stop s) =
      sendOrder (s.run r).cell .handler .stop s :=
    cancelDeadlines_of_none (by simpa using hdeadline) (by simpa using hprep)
  set v := (sendOrder (s.run r).cell .handler .stop s).setLot (s.run r).lot
    { s.lot (s.run r).lot with runs := vset (s.lot (s.run r).lot).runs (s.run r).pos .absent } with hv
  have hrun' : v.run r = s.run r := by simp [hv]
  have hcell : v.cell (s.run r).cell = s.cell (s.run r).cell := by simp [hv]
  have hno' : nothingFor (s.run r).cell v := by
    rw [nothingFor, hcell]
    refine hno.imp id fun h m hm => ?_
    have hstep : stepOf v (v.lot m) = stepOf s (s.lot m) := by
      have hlot : (v.lot m).route = (s.lot m).route ∧ (v.lot m).step = (s.lot m).step := by
        by_cases hml : (s.run r).lot = m
        · subst hml; rw [hv, setLot_lot]; exact ⟨rfl, rfl⟩
        · rw [hv, setLot_lot_ne _ _ hml, sendOrder_lot]; exact ⟨rfl, rfl⟩
      exact stepOf_congr (by simp [hv]) hlot.1 hlot.2
    rw [hstep]
    exact h m (by simpa [hv] using hm)
  have hscrap : scrapRun r s = vacate r v := by
    rw [scrapRun, hstop, hcancel]
    simp only [State.modLot, sendOrder_run, sendOrder_lot, hv]
  rw [hscrap, vacate_to_idle (by rw [hrun', hcell]; exact hcur) (by rw [hrun', hcell]; exact .inl hstate)
    (by rw [hrun', hcell]; exact hstack) (by rw [hrun', hcell]; exact hprep) (by rw [hrun', hcell]; exact hchanged)
    (by rw [hrun']; exact hno'), hrun', hcell, hv]
  simp only [setRun_work, setCell_work, setLot_work, work_work, work_lots, work_runs, work_cells, work_queue,
    work_seqCounter, work_timer, sendOrder_lots, sendOrder_runs, sendOrder_cells, sendOrder_queue, sendOrder_seqCounter,
    sendOrder_timer]

/-- Settles O24. -/
theorem lotScrapScrapsTheLot : Obligations.LotScrapScrapsTheLot := by
  refine ⟨fun h tag s ho => ?_, fun h tag p l r s ho hl hstate hmarks honly hrun => ?_⟩
  · rw [exec_inOperate (kind := 0x0314) (own := ownLotScrap tag) ho rfl rfl]
    refine ⟨fun hl => ?_, fun l hl => ?_⟩
    · rw [ownLotScrap, hl]
    · intro x shipped
      have hshipped : shipped ↔ (s.lot l).marks.toList.any PortionMark.inAny = true := (marks_inAny_iff _).symm
      refine ⟨fun hreleased => ?_, fun hreleased hin => ?_, fun hscrapped hout => ?_,
        fun hreleased hscrapped hout hidle => ?_⟩
      · rw [ownLotScrap, hl]
        exact congrArg (fun t => Host.Outcome.next (respond h 0x0314 t)) (if_pos hreleased)
      · rw [ownLotScrap, hl]
        exact congrArg (fun t => Host.Outcome.next (respond h 0x0314 t))
          ((if_neg hreleased).trans (if_pos (hshipped.1 hin)))
      · rw [ownLotScrap, hl]
        exact congrArg (fun t => Host.Outcome.next (respond h 0x0314 t))
          ((if_neg (by simp [show (s.lot l).state = _ from hscrapped])).trans
            ((if_neg (fun h => hout (hshipped.2 h))).trans (if_pos hscrapped)))
      · rw [ownLotScrap_of_live hl hreleased hscrapped hout, scrapLot_eq,
          eachOpen_of_idle (s := queueRemove l s) (by exact hidle)]
        rfl
  · intro c k x hcell hcur hstack hdeadline hprep hchanged hno
    rw [exec_inOperate (kind := 0x0314) (own := ownLotScrap tag) ho rfl rfl,
      ownLotScrap_of_live hl (by rcases hstate with h | h | h <;> simp [h])
        (by rcases hstate with h | h | h <;> simp [h]) (by rintro ⟨g, n, h⟩; rw [hmarks g] at h; exact absurd h (by simp))]
    refine congrArg (fun t => Host.Outcome.next (respond h 0x0314 (ok t))) ?_
    have hno' : nothingFor c (queueRemove l s) := hno.imp id fun h m hm => by
      have hm : m ∈ s.queue ∧ m ≠ l := by simpa [queueRemove] using hm
      exact h m hm.1 hm.2
    have hscrap := scrapRun_of_testing (s := queueRemove l s) (r := r) hrun hcur hcell hstack hdeadline hprep hchanged hno'
    have honly' : onlyRun l p r (queueRemove l s) := honly
    obtain ⟨-, hlot, hpos⟩ := honly
    set u := (sendOrder c .handler .stop s).work (vset s.lots l { x with runs := vset x.runs p .absent })
      (vset s.runs r .free) (vset s.cells c ((k.idleAt s.timer).without r)) (s.queue.filter (· ≠ l)) s.seqCounter with hu
    have hfirst : scrapRun r (queueRemove l s) = u := by
      rw [hscrap]
      simp only [queueRemove_run, queueRemove_lot, queueRemove_cell, hlot, hpos]
      rw [queueRemove_work, sendOrder_work _ _ _ _ _ _ _ _ _ rfl]
      rfl
    have hulot : u.lot l = { x with runs := vset x.runs p .absent } := by rw [hu, work_lot, vset_get_same]
    have hopen : eachOpen l none scrapRun (queueRemove l s) = u :=
      (eachOpen_of_onlyRun honly' fun q hq => by
        rw [hfirst, hulot]
        have := returned_openAt x p q
        rw [if_neg hq] at this
        exact this.trans ((honly'.1 q).trans (if_neg hq))).trans hfirst
    rw [scrapLot_eq, hopen]
    simp only [hulot]
    have hroutes : (u.setLot l { x with runs := vset x.runs p .absent : Lot }.scrapped).routes = s.routes :=
      sendOrder_routes ..
    rw [modRefs, State.modRoute, State.setRoute, State.route, hroutes, hu, setLot_work]
    simp only [work_work, work_lots, work_runs, work_cells, work_queue, work_seqCounter, vset_vset]
    rw [← sendOrder_seqCounter s c .handler .stop]
    rfl

end Sys2Proof.Machine
end

section
/-! PROOF. The close of a run with further positions in its step (R149), and RUN_ABORT of a TESTING run (O27). -/

set_option Elab.async false

namespace Sys2Proof.Machine

/-! ## Deadlines of a run (R153) -/

theorem Cell.cancelRun_both {k : Cell} (hprep : k.prep = none) (hrun : runDeadline k) :
    (k.cancelRun .closing).cancelRun .counts = { k with deadline := none } := by
  cases hd : k.deadline with
  | none =>
    rw [Cell.cancelRun_of_none hd hprep, Cell.cancelRun_of_none hd hprep, ← hd]
  | some d =>
    rcases hrun d (by simp [hd]) with h | h <;> cases k <;> simp_all [Cell.cancelRun, Cell.modPrep]

theorem cancelDeadlines_of_current {r : RunIx} {s : State} (hcur : (s.cell (s.run r).cell).current = some r)
    (hprep : (s.cell (s.run r).cell).prep = none) (hrun : runDeadline (s.cell (s.run r).cell)) :
    cancelDeadlines r s = s.setCell (s.run r).cell { s.cell (s.run r).cell with deadline := none } := by
  rw [cancelDeadlines, if_pos hcur, cancelRunDeadline, cancelRunDeadline, State.modCell, State.modCell, setCell_cell,
    Cell.cancelRun_both hprep hrun]
  exact congrArg (fun v => { s with cells := v }) (vset_vset s.cells _ _ _)

/-! ## The close of a run (R18, R149) -/

/-- The close of a run, reported to a lot whose step has further positions (R18, R149). -/
theorem reportClose_of_further {r : RunIx} {s : State}
    (hmore : (s.lot (s.run r).lot).closedRuns + 1 < (s.lot (s.run r).lot).runsPerStep) :
    reportClose r s = heldTest (s.run r).lot
      (s.setLot (s.run r).lot ((s.lot (s.run r).lot).withClosed (stepOfRun s r) (s.run r))) := by
  have hne : ((s.lot (s.run r).lot).withClosed (stepOfRun s r) (s.run r)).closedRuns ≠
      ((s.lot (s.run r).lot).withClosed (stepOfRun s r) (s.run r)).runsPerStep := by
    show (s.lot (s.run r).lot).closedRuns + 1 ≠ (s.lot (s.run r).lot).runsPerStep
    omega
  rw [reportClose, State.modLot]
  simp only [setLot_lot, if_neg hne]

theorem withClosed_openAt (x : Lot) (st : Step) (run : Run) (q : RunPlace) :
    (x.withClosed st run).openAt q = if q = run.pos then none else x.openAt q := by
  rw [Lot.openAt, Lot.openAt, Lot.withClosed]
  dsimp only
  rw [vset_get]
  by_cases h : run.pos = q
  · simp [h]
  · rw [if_neg h, if_neg (Ne.symm h)]

/-- The lot of a closed run, with further positions and no other run open, after the HELD test (R14, R18). -/
def Lot.closedHeld (x : Lot) (st : Step) (run : Run) : Lot :=
  { x.withClosed st run with state := if x.lotBlocked then .held else x.state }

/-- What the dispatcher reads of a floor whose lots keep their steps (R118, R119). -/
theorem nothingFor_congr {c : CellIx} {s t : State} (hdrain : (t.cell c).draining = (s.cell c).draining)
    (hcls : (t.cell c).cls = (s.cell c).cls) (hqueue : ∀ l ∈ t.queue, l ∈ s.queue) (hroutes : t.routes = s.routes)
    (hlots : ∀ l, (t.lot l).route = (s.lot l).route ∧ (t.lot l).step = (s.lot l).step) (h : nothingFor c s) :
    nothingFor c t := by
  rw [nothingFor, hdrain]
  refine h.imp id fun h l hl => ?_
  rw [stepOf_congr (x := s.lot l) (y := t.lot l) (s := s) (t := t) hroutes (hlots l).1 (hlots l).2, compatible, hcls]
  exact h l (hqueue l hl)

/-- The one open run of a lot closes, with further positions in the step, and leaves its cell (R18, R149). -/
theorem closeRun_vacates {l : LotSlot} {p : RunPlace} {r : RunIx} {s : State} (honly : onlyRun l p r s)
    (hstate : (s.lot l).state = .waiting ∨ (s.lot l).state = .running)
    (hmore : (s.lot l).closedRuns + 1 < (s.lot l).runsPerStep) (hcur : (s.cell (s.run r).cell).current = some r)
    (hdeadline : runDeadline (s.cell (s.run r).cell)) (hprep : (s.cell (s.run r).cell).prep = none) :
    closeRun r s = vacate r ((s.setCell (s.run r).cell { s.cell (s.run r).cell with deadline := none }).setLot l
      ((s.lot l).closedHeld (stepOf s (s.lot l)) (s.run r))) := by
  obtain ⟨hopen, hlot, hpos⟩ := honly
  set c := (s.run r).cell with hc
  set s1 := s.setCell c { s.cell c with deadline := none } with hs1
  have hcancel : cancelDeadlines r s = s1 := cancelDeadlines_of_current hcur hprep hdeadline
  set y := (s.lot l).withClosed (stepOf s (s.lot l)) (s.run r) with hy
  have hstep : stepOfRun s1 r = stepOf s (s.lot l) := by
    show stepOf s (s.lot (s.run r).lot) = _
    rw [hlot]
  have hidle : y.idle := fun q => by
    rw [hy, withClosed_openAt, hpos, hopen q]
    split <;> rfl
  have hheld : heldTest l (s1.setLot l y) = s1.setLot l ((s.lot l).closedHeld (stepOf s (s.lot l)) (s.run r)) := by
    have hylot : (s1.setLot l y).lot l = y := setLot_lot ..
    by_cases hblocked : (s.lot l).lotBlocked = true
    · rw [heldTest_holds (by rw [hylot]; exact hstate) (by rw [hylot]; exact hblocked)
        (by rw [hylot]; exact lotWorking_of_idle hidle), hylot, Lot.closedHeld, if_pos hblocked]
      exact congrArg (fun v => { s1 with lots := v }) (vset_vset s.lots l _ _)
    · rw [heldTest_keeps (.inr (.inl (by rw [hylot]; exact Bool.eq_false_iff.2 hblocked))), Lot.closedHeld,
        if_neg hblocked]
      rfl
  have hreport : reportClose r s1 = s1.setLot l ((s.lot l).closedHeld (stepOf s (s.lot l)) (s.run r)) := by
    have hmore' : (s1.lot (s1.run r).lot).closedRuns + 1 < (s1.lot (s1.run r).lot).runsPerStep := by
      show (s.lot (s.run r).lot).closedRuns + 1 < (s.lot (s.run r).lot).runsPerStep
      rw [hlot]
      exact hmore
    rw [reportClose_of_further hmore', hstep]
    show heldTest (s.run r).lot (s1.setLot (s.run r).lot ((s.lot (s.run r).lot).withClosed _ (s.run r))) = _
    rw [hlot]
    exact hheld
  rw [closeRun, hcancel, hreport]

/-- The same on a cell that has nothing to pop or match (R84). -/
theorem closeRun_of_further {l : LotSlot} {p : RunPlace} {r : RunIx} {s : State} (honly : onlyRun l p r s)
    (hstate : (s.lot l).state = .waiting ∨ (s.lot l).state = .running)
    (hmore : (s.lot l).closedRuns + 1 < (s.lot l).runsPerStep) (hcur : (s.cell (s.run r).cell).current = some r)
    (hcell : (s.cell (s.run r).cell).state = .running) (hstack : (s.cell (s.run r).cell).stack = [])
    (hdeadline : runDeadline (s.cell (s.run r).cell)) (hprep : (s.cell (s.run r).cell).prep = none)
    (hchanged : (s.cell (s.run r).cell).changed = false) (hno : nothingFor (s.run r).cell s) :
    closeRun r s = s.work (vset s.lots l ((s.lot l).closedHeld (stepOf s (s.lot l)) (s.run r))) (vset s.runs r .free)
      (vset s.cells (s.run r).cell { ((s.cell (s.run r).cell).idleAt s.timer).without r with deadline := none }) s.queue
      s.seqCounter := by
  rw [closeRun_vacates honly hstate hmore hcur hdeadline hprep]
  set c := (s.run r).cell with hc
  set s1 := s.setCell c { s.cell c with deadline := none } with hs1
  set v := s1.setLot l ((s.lot l).closedHeld (stepOf s (s.lot l)) (s.run r)) with hv
  have hrun : v.run r = s.run r := rfl
  have hvcell : v.cell c = { s.cell c with deadline := none } := by rw [hv, setLot_cell, hs1, setCell_cell]
  have hno' : nothingFor c v := by
    refine nothingFor_congr (s := s) (by rw [hvcell]) (by rw [hvcell]) (fun _ h => h) rfl (fun m => ?_) hno
    by_cases hm : l = m
    · subst hm; rw [hv, setLot_lot]; exact ⟨rfl, rfl⟩
    · rw [hv, setLot_lot_ne _ _ hm]; exact ⟨rfl, rfl⟩
  rw [vacate_to_idle (by rw [hrun, ← hc, hvcell]; exact hcur) (by rw [hrun, ← hc, hvcell]; exact .inl hcell)
    (by rw [hrun, ← hc, hvcell]; exact hstack) (by rw [hrun, ← hc, hvcell]; exact hprep)
    (by rw [hrun, ← hc, hvcell]; exact hchanged) (by rw [hrun]; exact hno'), hrun, ← hc, hvcell, hv, hs1]
  simp only [setRun_work, setCell_work, setLot_work, work_work, work_lots, work_runs, work_cells, work_queue,
    work_seqCounter, work_timer, vset_vset]
  rfl

/-! ## A FINISH raise while a run is at work (R10, R14) -/

theorem lotWorking_of_openAt {s : State} {x : Lot} {p : RunPlace} {r : RunIx} (hopen : x.openAt p = some r)
    (hrun : (s.run r).state.isWorking = true) : lotWorking s x = true := by
  have hp : x.runs[p] = .run r := by
    rw [Lot.openAt] at hopen
    cases h : x.runs[p] with
    | run r' =>
      rw [h] at hopen
      exact congrArg RunPos.run (Option.some.inj hopen)
    | absent => rw [h] at hopen; exact absurd hopen (by simp)
    | closed => rw [h] at hopen; exact absurd hopen (by simp)
  rw [lotWorking, List.any_eq_true]
  exact ⟨p, mem_places p, by rw [hp]; exact hrun⟩

/-- A RECON hold raised while the lot's one open run is at work, where it is passed over or ENDING: the lot leaves the
queue, and is HELD only when the run closes (R10, R14). -/
theorem raiseRecon_of_working {l : LotSlot} {p : RunPlace} {r : RunIx} {skip : Option RunIx} {s : State}
    (hstate : (s.lot l).state = .waiting ∨ (s.lot l).state = .running) (hnew : (s.lot l).holdsKind .recon none = false)
    (honly : onlyRun l p r s) (hrun : (s.run r).state.isWorking = true)
    (hskip : skip = none ∨ skip = some r) :
    raiseHold l .recon none none .stop skip s = queueRemove l (withHold l .recon none .finish none s) := by
  have hnotFinished : (s.lot l).state ≠ .finished := by rcases hstate with h | h <;> simp [h]
  have htakes : (s.lot l).state.takesHold .recon = true := by rcases hstate with h | h <;> rw [h] <;> rfl
  set w := withHold l .recon none .finish none s with hw
  have hopen : (w.lot l).openAt p = some r := by rw [hw, withHold_openAt, honly.1 p, if_pos rfl]
  have hworking : lotWorking w (w.lot l) = true :=
    lotWorking_of_openAt hopen (by rw [hw, withHold_run]; exact hrun)
  have hfinish : finishOpen r w = w := by
    rw [finishOpen, if_neg]
    rw [hw, withHold_run]
    intro h
    rw [h] at hrun
    exact absurd hrun (by simp [RunState.isWorking])
  have heffect : policyEffect l none .finish skip w = w := by
    rcases hskip with rfl | rfl
    · exact (eachOpen_of_onlyRun (withHold_onlyRun honly) fun q hq => by
        rw [hfinish, hw, withHold_openAt, honly.1 q, if_neg hq]).trans hfinish
    · refine eachOpen_of_none fun q r' hr' => ?_
      rw [hw, withHold_openAt, honly.1 q] at hr'
      split at hr'
      · exact hr'
      · exact absurd hr' (by simp)
  rw [raiseHold_of_new htakes hnew, addHold_of_unfinished hnotFinished]
  show heldTest l (queueTest l (policyEffect l none .finish skip w)) = _
  rw [heffect, queueTest_leaves (belongsInQueue_of_blocked (withHold_lotBlocked (by simp)))]
  exact heldTest_keeps (.inr (.inr hworking))

/-! ## RUN_ABORT (R151) -/

theorem runPlaceOf_eq {b : Byte} {p : RunPlace} (h : p.val = b.toNat) : runPlaceOf b = some p := by
  rw [runPlaceOf, dif_pos (by omega)]
  exact congrArg some (Fin.ext h.symm)

/-- Settles O27. -/
theorem runAbortClosesTheRun : Obligations.RunAbortClosesTheRun := by
  refine ⟨fun h tag pos s ho => ?_, fun h tag pos p l r s ho hpos hl hstate hnew honly hrun hmore => ?_⟩
  · rw [exec_inOperate (kind := 0x0317) (own := ownRunAbort tag pos) ho rfl rfl]
    refine ⟨fun hpos => ?_, fun hpos hl => ?_, fun p l hpos hl hnone => ?_⟩
    · rw [ownRunAbort, runPlaceOf, dif_neg (by omega)]
    · rw [ownRunAbort, runPlaceOf, dif_pos (by omega)]
      dsimp only
      rw [hl]
    · rw [ownRunAbort, runPlaceOf_eq hpos]
      dsimp only
      rw [hl]
      dsimp only
      rw [hnone]
  · intro c k hcell hcur hstack hdeadline hprep hchanged hno u
    have hown : ownRunAbort tag pos s = ok (abortRun l r s) := by
      rw [ownRunAbort, runPlaceOf_eq hpos]
      dsimp only
      rw [hl]
      dsimp only
      rw [honly.1 p, if_pos rfl]
    rw [exec_inOperate (kind := 0x0317) (own := ownRunAbort tag pos) ho rfl rfl, hown]
    refine congrArg (fun t => Host.Outcome.next (respond h 0x0317 (ok t))) ?_
    have hstop : sendStop r s = sendOrder c .handler .stop s := by
      rw [sendStop, hrun]
      rfl
    rw [abortRun, hstop, raiseRecon_of_working (p := p) (r := r) (by simpa using hstate) (by simpa using hnew)
      (by simpa [onlyRun] using honly) (by rw [sendOrder_run, hrun]; rfl) (.inr rfl)]
    set v := queueRemove l (withHold l .recon none .finish none (sendOrder c .handler .stop s)) with hv
    have hrunv : v.run r = s.run r := by simp [hv]
    have hcellv : v.cell c = k := by simp [hv, k]
    have hlotv : v.lot l = { s.lot l with holds := (s.lot l).holds ++ [newHold s l .recon none .finish none] } := by
      simp [hv, newHold]
    have hlots (m : LotSlot) : (v.lot m).route = (s.lot m).route ∧ (v.lot m).step = (s.lot m).step := by
      by_cases hm : l = m
      · subst hm; rw [hlotv]; exact ⟨rfl, rfl⟩
      · rw [hv, queueRemove_lot, withHold, postNotice_lot, setLot_lot_ne _ _ hm, sendOrder_lot]; exact ⟨rfl, rfl⟩
    have hroutes : v.routes = s.routes := by simp [hv, queueRemove, withHold]
    have hnov : nothingFor c v := by
      have hno' : nothingFor c (queueRemove l s) := hno.imp id fun h m hm => by
        have hm : m ∈ s.queue ∧ m ≠ l := by simpa [queueRemove] using hm
        exact h m hm.1 hm.2
      refine nothingFor_congr (s := queueRemove l s) (by rw [hcellv]; rfl) (by rw [hcellv]; rfl) (fun m hm => ?_) hroutes
        hlots hno'
      simpa [hv, queueRemove, withHold] using hm
    have honlyv : onlyRun l p r v := ⟨fun q => by rw [hlotv]; exact honly.1 q, by rw [hrunv]; exact honly.2⟩
    have hstep : stepOf v (v.lot l) = stepOfRun s r := by
      rw [stepOfRun, lotOfRun, honly.2.1]
      exact stepOf_congr hroutes (hlots l).1 (hlots l).2
    have hblocked : (v.lot l).lotBlocked = true := withHold_lotBlocked (by simp)
    rw [closeRun_of_further honlyv (by rw [hlotv]; exact hstate) (by rw [hlotv]; exact hmore) (by rw [hrunv, hcellv]; exact hcur)
      (by rw [hrunv, hcellv]; exact hcell) (by rw [hrunv, hcellv]; exact hstack)
      (by rw [hrunv, hcellv]; simp [runDeadline, hdeadline]) (by rw [hrunv, hcellv]; exact hprep)
      (by rw [hrunv, hcellv]; exact hchanged) (by rw [hrunv]; exact hnov), hstep, Lot.closedHeld, hblocked, if_pos rfl,
      hrunv, hcellv, hlotv, hv, withHold_eq]
    show _ = State.work _ _ _ _ _ _
    simp only [setLot_work, queueRemove_work, work_work, work_lots, work_runs, work_cells, work_queue, work_seqCounter,
      work_timer, vset_vset, postNotice_lots, postNotice_runs, postNotice_cells, postNotice_queue, postNotice_seqCounter,
      postNotice_timer, sendOrder_lots, sendOrder_runs, sendOrder_cells, sendOrder_queue, sendOrder_seqCounter,
      sendOrder_timer, sendOrder_lot]
    have hbare : { (k.idleAt s.timer).without r with deadline := none } = (k.idleAt s.timer).without r := by
      show _ = { (k.idleAt s.timer).without r with deadline := k.deadline }
      rw [hdeadline]
    rw [hbare]
    simp only [Lot.withClosed, honly.2.2, u, postNotice_seqCounter, sendOrder_seqCounter]
    rfl

end Sys2Proof.Machine
end

section
/-! PROOF. How a report meets its owner: forwarded, heard, handed over (R73, R167, R169; O37), and the rules of `metBy`. -/

set_option Elab.async false

namespace Sys2Proof.Machine

/-! ## A report's owner -/

/-- What the owning block makes of a report from the station of a cell (R167). -/
def reportHandler : Instr → CellIx → Role → State → State
  | .state _ code => onState code
  | .setupDone _ kit temp => onSetupDone kit temp
  | .loadDone _ id rev sum => onLoadDone { id := id, revision := rev, checksum := sum }
  | .loadFail _ _ _ => onLoadFail
  | .goldenDone _ mask => onGoldenDone mask
  | .touchdown _ q es => onTouchdown q es
  | .passEnd _ pass fed last => onPassEnd pass.toNat fed.toNat last
  | .runCounts _ fed trays => onRunCounts fed.toNat trays
  | _ => fun _ _ s => s

theorem exec_report {i : Instr} {e : Envelope} {body : List Byte} (h : i.reportParts = some (e, body)) (s : State) :
    exec i s = .next (takeReport i e (i.kindCode == some 0x0106) (reportHandler i) s) := by
  cases i
  case state => obtain ⟨rfl, -⟩ := Prod.mk.inj (Option.some.inj h); rfl
  case setupDone => obtain ⟨rfl, -⟩ := Prod.mk.inj (Option.some.inj h); rfl
  case loadDone => obtain ⟨rfl, -⟩ := Prod.mk.inj (Option.some.inj h); rfl
  case loadFail => obtain ⟨rfl, -⟩ := Prod.mk.inj (Option.some.inj h); rfl
  case goldenDone => obtain ⟨rfl, -⟩ := Prod.mk.inj (Option.some.inj h); rfl
  case touchdown => obtain ⟨rfl, -⟩ := Prod.mk.inj (Option.some.inj h); rfl
  case passEnd => obtain ⟨rfl, -⟩ := Prod.mk.inj (Option.some.inj h); rfl
  case runCounts => obtain ⟨rfl, -⟩ := Prod.mk.inj (Option.some.inj h); rfl
  all_goals exact nomatch h

/-! ## Last-heard times -/

/-- No cell's last-heard times differ. -/
def SameHeard (s t : State) : Prop := ∀ c role, (t.cell c).heard role = (s.cell c).heard role

theorem SameHeard.refl (s : State) : SameHeard s s := fun _ _ => rfl

theorem SameHeard.trans {s t u : State} (h : SameHeard s t) (k : SameHeard t u) : SameHeard s u :=
  fun c role => (k c role).trans (h c role)

theorem SameHeard.ite {q : Prop} [Decidable q] {s a b : State} (h : q → SameHeard s a) (k : ¬ q → SameHeard s b) :
    SameHeard s (if q then a else b) := by
  split
  · exact h ‹_›
  · exact k ‹_›

theorem Acts.sameHeard {s t : State} (h : Acts s t) : SameHeard s t := fun c role => by
  cases role
  · exact (h.cells c).heardTester
  · exact (h.cells c).heardHandler

theorem SameHeard.modCell (s : State) (c : CellIx) (f : Cell → Cell)
    (h : ∀ role, (f (s.cell c)).heard role = (s.cell c).heard role) : SameHeard s (s.modCell c f) := fun d role => by
  by_cases hd : c = d
  · subst hd; rw [modCell_cell]; exact h role
  · rw [modCell_cell_ne s f hd]

theorem SameHeard.onSetupDone (kit : Byte) (temp : BitVec 16) (c : CellIx) (role : Role) (s : State) :
    SameHeard s (onSetupDone kit temp c role s) := by
  unfold Machine.onSetupDone
  split
  · exact .refl _
  · have hset := SameHeard.modCell s c (fun k => { k with kit := some kit.toNat, temp := some (clampTemp temp.toInt) })
      fun role => by cases role <;> rfl
    exact .ite (fun _ => .ite (fun _ => hset.trans (Acts.stageDone _ _).sameHeard) fun _ =>
      hset.trans (Acts.enterDown _ _ _).sameHeard) fun _ => hset

theorem SameHeard.onLoadDone (p : Program) (c : CellIx) (role : Role) (s : State) :
    SameHeard s (onLoadDone p c role s) := by
  unfold Machine.onLoadDone
  split
  · exact .refl _
  · have hset := SameHeard.modCell s c
      (fun k => { k with program := if ((s.cell c).lastLoad == some p) = true then some p else none })
      fun role => by cases role <;> rfl
    exact .ite (fun _ => .ite (fun _ => hset.trans (Acts.stageDone _ _).sameHeard) fun _ =>
      hset.trans (Acts.enterDown _ _ _).sameHeard) fun _ => hset

theorem SameHeard.onLoadFail (c : CellIx) (role : Role) (s : State) : SameHeard s (onLoadFail c role s) := by
  unfold Machine.onLoadFail
  split
  · exact .refl _
  · have hset := SameHeard.modCell s c (fun k => { k with program := none }) fun role => by cases role <;> rfl
    exact .ite (fun _ => hset.trans (Acts.enterDown _ _ _).sameHeard) fun _ => hset

theorem SameHeard.recordGolden (c : CellIx) (mask enabled : SiteMask) (o : GoldenOutcome) (s : State) :
    SameHeard s (recordGolden c mask enabled o s) := by
  refine SameHeard.trans (SameHeard.modCell s c _ fun role => ?_) (Acts.postNotice _ _).sameHeard
  have h := (Cell.cancelStage_acts (s.cell c)).kept
  cases role
  · exact h.heardTester
  · exact h.heardHandler

theorem SameHeard.onGoldenDone (mask : SiteMask) (c : CellIx) (role : Role) (s : State) :
    SameHeard s (onGoldenDone mask c role s) := by
  unfold Machine.onGoldenDone
  split
  · exact .ite (fun _ => (SameHeard.recordGolden _ _ _ _ _).trans (Acts.goldenFail _ _ _).sameHeard) fun _ =>
      (SameHeard.recordGolden _ _ _ _ _).trans (Acts.goldenPass _ _).sameHeard
  · exact .refl _

theorem SameHeard.expect (c : CellIx) (e : Option Seq) (s : State) :
    SameHeard s (s.modCell c fun k => { k with expected := e }) := .modCell s c _ fun role => by cases role <;> rfl

theorem SameHeard.acceptTouchdown (c : CellIx) (r : RunIx) (q : Seq) (es : List SiteEntry) (s : State) :
    SameHeard s (acceptTouchdown c r q es s) :=
  .ite (fun _ => .expect _ _ _) fun _ => (SameHeard.expect _ _ _).trans (Acts.countTouchdown _ _ _ _ _).sameHeard

theorem SameHeard.takeTouchdown (c : CellIx) (q : Seq) (es : List SiteEntry) (s : State) :
    SameHeard s (takeTouchdown c q es s) := by
  have hforeign : SameHeard s (foreignStart c s) :=
    (SameHeard.expect _ _ _).trans (Acts.enterQuarantined _ _ _ _).sameHeard
  have hrun (r : RunIx) : SameHeard s (runTouchdown c r q es s) := by
    unfold Machine.runTouchdown
    split
    · exact .acceptTouchdown _ _ _ _ _
    · exact ((SameHeard.expect _ _ _).trans (Acts.raiseOnRun _ _ _ _ rfl).sameHeard).trans (.acceptTouchdown _ _ _ _ _)
    · exact .refl _
  unfold Machine.takeTouchdown
  dsimp only
  split
  · exact .refl _
  · exact .refl _
  · exact .refl _
  · exact .refl _
  · exact hforeign
  · exact hrun _

theorem SameHeard.reportHandler (i : Instr) (c : CellIx) (role : Role) (s : State) :
    SameHeard s (reportHandler i c role s) := by
  unfold Machine.reportHandler
  split
  · exact (Acts.onState _ _ _ _).sameHeard
  · exact .onSetupDone _ _ _ _ _
  · exact .onLoadDone _ _ _ _
  · exact .onLoadFail _ _ _
  · exact .onGoldenDone _ _ _ _
  · cases role
    · exact .takeTouchdown _ _ _ _
    · exact .refl _
  · exact (Acts.onPassEnd _ _ _ _ _ _).sameHeard
  · exact (Acts.onRunCounts _ _ _ _ _).sameHeard
  · exact .refl _

/-! ## Arrival (R73, R167) -/

section
variable (i : Instr) (e : Envelope) (td : Bool) (s : State)

theorem forwardReport_cases : forwardReport i e td s = s ∨ ∃ b, forwardReport i e td s = forwardCF b s := by
  unfold forwardReport
  split
  · next b _ =>
    split
    · exact .inr ⟨b, rfl⟩
    · exact .inl rfl
  · exact .inl rfl

@[simp] theorem forwardReport_phase : (forwardReport i e td s).phase = s.phase := by
  rcases forwardReport_cases i e td s with h | ⟨b, h⟩ <;> rw [h]; simp
@[simp] theorem forwardReport_profile : (forwardReport i e td s).profile = s.profile := by
  rcases forwardReport_cases i e td s with h | ⟨b, h⟩ <;> rw [h]; simp
@[simp] theorem forwardReport_floorClock : (forwardReport i e td s).floorClock = s.floorClock := by
  rcases forwardReport_cases i e td s with h | ⟨b, h⟩ <;> rw [h]; simp
@[simp] theorem forwardReport_timer : (forwardReport i e td s).timer = s.timer := by
  rcases forwardReport_cases i e td s with h | ⟨b, h⟩ <;> rw [h]; simp
@[simp] theorem forwardReport_routes : (forwardReport i e td s).routes = s.routes := by
  rcases forwardReport_cases i e td s with h | ⟨b, h⟩ <;> rw [h]; simp
@[simp] theorem forwardReport_limits : (forwardReport i e td s).limits = s.limits := by
  rcases forwardReport_cases i e td s with h | ⟨b, h⟩ <;> rw [h]; simp
@[simp] theorem forwardReport_lots : (forwardReport i e td s).lots = s.lots := by
  rcases forwardReport_cases i e td s with h | ⟨b, h⟩ <;> rw [h]; simp
@[simp] theorem forwardReport_runs : (forwardReport i e td s).runs = s.runs := by
  rcases forwardReport_cases i e td s with h | ⟨b, h⟩ <;> rw [h]; simp
@[simp] theorem forwardReport_cells : (forwardReport i e td s).cells = s.cells := by
  rcases forwardReport_cases i e td s with h | ⟨b, h⟩ <;> rw [h]; simp
@[simp] theorem forwardReport_queue : (forwardReport i e td s).queue = s.queue := by
  rcases forwardReport_cases i e td s with h | ⟨b, h⟩ <;> rw [h]; simp
@[simp] theorem forwardReport_seqCounter : (forwardReport i e td s).seqCounter = s.seqCounter := by
  rcases forwardReport_cases i e td s with h | ⟨b, h⟩ <;> rw [h]; simp
@[simp] theorem forwardReport_stations : (forwardReport i e td s).stations = s.stations := by
  rcases forwardReport_cases i e td s with h | ⟨b, h⟩ <;> rw [h]; simp
end

/-- A station's last-heard time, set now (R73). -/
def Cell.hearing (k : Cell) (role : Role) (now : Nat) : Cell :=
  match role with
  | .tester => { k with heardTester := some now }
  | .handler => { k with heardHandler := some now }

theorem hear_eq (c : CellIx) (role : Role) (s : State) :
    hear c role s = s.setCell c ((s.cell c).hearing role s.timer) := by
  cases role <;> rfl

/-! ### What `metBy` leaves alone -/

section
variable (i : Instr) (e : Envelope) (c : CellIx) (role : Role) (s : State)

theorem metBy_eq : metBy i e c role s =
    (forwardReport i e (i.kindCode == some 0x0106) s).setCell c ((s.cell c).hearing role s.timer) := by
  rw [metBy, hear_eq, forwardReport_timer, State.cell, forwardReport_cells]
  rfl

@[simp] theorem metBy_phase : (metBy i e c role s).phase = s.phase := by simp [metBy_eq]
@[simp] theorem metBy_profile : (metBy i e c role s).profile = s.profile := by simp [metBy_eq]
@[simp] theorem metBy_floorClock : (metBy i e c role s).floorClock = s.floorClock := by simp [metBy_eq]
@[simp] theorem metBy_timer : (metBy i e c role s).timer = s.timer := by simp [metBy_eq]
@[simp] theorem metBy_routes : (metBy i e c role s).routes = s.routes := by simp [metBy_eq]
@[simp] theorem metBy_limits : (metBy i e c role s).limits = s.limits := by simp [metBy_eq]
@[simp] theorem metBy_lots : (metBy i e c role s).lots = s.lots := by simp [metBy_eq]
@[simp] theorem metBy_runs : (metBy i e c role s).runs = s.runs := by simp [metBy_eq]
@[simp] theorem metBy_queue : (metBy i e c role s).queue = s.queue := by simp [metBy_eq]
@[simp] theorem metBy_seqCounter : (metBy i e c role s).seqCounter = s.seqCounter := by simp [metBy_eq]
@[simp] theorem metBy_cells : (metBy i e c role s).cells = vset s.cells c ((s.cell c).hearing role s.timer) := by
  simp [metBy_eq, State.setCell]
@[simp] theorem metBy_lot (l : LotSlot) : (metBy i e c role s).lot l = s.lot l := by simp [State.lot]
@[simp] theorem metBy_run (r : RunIx) : (metBy i e c role s).run r = s.run r := by simp [State.run]
@[simp] theorem metBy_route (r : RouteIx) : (metBy i e c role s).route r = s.route r := by simp [State.route]
@[simp] theorem metBy_limit (n : LimitIx) : (metBy i e c role s).limit n = s.limit n := by simp [State.limit]
theorem metBy_cell : (metBy i e c role s).cell c = (s.cell c).hearing role s.timer := by
  rw [metBy_eq, setCell_cell]
theorem metBy_cell_ne {d : CellIx} (h : c ≠ d) : (metBy i e c role s).cell d = s.cell d := by
  rw [metBy_eq, setCell_cell_ne _ _ h, State.cell, forwardReport_cells]
  rfl
@[simp] theorem metBy_stepOf (x : Lot) : stepOf (metBy i e c role s) x = stepOf s x := by simp [stepOf]
@[simp] theorem metBy_limitsOf (x : Lot) : limitsOf (metBy i e c role s) x = limitsOf s x := by simp [limitsOf]
@[simp] theorem metBy_lotOfRun (r : RunIx) : lotOfRun (metBy i e c role s) r = lotOfRun s r := by simp [lotOfRun]
@[simp] theorem metBy_stepOfRun (r : RunIx) : stepOfRun (metBy i e c role s) r = stepOfRun s r := by simp [stepOfRun]
end

theorem takeReport_of_unheard {i : Instr} {e : Envelope} {td : Bool} {f : CellIx → Role → State → State} {s : State}
    (hw : i.wf = true) (h : s.phase = .config ∨ findStation s e.src = none) :
    takeReport i e td f s = forwardReport i e td s := by
  have hfind : findStation (forwardReport i e td s) e.src = findStation s e.src := by simp [findStation]
  rw [takeReport, if_pos hw]
  dsimp only
  rw [forwardReport_phase, hfind]
  rcases h with h | h
  · rw [h]
  · rw [h]
    cases s.phase <;> rfl

theorem takeReport_of_heard {i : Instr} {e : Envelope} {f : CellIx → Role → State → State} {s : State} {c : CellIx}
    {role : Role} (h : fromStation i e c role s) :
    takeReport i e (i.kindCode == some 0x0106) f s = f c role (metBy i e c role s) := by
  obtain ⟨hw, hphase, hstation⟩ := h
  have hfind : findStation (forwardReport i e (i.kindCode == some 0x0106) s) e.src = findStation s e.src := by
    simp [findStation]
  rw [takeReport, if_pos hw]
  dsimp only
  rw [forwardReport_phase, hphase, hfind, hstation]
  rfl

/-- A report from a station of the index, in OPERATE, is handed to its owner in the state `metBy` (R73, R167). -/
theorem exec_fromStation {i : Instr} {e : Envelope} {body : List Byte} {c : CellIx} {role : Role} {s : State}
    (hp : i.reportParts = some (e, body)) (h : fromStation i e c role s) :
    exec i s = .next (reportHandler i c role (metBy i e c role s)) := by
  rw [exec_report hp, takeReport_of_heard h]

theorem forwardReport_sent {i : Instr} {e : Envelope} {b : List Byte} {s : State} (h : i.reportFrame = some b) :
    forwardReport i e (i.kindCode == some 0x0106) s =
      if e.dst = s.profile.partStation
          ∨ (i.kindCode = some 0x0106 ∧ s.phase = .operate ∧ s.profile.forwardResults = false) then s
      else forwardCF b s := by
  have hforwards : forwardsReport s e (i.kindCode == some 0x0106) = true ↔ ¬ (e.dst = s.profile.partStation
      ∨ (i.kindCode = some 0x0106 ∧ s.phase = .operate ∧ s.profile.forwardResults = false)) := by
    simp [forwardsReport]
    tauto
  rw [forwardReport, h]
  dsimp only
  by_cases hsent : forwardsReport s e (i.kindCode == some 0x0106) = true
  · rw [if_pos hsent, if_neg (hforwards.1 hsent)]
  · rw [if_neg hsent, if_pos (Decidable.of_not_not fun h => hsent (hforwards.2 h))]

/-- Settles O37. -/
theorem reportsAreHeard : Obligations.ReportsAreHeard := by
  intro i e body b s hp hb sent
  have hsent : forwardReport i e (i.kindCode == some 0x0106) s = sent := forwardReport_sent hb
  refine ⟨fun hw => ?_, fun hw hquiet => ?_, fun c role h => ⟨?_, ?_⟩⟩
  · rw [exec_report hp, takeReport, if_neg (by simp [hw])]
  · rw [exec_report hp, takeReport_of_unheard hw hquiet, hsent]
  · rw [metBy_eq, hsent]
    cases role <;> rfl
  · refine ⟨_, exec_fromStation hp h, ?_, fun d other hne => ?_⟩
    · rw [SameHeard.reportHandler, metBy_cell]
      cases role <;> rfl
    · rw [SameHeard.reportHandler]
      by_cases hd : c = d
      · subst hd
        have hother : other ≠ role := hne.resolve_left (by simp)
        rw [metBy_cell]
        cases role <;> cases other <;> first | exact absurd rfl hother | rfl
      · rw [metBy_cell_ne _ _ _ _ _ hd]

end Sys2Proof.Machine
end

section
/-! PROOF. STATE reports that are only recorded (O38). -/

set_option Elab.async false

namespace Sys2Proof.Machine

/-- A cell with a station's report recorded (R75). -/
def Cell.told (k : Cell) (role : Role) (rep : StationReport) : Cell :=
  match role with
  | .tester => { k with repTester := some rep }
  | .handler => { k with repHandler := some rep }

theorem recordReport_eq (c : CellIx) (role : Role) (rep : StationReport) (s : State) :
    recordReport c role rep s = s.setCell c ((s.cell c).told role rep) := by
  cases role <;> rfl

theorem told_state (k : Cell) (role : Role) (rep : StationReport) : (k.told role rep).state = k.state := by
  cases role <;> rfl

/-- A valid STATE report from a station of the index (R75). -/
theorem exec_state {e : Envelope} {code : Byte} {c : CellIx} {role : Role} {s : State} {rep : StationReport}
    (h : fromStation (.state e code) e c role s) (hrep : stationReportOf role code = some rep) :
    exec (.state e code) s = .next (actOnReport c rep ((metBy (.state e code) e c role s).setCell c
      (((metBy (.state e code) e c role s).cell c).told role rep))) := by
  rw [exec_fromStation rfl h, reportHandler, onState, hrep]
  dsimp only
  rw [recordReport_eq]

/-- What a report that starts nothing leaves (R75). -/
theorem actOnReport_of_quiet {c : CellIx} {rep : StationReport} {s : State}
    (h : rep = .busy ∨ rep = .running ∨ rep = .setup
      ∨ (rep = .ready ∧ ((s.cell c).state ∉ [CellState.offline, .lost, .down] ∨ (s.cell c).bothReady = false))
      ∨ ((rep = .jam ∨ rep = .alarm) ∧ (s.cell c).state ∈ [CellState.offline, .lost, .down, .quarantined])
      ∨ (rep = .paused ∧ (s.cell c).state ≠ .pausing)) : actOnReport c rep s = s := by
  have hoperational (hstate : (s.cell c).state ∈ [CellState.offline, .lost, .down, .quarantined]) :
      (s.cell c).state.operational = false := by
    simp only [List.mem_cons, List.not_mem_nil, or_false] at hstate
    rcases hstate with h | h | h | h <;> rw [h] <;> rfl
  rcases h with rfl | rfl | rfl | ⟨rfl, hready⟩ | ⟨hfault, hstate⟩ | ⟨rfl, hstate⟩
  · rfl
  · rfl
  · rfl
  · rw [actOnReport]
    rcases hready with hstate | hboth
    · cases hs : (s.cell c).state <;> simp [hs] at hstate <;> rfl
    · split
      · rw [if_neg (by simp [hboth])]
      · rfl
  · rcases hfault with rfl | rfl
    · exact if_neg (by simp [hoperational hstate])
    · exact if_neg (by simp [hoperational hstate])
  · exact if_neg hstate

theorem stationReportOf_iff (role : Role) (code : Byte) (rep : StationReport) :
    stationReportOf role code = some rep ↔
      rep.code = code.toNat ∧ rep ∈ (match role with
        | .tester => [StationReport.ready, .busy, .alarm]
        | .handler => [StationReport.ready, .running, .paused, .jam, .setup]) := by
  unfold stationReportOf
  generalize code.toNat = n
  constructor
  · intro h
    split at h
    case h_8 => exact nomatch h
    all_goals obtain rfl := Option.some.inj h
    case h_1 => cases role <;> simp [StationReport.code]
    all_goals simp [StationReport.code]
  · rintro ⟨rfl, hrep⟩
    cases role with
    | tester =>
      simp only [List.mem_cons, List.not_mem_nil, or_false] at hrep
      rcases hrep with rfl | rfl | rfl <;> rfl
    | handler =>
      simp only [List.mem_cons, List.not_mem_nil, or_false] at hrep
      rcases hrep with rfl | rfl | rfl | rfl | rfl <;> rfl

/-- Settles O38. -/
theorem stateReportsAreRecorded : Obligations.StateReportsAreRecorded := by
  refine ⟨stationReportOf_iff, fun e code c role s h => ?_⟩
  intro u k told
  refine ⟨fun hnone => ?_, fun rep hrep hquiet => ?_⟩
  · rw [exec_fromStation rfl h, reportHandler, onState, hnone]
  · have htold : k.told role rep = told rep := by cases role <;> rfl
    rw [exec_state h hrep, actOnReport_of_quiet, htold]
    rw [setCell_cell, told_state, htold]
    exact hquiet

end Sys2Proof.Machine
end

section
/-! SUPPORT. The rules of PRP's operations: how a preparation begins, in which stage, and how it ends for its target run
(R97 to R109, R137). -/

set_option Elab.async false

namespace Sys2Proof.Machine

/-! ## A cell's deadline (R107) -/

/-- A stage deadline armed over a deadline of RUN's, or over none. -/
theorem Cell.armStage_of_run {k : Cell} {p : Prep} {now ms : Nat} {d : DeadlineKind} (hprep : k.prep = some p)
    (hrun : runDeadline k) :
    k.armStage now d ms =
      { k with
        prep := some { p with setAside := (k.deadline.map fun e => ⟨e.kind, e.expiry - now⟩).or p.setAside }
        deadline := some ⟨d, now + ms⟩ } := by
  rw [Cell.armStage]
  cases hd : k.deadline with
  | none =>
    simp only [Option.map_none, Option.none_or]
    rw [← hprep]
  | some e =>
    have hstage : e.kind.isStage = false := by rcases hrun e (by simp [hd]) with h | h <;> rw [h] <;> rfl
    simp only [hstage, Cell.modPrep, hprep]
    rfl

/-- A stage deadline armed over another, or over none. -/
theorem Cell.armStage_of_stage {k : Cell} {now ms : Nat} {d : DeadlineKind} (hstage : ∀ e ∈ k.deadline, e.kind.isStage = true) :
    k.armStage now d ms = { k with deadline := some ⟨d, now + ms⟩ } := by
  rw [Cell.armStage]
  cases hd : k.deadline with
  | none => rfl
  | some e =>
    simp only [hstage e (by simp [hd])]
    rfl

/-! ## The stages (R99, R101, R103) -/

/-- A cell that enters a stage with a deadline. -/
def Cell.staged (k : Cell) (now : Nat) (d : DeadlineKind) (limit : Nat) (st : CellState) : Cell :=
  (k.armStage now d (seconds limit)).entered now st none

/-- The context of a preparation that orders a changeover (R99). -/
def Prep.changing (p : Prep) (st : Step) : Prep :=
  { p with stage := .changeover, orderedKit := some st.kit, orderedTemp := some st.setpoint }

/-- The context of a preparation that loads a program (R101). -/
def Prep.loading (p : Prep) : Prep := { p with stage := .loading }

/-- The context of a preparation that checks golden units (R103). -/
def Prep.checkingGolden (p : Prep) (st : Step) : Prep :=
  { p with stage := .golden, goldenSites := some st.siteCount, goldenMin := some st.minSites }

/-! ### The ports before the records -/

theorem postNotice_setLot (n : Notice) (l : LotSlot) (x : Lot) (s : State) :
    postNotice n (s.setLot l x) = (postNotice n s).setLot l x := by
  rw [setLot_work s, postNotice_work, setLot_work]
  simp only [postNotice_lots, postNotice_runs, postNotice_cells, postNotice_queue, postNotice_seqCounter]

theorem postNotice_setRun (n : Notice) (r : RunIx) (x : Run) (s : State) :
    postNotice n (s.setRun r x) = (postNotice n s).setRun r x := by
  rw [setRun_work s, postNotice_work, setRun_work]
  simp only [postNotice_lots, postNotice_runs, postNotice_cells, postNotice_queue, postNotice_seqCounter]

theorem postNotice_setCell (n : Notice) (c : CellIx) (x : Cell) (s : State) :
    postNotice n (s.setCell c x) = (postNotice n s).setCell c x := by
  rw [setCell_work s, postNotice_work, setCell_work]
  simp only [postNotice_lots, postNotice_runs, postNotice_cells, postNotice_queue, postNotice_seqCounter]

theorem sendOrder_setLot (c : CellIx) (role : Role) (o : Order) (l : LotSlot) (x : Lot) (s : State) :
    sendOrder c role o (s.setLot l x) = (sendOrder c role o s).setLot l x := by
  rw [setLot_work s, sendOrder_work _ _ _ _ _ _ _ _ _ rfl, setLot_work]
  simp only [sendOrder_lots, sendOrder_runs, sendOrder_cells, sendOrder_queue, sendOrder_seqCounter]

theorem sendOrder_setRun (c : CellIx) (role : Role) (o : Order) (r : RunIx) (x : Run) (s : State) :
    sendOrder c role o (s.setRun r x) = (sendOrder c role o s).setRun r x := by
  rw [setRun_work s, sendOrder_work _ _ _ _ _ _ _ _ _ rfl, setRun_work]
  simp only [sendOrder_lots, sendOrder_runs, sendOrder_cells, sendOrder_queue, sendOrder_seqCounter]

theorem sendOrder_setCell (c : CellIx) (role : Role) (o : Order) (x : Cell) (s : State)
    (hstation : x.station role = (s.cell c).station role) :
    sendOrder c role o (s.setCell c x) = (sendOrder c role o s).setCell c x := by
  rw [setCell_work s, sendOrder_work _ _ _ _ _ _ _ _ _ (by rw [vset_get_same]; exact hstation), setCell_work]
  simp only [sendOrder_lots, sendOrder_runs, sendOrder_cells, sendOrder_queue, sendOrder_seqCounter]

theorem sendBoth_setLot (c : CellIx) (o : Order) (l : LotSlot) (x : Lot) (s : State) :
    sendBoth c o (s.setLot l x) = (sendBoth c o s).setLot l x := by
  simp only [sendBoth, sendOrder_setLot]

theorem sendBoth_setRun (c : CellIx) (o : Order) (r : RunIx) (x : Run) (s : State) :
    sendBoth c o (s.setRun r x) = (sendBoth c o s).setRun r x := by
  simp only [sendBoth, sendOrder_setRun]

theorem sendBoth_setCell (c : CellIx) (o : Order) (x : Cell) (s : State)
    (hstation : ∀ role, x.station role = (s.cell c).station role) :
    sendBoth c o (s.setCell c x) = (sendBoth c o s).setCell c x := by
  rw [sendBoth, sendOrder_setCell _ _ _ _ _ (hstation _), sendOrder_setCell _ _ _ _ _ (by simpa using hstation _)]
  rfl

theorem setCell_setCell (c : CellIx) (x y : Cell) (s : State) : (s.setCell c x).setCell c y = s.setCell c y :=
  congrArg (fun v => { s with cells := v }) (vset_vset s.cells c x y)

/-- One write of a cell after an order, where the write before it leaves the cell its station. -/
theorem setCell_sendOrder (c : CellIx) (role : Role) (o : Order) (x y : Cell) (s : State)
    (hstation : x.station role = (s.cell c).station role) :
    (sendOrder c role o (s.setCell c x)).setCell c y = (sendOrder c role o s).setCell c y := by
  rw [sendOrder_setCell _ _ _ _ _ hstation, setCell_setCell]

theorem setCell_sendBoth (c : CellIx) (o : Order) (x y : Cell) (s : State)
    (hstation : ∀ role, x.station role = (s.cell c).station role) :
    (sendBoth c o (s.setCell c x)).setCell c y = (sendBoth c o s).setCell c y := by
  rw [sendBoth_setCell _ _ _ _ hstation, setCell_setCell]

theorem beginChangeover_eq (c : CellIx) (st : Step) (s : State) :
    beginChangeover c st s = (sendOrder c .handler (.setup st.kit st.setpoint) s).setCell c
      (((s.cell c).modPrep fun p => p.changing st).staged s.timer .changeover st.changeoverLimit .changeover) := by
  rw [beginChangeover, enterCell, State.modCell, State.modCell, State.modCell]
  simp only [setCell_cell, setCell_timer, sendOrder_cell, sendOrder_timer, setCell_setCell]
  exact setCell_sendOrder _ _ _ _ _ _ rfl

theorem beginLoading_eq (c : CellIx) (st : Step) (s : State) :
    beginLoading c st s = (sendOrder c .tester (.load st.programId st.revision) s).setCell c
      ({ (s.cell c).modPrep Prep.loading with lastLoad := some ⟨st.programId, st.revision, st.checksum⟩ }.staged s.timer
        .load s.profile.load .loading) := by
  rw [beginLoading, enterCell, State.modCell, State.modCell, State.modCell]
  simp only [setCell_cell, setCell_timer, setCell_profile, sendOrder_cell, sendOrder_timer, sendOrder_profile,
    setCell_setCell]
  exact setCell_sendOrder _ _ _ _ _ _ rfl

theorem beginGolden_eq (c : CellIx) (st : Step) (s : State) :
    beginGolden c st s = (sendBoth c (.golden st.siteCount) s).setCell c
      (((s.cell c).modPrep fun p => p.checkingGolden st).staged s.timer .golden s.profile.golden .golden) := by
  rw [beginGolden, enterCell, State.modCell, State.modCell, State.modCell]
  simp only [setCell_cell, setCell_timer, setCell_profile, sendBoth_cell, sendBoth_timer, sendBoth_profile,
    setCell_setCell]
  exact setCell_sendBoth _ _ _ _ _ fun role => by cases role <;> rfl

/-! ## The choice of a stage (R98) -/

theorem setupCost_eq_zero {k : Cell} {st : Step} :
    setupCost k st = 0 ↔ kitDiffers k st = false ∧ tempDiffers k st = false ∧ programDiffers k st = false := by
  cases hk : kitDiffers k st <;> cases ht : tempDiffers k st <;> cases hp : programDiffers k st <;>
    simp [setupCost, hk, ht, hp]

theorem chooseStage_changeover {c : CellIx} {r : RunIx} {s : State} {p : Prep} (hprep : (s.cell c).prep = some p)
    (hpurpose : p.purpose ≠ .periodic)
    (hdiffers : (s.cell c).kit ≠ some (stepOfRun s r).kit ∨ (s.cell c).temp ≠ some (stepOfRun s r).setpoint) :
    chooseStage c r s = beginChangeover c (stepOfRun s r) s := by
  rw [chooseStage, hprep]
  exact if_pos ⟨hpurpose, by simpa [kitDiffers, tempDiffers] using hdiffers⟩

theorem chooseStage_loading {c : CellIx} {r : RunIx} {s : State} {p : Prep} (hprep : (s.cell c).prep = some p)
    (hpurpose : p.purpose ≠ .periodic) (hkit : kitDiffers (s.cell c) (stepOfRun s r) = false)
    (htemp : tempDiffers (s.cell c) (stepOfRun s r) = false) (hprogram : programDiffers (s.cell c) (stepOfRun s r) = true) :
    chooseStage c r s = beginLoading c (stepOfRun s r) s := by
  rw [chooseStage, hprep]
  exact (if_neg (by simp [hkit, htemp])).trans (if_pos ⟨hpurpose, hprogram⟩)

/-- The choice of a stage where the setup needs none: a periodic check passes it over (R98, R113). -/
theorem chooseStage_setUp {c : CellIx} {r : RunIx} {s : State} {p : Prep} (hprep : (s.cell c).prep = some p)
    (hsetup : p.purpose = .periodic ∨ setupCost (s.cell c) (stepOfRun s r) = 0) :
    chooseStage c r s = if p.goldenPlanned ∧ ¬ p.goldenTaken then beginGolden c (stepOfRun s r) s
      else endForTarget c r s := by
  rw [chooseStage, hprep]
  rcases hsetup with h | h
  · exact (if_neg (by simp [h])).trans (if_neg (by simp [h]))
  · obtain ⟨hkit, htemp, hprogram⟩ := setupCost_eq_zero.1 h
    exact (if_neg (by simp [hkit, htemp])).trans (if_neg (by simp [hprogram]))

/-! ## A preparation's beginning (R97) -/

/-- The cell a preparation begins on, as `prepBegin` hands it to the choice of a stage. -/
theorem prepBegin_eq (c : CellIx) (r : RunIx) (origin : Origin) (s : State) :
    prepBegin c r origin s = chooseStage c r (s.setCell c { s.cell c with
      prep := some (newPrep origin.purpose origin r
        (goldenPlanned s.profile (s.cell c) (stepOfRun s r) origin)) }) := rfl

/-- A preparation for a run that begins with a changeover (R97, R99, R107). -/
theorem prepBegin_changeover {c : CellIx} {r : RunIx} {origin : Origin} {s : State}
    (horigin : origin.purpose ≠ .periodic)
    (hdiffers : (s.cell c).kit ≠ some (stepOfRun s r).kit ∨ (s.cell c).temp ≠ some (stepOfRun s r).setpoint)
    (hdeadline : runDeadline (s.cell c)) (hstate : (s.cell c).state ≠ .changeover) :
    prepBegin c r origin s =
      (sendOrder c .handler (.setup (stepOfRun s r).kit (stepOfRun s r).setpoint) s).setCell c { s.cell c with
        prep := some (firstContext r origin.purpose origin .changeover
          (goldenPlanned s.profile (s.cell c) (stepOfRun s r) origin) (stepOfRun s r) (s.cell c) s)
        deadline := some ⟨.changeover, s.timer + 1000 * (stepOfRun s r).changeoverLimit⟩
        state := .changeover, cause := none, since := s.timer, acc := (s.cell c).accNow s.timer } := by
  rw [prepBegin_eq]
  set k : Cell := { s.cell c with prep := some (newPrep origin.purpose origin r
        (goldenPlanned s.profile (s.cell c) (stepOfRun s r) origin)) } with hk
  have hcell : (s.setCell c k).cell c = k := setCell_cell ..
  have hstep : stepOfRun (s.setCell c k) r = stepOfRun s r := rfl
  rw [chooseStage_changeover (s := s.setCell c k) (by rw [hcell]) (by exact horigin) (by rw [hcell, hstep]; exact hdiffers),
    beginChangeover_eq, hcell, hstep, setCell_sendOrder c _ _ k _ s rfl]
  refine congrArg ((sendOrder c .handler _ s).setCell c) ?_
  rw [Cell.staged, Cell.armStage_of_run (p := (newPrep origin.purpose origin r
      (goldenPlanned s.profile (s.cell c) (stepOfRun s r) origin)).changing (stepOfRun s r)) rfl (by exact hdeadline),
    Cell.entered_of_ne (by exact hstate), seconds, Nat.mul_comm]
  simp only [newPrep, Prep.changing, Option.or_none]
  rfl

/-- A preparation for a run that begins with its golden check (R97, R103, R107). -/
theorem prepBegin_golden {c : CellIx} {r : RunIx} {origin : Origin} {s : State}
    (hsetup : origin.purpose = .periodic ∨ setupCost (s.cell c) (stepOfRun s r) = 0)
    (hplanned : goldenPlanned s.profile (s.cell c) (stepOfRun s r) origin = true)
    (hdeadline : runDeadline (s.cell c)) (hstate : (s.cell c).state ≠ .golden) :
    prepBegin c r origin s = (sendBoth c (.golden (stepOfRun s r).siteCount) s).setCell c
      (checking (s.cell c) r origin.purpose origin (stepOfRun s r) s) := by
  rw [prepBegin_eq, hplanned]
  set k : Cell := { s.cell c with prep := some (newPrep origin.purpose origin r true) } with hk
  have hcell : (s.setCell c k).cell c = k := setCell_cell ..
  have hstep : stepOfRun (s.setCell c k) r = stepOfRun s r := rfl
  rw [chooseStage_setUp (s := s.setCell c k) (by rw [hcell]) (by rw [hcell, hstep]; exact hsetup), if_pos (by simp [newPrep]),
    beginGolden_eq, hcell, hstep, setCell_sendBoth c _ k _ s fun role => by cases role <;> rfl]
  refine congrArg ((sendBoth c _ s).setCell c) ?_
  rw [Cell.staged, Cell.armStage_of_run (p := (newPrep origin.purpose origin r true).checkingGolden (stepOfRun s r)) rfl
    (by exact hdeadline), Cell.entered_of_ne (by exact hstate), seconds, Nat.mul_comm]
  simp only [newPrep, Prep.checkingGolden, Option.or_none]
  rfl

/-- A preparation that has nothing to do ends at once for its run (R98, R109). -/
theorem prepBegin_nothing {c : CellIx} {r : RunIx} {origin : Origin} {s : State}
    (hsetup : setupCost (s.cell c) (stepOfRun s r) = 0)
    (hplanned : goldenPlanned s.profile (s.cell c) (stepOfRun s r) origin = false) :
    prepBegin c r origin s =
      endForTarget c r (s.setCell c { s.cell c with prep := some (newPrep origin.purpose origin r false) }) := by
  rw [prepBegin_eq, hplanned]
  set k : Cell := { s.cell c with prep := some (newPrep origin.purpose origin r false) } with hk
  have hcell : (s.setCell c k).cell c = k := setCell_cell ..
  have hstep : stepOfRun (s.setCell c k) r = stepOfRun s r := rfl
  rw [chooseStage_setUp (s := s.setCell c k) (by rw [hcell]) (.inr (by rw [hcell, hstep]; exact hsetup)),
    if_neg (by simp [newPrep])]

/-! ## A preparation's end (R109, R137) -/

theorem dropPrep_of_fresh {k : Cell} {purpose : Purpose} {origin : Origin} {r : RunIx} {planned : Bool} {now : Nat} :
    { k with prep := some (newPrep purpose origin r planned) : Cell }.dropPrep now = { k with prep := none } := rfl

/-- A run that goes on where it was parked (R137). -/
def Run.goingOn (x : Run) (st : RunState) : Run :=
  { x with state := st, stoppedFrom := none, suspendedFrom := none }

/-- A RESUME for a run that goes on TESTING, or goes on CLOSING under its own deadline (R109, R137). -/
theorem resumeRun_eq {c : CellIx} {r : RunIx} {s : State}
    (h : (s.run r).resumesInto ≠ .closing
      ∨ ((s.run r).cell = c ∧ (s.run r).targetReached = false ∧ ((s.cell c).deadline.map (·.kind)) = some .closing)) :
    resumeRun c r s =
      ((sendBoth c (.resume (lotOfRun s r).tag (s.run r).pos (s.run r).pass
          (usableSites (s.cell c) (stepOfRun s r))) s).setCell c ((s.cell c).entered s.timer .running none)).setRun r
        ((s.run r).goingOn (s.run r).resumesInto) := by
  set o : Order := .resume (lotOfRun s r).tag (s.run r).pos (s.run r).pass (usableSites (s.cell c) (stepOfRun s r))
  set u := ((sendBoth c o s).setCell c ((s.cell c).entered s.timer .running none)).setRun r
    ((s.run r).goingOn (s.run r).resumesInto) with hu
  have hresume : resumeRun c r s = resumeClosing r u := by
    rw [resumeRun, enterCell, State.modCell, State.modRun]
    simp only [sendBoth_cell, sendBoth_timer, sendBoth_run, setCell_run]
    rfl
  have hrun : u.run r = (s.run r).goingOn (s.run r).resumesInto := setRun_run ..
  have hdeadline : (u.cell c).deadline = (s.cell c).deadline := by
    have hcell : u.cell c = (s.cell c).entered s.timer .running none := setCell_cell ..
    rw [hcell, Cell.entered]
    split <;> rfl
  rw [hresume, resumeClosing, hrun]
  rcases h with h | ⟨hcell, htarget, hclosing⟩
  · exact if_pos h
  · have hsame : u.cell ((s.run r).goingOn (s.run r).resumesInto).cell = u.cell c := congrArg u.cell hcell
    rw [hsame, hdeadline, hclosing]
    split
    · rfl
    · exact (if_neg (by simp [Run.goingOn, htarget])).trans (if_pos rfl)

/-- A START (R4, R109, R137). -/
theorem startRun_eq (c : CellIx) (r : RunIx) (s : State) :
    startRun c r s =
      (((sendBoth c (.start (lotOfRun s r).tag (s.run r).pos (usableSites (s.cell c) (stepOfRun s r))
          (stepOfRun s r).map) s).setCell c ((s.cell c).entered s.timer .running none)).setRun r
        { s.run r with state := .testing, startTime := some s.floorClock }).setLot (s.run r).lot
        { s.lot (s.run r).lot with
          state := if (s.lot (s.run r).lot).state = .waiting then .running else (s.lot (s.run r).lot).state
          stepStarted := true } := by
  rw [startRun, lotReachesTesting, enterCell, State.modCell, State.modRun, State.modLot]
  simp only [sendBoth_cell, sendBoth_timer, sendBoth_run, setCell_run, sendBoth_floorClock, setCell_floorClock,
    setRun_lot, setCell_lot, sendBoth_lot]

/-- The end of a preparation that drops its context and finds its run as it stands (R109). -/
theorem endForTarget_resumes {c : CellIx} {r : RunIx} {s : State}
    (h : (s.run r).state = .testing ∨ (s.run r).state = .closing
      ∨ ((s.run r).state = .stopped ∧ runBlocked s r = false)
      ∨ ((s.run r).state = .suspended ∧ runBlocked s r = false)) :
    endForTarget c r s = resumeRun c r (s.setCell c ((s.cell c).dropPrep s.timer)) := by
  have hblocked : runBlocked (s.setCell c ((s.cell c).dropPrep s.timer)) r = runBlocked s r := rfl
  rw [endForTarget, State.modCell, setCell_run]
  rcases h with h | h | ⟨h, hfree⟩ | ⟨h, hfree⟩
  · rw [h]
  · rw [h]
  · rw [h]
    exact if_neg (by rw [hblocked, hfree]; simp)
  · rw [h]
    exact if_neg (by rw [hblocked, hfree]; simp)

theorem endForTarget_starts {c : CellIx} {r : RunIx} {s : State} (h : (s.run r).state = .assigned) :
    endForTarget c r s = startRun c r (s.setCell c ((s.cell c).dropPrep s.timer)) := by
  rw [endForTarget, State.modCell, setCell_run, h]

/-- A preparation with nothing to do resumes its run at once: the cell goes RUNNING, and a deadline of RUN's runs on
(R98, R109, R137). -/
theorem prepBegin_resumes {c : CellIx} {r : RunIx} {origin : Origin} {s : State}
    (hsetup : setupCost (s.cell c) (stepOfRun s r) = 0)
    (hplanned : goldenPlanned s.profile (s.cell c) (stepOfRun s r) origin = false)
    (hrun : (s.run r).state = .testing ∨ (s.run r).state = .closing
      ∨ ((s.run r).state = .stopped ∧ runBlocked s r = false)
      ∨ ((s.run r).state = .suspended ∧ runBlocked s r = false))
    (hinto : (s.run r).resumesInto ≠ .closing
      ∨ ((s.run r).cell = c ∧ (s.run r).targetReached = false ∧ ((s.cell c).deadline.map (·.kind)) = some .closing)) :
    prepBegin c r origin s =
      ((sendBoth c (.resume (lotOfRun s r).tag (s.run r).pos (s.run r).pass
          (usableSites (s.cell c) (stepOfRun s r))) s).setCell c
        ({ s.cell c with prep := none }.entered s.timer .running none)).setRun r
        ((s.run r).goingOn (s.run r).resumesInto) := by
  rw [prepBegin_nothing hsetup hplanned, endForTarget_resumes (by exact hrun)]
  simp only [setCell_cell, setCell_setCell, setCell_timer]
  rw [dropPrep_of_fresh]
  set k : Cell := { s.cell c with prep := none } with hk
  have hcell : (s.setCell c k).cell c = k := setCell_cell ..
  rw [resumeRun_eq (s := s.setCell c k) (by rw [hcell]; exact hinto)]
  rw [hcell, sendBoth_setCell _ _ _ _ fun role => by cases role <;> rfl]
  simp only [setCell_run, setCell_timer, setCell_setCell]
  rfl

end Sys2Proof.Machine
end

section
/-! PROOF. Recovery of a cell (R81 to R83), by CELL_CLEAR (O28) and by READY (O40). -/

set_option Elab.async false

namespace Sys2Proof.Machine

/-! ## Recovery (R81, R82) -/

section
variable {c : CellIx} {origin : Origin} {s : State}

/-- A cell with no run and nothing to pop or match goes IDLE (R81, R93). -/
theorem recover_of_empty (hcur : (s.cell c).current = none) (hstack : (s.cell c).stack = [])
    (hstate : (s.cell c).state ≠ .idle) (hno : nothingFor c s) :
    recover c origin s =
      if (s.cell c).changed then
        postNotice (.cellChanged c .idle none) (s.setCell c { (s.cell c).idleAt s.timer with changed := false })
      else s.setCell c { (s.cell c).idleAt s.timer with changed := false } := by
  set u := s.setCell c { s.cell c with cause := none } with hu
  have hcell : u.cell c = { s.cell c with cause := none } := setCell_cell ..
  have hrecover : recover c origin s = goIdle c u := by
    rw [← popOrIdle_of_empty (by rw [hcell]; exact hstack), recover, State.modCell, ← hu, hcell, hcur]
  have hno' : nothingFor c u := nothingFor_congr (s := s) (by rw [hcell]) (by rw [hcell]) (fun _ h => h) rfl
    (fun _ => ⟨rfl, rfl⟩) hno
  rw [hrecover]
  cases hchanged : (s.cell c).changed with
  | true =>
    rw [goIdle_marked (by rw [hcell]; exact hstate) (by rw [hcell]; exact hchanged) hno', hcell, setCell_setCell]
    rfl
  | false =>
    rw [goIdle_of_nothing (by rw [hcell]; exact hstate) (by rw [hcell]; exact hchanged) hno', hcell, setCell_setCell]
    refine congrArg (s.setCell c) ?_
    show _ = { (s.cell c).idleAt s.timer with changed := false }
    rw [← hchanged]
    rfl

theorem recover_of_current {r : RunIx} (hcur : (s.cell c).current = some r) :
    recover c origin s =
      match (s.run r).state with
      | .stopped => enterStopped c (s.setCell c { s.cell c with cause := none })
      | .ending => enterCell c .running none (s.setCell c { s.cell c with cause := none })
      | .testing | .closing | .suspended => prepBegin c r origin (s.setCell c { s.cell c with cause := none })
      | .assigned | .free => s.setCell c { s.cell c with cause := none } := by
  have hcur' : ((s.setCell c { s.cell c with cause := none }).cell c).current = some r := by rw [setCell_cell]; exact hcur
  rw [recover, State.modCell, hcur'] <;> rfl

/-- A cell whose STOPPED current run a hold holds back goes STOPPED (R81, R83). -/
theorem recover_of_blocked {r : RunIx} (hcur : (s.cell c).current = some r) (hrun : (s.run r).state = .stopped)
    (hblocked : runBlocked s r = true) (hstate : (s.cell c).state ≠ .stopped) :
    recover c origin s = s.setCell c ((s.cell c).stoppedAt s.timer) := by
  set u := s.setCell c { s.cell c with cause := none } with hu
  have hcell : u.cell c = { s.cell c with cause := none } := setCell_cell ..
  have henter : enterCell c .stopped none u = s.setCell c ((s.cell c).stoppedAt s.timer) := by
    rw [enterCell_of_ne (by rw [hcell]; exact hstate), hcell, setCell_setCell]
    rfl
  have hresumable : resumable (s.setCell c ((s.cell c).stoppedAt s.timer)) r = false := by
    have hblocked' : runBlocked (s.setCell c ((s.cell c).stoppedAt s.timer)) r = true := hblocked
    rw [resumable, hblocked']
    simp
  rw [recover_of_current hcur, hrun]
  show enterStopped c u = _
  rw [enterStopped, henter, setCell_cell]
  show (match (s.cell c).current with | some r => _ | none => _) = _
  rw [hcur]
  exact if_neg (by rw [hresumable]; simp)

theorem recover_of_ending {r : RunIx} (hcur : (s.cell c).current = some r) (hrun : (s.run r).state = .ending)
    (hstate : (s.cell c).state ≠ .running) :
    recover c origin s = s.setCell c { s.cell c with
      state := .running, cause := none, since := s.timer, acc := (s.cell c).accNow s.timer } := by
  rw [recover_of_current hcur, hrun]
  show enterCell c .running none (s.setCell c { s.cell c with cause := none }) = _
  rw [enterCell_of_ne (by rw [setCell_cell]; exact hstate), setCell_cell, setCell_setCell]
  rfl

/-- A cell whose current run is TESTING, CLOSING or SUSPENDED is prepared for it (R82). -/
theorem recover_prepares {r : RunIx} (hcur : (s.cell c).current = some r)
    (hrun : (s.run r).state = .testing ∨ (s.run r).state = .closing ∨ (s.run r).state = .suspended) :
    recover c origin s = prepBegin c r origin (s.setCell c { s.cell c with cause := none }) := by
  rw [recover_of_current hcur]
  rcases hrun with h | h | h <;> rw [h]

/-- The same, by a golden check where the equipment matches (R97, R103). -/
theorem recover_checks {r : RunIx} (hcur : (s.cell c).current = some r)
    (hrun : (s.run r).state = .testing ∨ (s.run r).state = .closing ∨ (s.run r).state = .suspended)
    (hsetup : setupCost (s.cell c) (stepOfRun s r) = 0)
    (hplanned : goldenPlanned s.profile (s.cell c) (stepOfRun s r) origin = true)
    (hdeadline : runDeadline (s.cell c)) (hstate : (s.cell c).state ≠ .golden) :
    recover c origin s = (sendBoth c (.golden (stepOfRun s r).siteCount) s).setCell c
      (checking (s.cell c) r origin.purpose origin (stepOfRun s r) s) := by
  rw [recover_prepares hcur hrun]
  set u := s.setCell c { s.cell c with cause := none } with hu
  have hcell : u.cell c = { s.cell c with cause := none } := setCell_cell ..
  have hstep : stepOfRun u r = stepOfRun s r := rfl
  rw [prepBegin_golden (.inr (by rw [hcell, hstep]; exact hsetup)) (by rw [hcell, hstep]; exact hplanned)
    (by rw [hcell]; exact hdeadline) (by rw [hcell]; exact hstate), hstep, hcell,
    setCell_sendBoth _ _ _ _ _ fun role => by cases role <;> rfl]
  rfl

/-- The same, by a changeover where kit or temperature differ (R97, R99). -/
theorem recover_changes {r : RunIx} (hcur : (s.cell c).current = some r)
    (hrun : (s.run r).state = .testing ∨ (s.run r).state = .closing ∨ (s.run r).state = .suspended)
    (hpurpose : origin.purpose = .return)
    (hdiffers : (s.cell c).kit ≠ some (stepOfRun s r).kit ∨ (s.cell c).temp ≠ some (stepOfRun s r).setpoint)
    (hdeadline : runDeadline (s.cell c)) (hstate : (s.cell c).state ≠ .changeover) :
    recover c origin s =
      (sendOrder c .handler (.setup (stepOfRun s r).kit (stepOfRun s r).setpoint) s).setCell c
        (changingOver (s.cell c) r origin (goldenPlanned s.profile (s.cell c) (stepOfRun s r) origin) (stepOfRun s r) s) := by
  rw [recover_prepares hcur hrun]
  set u := s.setCell c { s.cell c with cause := none } with hu
  have hcell : u.cell c = { s.cell c with cause := none } := setCell_cell ..
  have hstep : stepOfRun u r = stepOfRun s r := rfl
  rw [prepBegin_changeover (by rw [hpurpose]; simp) (by rw [hcell, hstep]; exact hdiffers) (by rw [hcell]; exact hdeadline)
    (by rw [hcell]; exact hstate), hstep, hcell, hu, setCell_sendOrder _ _ _ _ _ _ (by rfl), hpurpose]
  rfl

/-- A run that goes on where it was, on a cell that needs nothing (R109, R137). -/
def goesOn (c : CellIx) (r : RunIx) (s : State) : Prop :=
  (s.run r).state = .testing
    ∨ ((s.run r).cell = c ∧ (s.run r).state = .closing ∧ (s.run r).targetReached = false
      ∧ (s.cell c).deadline.map (·.kind) = some .closing)
    ∨ ((s.run r).state = .suspended ∧ (s.run r).suspendedFrom = some .testing ∧ runBlocked s r = false)

theorem goesOn.into {r : RunIx} (h : goesOn c r s) :
    (s.run r).resumesInto = if (s.run r).state = .closing then .closing else .testing := by
  rcases h with h | ⟨-, h, -⟩ | ⟨h, hfrom, -⟩
  · simp [Run.resumesInto, h]
  · simp [Run.resumesInto, h]
  · simp [Run.resumesInto, h, hfrom]

/-- A preparation that has nothing to do resumes a run that goes on (R98, R109). -/
theorem prepBegin_goesOn {r : RunIx} (h : goesOn c r s) (hsetup : setupCost (s.cell c) (stepOfRun s r) = 0)
    (hplanned : goldenPlanned s.profile (s.cell c) (stepOfRun s r) origin = false) (hstate : (s.cell c).state ≠ .running) :
    prepBegin c r origin s =
      ((sendBoth c (.resume (lotOfRun s r).tag (s.run r).pos (s.run r).pass
          (usableSites (s.cell c) (stepOfRun s r))) s).setCell c (backAtWork (s.cell c) s)).setRun r
        ((s.run r).goingOn (if (s.run r).state = .closing then .closing else .testing)) := by
  have hinto := h.into
  rw [prepBegin_resumes hsetup hplanned, hinto, Cell.entered_of_ne (by exact hstate)]
  · rfl
  · rcases h with h | ⟨-, h, -⟩ | ⟨h, -, hfree⟩
    · exact .inl h
    · exact .inr (.inl h)
    · exact .inr (.inr (.inr ⟨h, hfree⟩))
  · rcases h with h | ⟨hcell, -, htarget, hclosing⟩ | ⟨h, -⟩
    · exact .inl (by rw [hinto]; simp [h])
    · exact .inr ⟨hcell, htarget, hclosing⟩
    · exact .inl (by rw [hinto]; simp [h])

/-- The same at a recovery (R82). -/
theorem recover_resumes {r : RunIx} (hcur : (s.cell c).current = some r) (h : goesOn c r s)
    (hsetup : setupCost (s.cell c) (stepOfRun s r) = 0)
    (hplanned : goldenPlanned s.profile (s.cell c) (stepOfRun s r) origin = false) (hstate : (s.cell c).state ≠ .running) :
    recover c origin s =
      ((sendBoth c (.resume (lotOfRun s r).tag (s.run r).pos (s.run r).pass
          (usableSites (s.cell c) (stepOfRun s r))) s).setCell c (backAtWork (s.cell c) s)).setRun r
        ((s.run r).goingOn (if (s.run r).state = .closing then .closing else .testing)) := by
  set v := s.setCell c { s.cell c with cause := none } with hv
  have hvcell : v.cell c = { s.cell c with cause := none } := setCell_cell ..
  have hgoes : goesOn c r v := by
    rw [goesOn, hvcell]
    exact h
  rw [recover_prepares hcur (by rcases h with h | ⟨-, h, -⟩ | ⟨h, -⟩ <;> simp [h]),
    prepBegin_goesOn hgoes (by rw [hvcell]; exact hsetup) (by rw [hvcell]; exact hplanned) (by rw [hvcell]; exact hstate),
    hvcell, hv, setCell_sendBoth _ _ _ _ _ fun role => by cases role <;> rfl]
  rfl

end

/-! ## CELL_CLEAR (R87) -/

theorem ownCellClear_of_ready {cell : Byte} {c : CellIx} {s : State} (hc : cellInUse s cell = some c)
    (hready : (s.cell c).state = .quarantined ∧ (s.cell c).repTester = some .ready ∧ (s.cell c).repHandler = some .ready) :
    ownCellClear cell s = ok (clearCell c s) := by
  obtain ⟨hstate, htester, hhandler⟩ := hready
  rw [ownCellClear, hc]
  exact if_pos ⟨hstate, by simp [Cell.bothReady, htester, hhandler]⟩

/-- Settles O28. -/
theorem cellClearRecoversTheCell : Obligations.CellClearRecoversTheCell := by
  intro h cell s ho
  rw [exec_inOperate (kind := 0x0320) (own := ownCellClear cell) ho rfl rfl]
  refine ⟨fun hout => ?_, fun c hc hin => ?_⟩
  · rw [ownCellClear, cellInUse_eq_none hout]
  · intro k ready t
    have hcell := cellInUse_of_index hc hin
    set v := s.setCell c { k with downCount := 0, clearTime := some s.timer } with hv
    have hvcell : v.cell c = { k with downCount := 0, clearTime := some s.timer } := setCell_cell ..
    have hclear : clearCell c s = recover c .clear v := rfl
    refine ⟨fun hnot => ?_, fun hready hcur hstack hno => ?_, fun r hready hcur hrun hblocked => ?_,
      fun r hready hcur hrun hdeadline => ?_⟩
    · have hrefused : ¬ ((s.cell c).state = .quarantined ∧ (s.cell c).bothReady = true) := fun ⟨hstate, hboth⟩ => by
        simp only [Cell.bothReady, Bool.and_eq_true, beq_iff_eq] at hboth
        exact hnot ⟨hstate, hboth⟩
      rw [ownCellClear, hcell]
      dsimp only
      rw [if_neg hrefused, clearRefusal, byte1_eq]
    · rw [ownCellClear_of_ready hcell hready, hclear, recover_of_empty (s := v) (by rw [hvcell]; exact hcur)
        (by rw [hvcell]; exact hstack) (by rw [hvcell, hready.1]; simp)
        (nothingFor_congr (s := s) (by rw [hvcell]) (by rw [hvcell]) (fun _ h => h) rfl (fun _ => ⟨rfl, rfl⟩) hno), hvcell, hv,
        setCell_setCell]
      rfl
    · rw [ownCellClear_of_ready hcell hready, hclear, recover_of_blocked (r := r) (by rw [hvcell]; exact hcur) (by exact hrun)
        (by exact hblocked) (by rw [hvcell, hready.1]; simp), hvcell, hv, setCell_setCell]
      rfl
    · intro st cleared
      refine ⟨fun hsetup => ?_, fun hdiffers => ?_⟩
      · rw [ownCellClear_of_ready hcell hready, hclear, recover_checks (r := r) (by rw [hvcell]; exact hcur) (by exact hrun)
          (by rw [hvcell]; exact hsetup) rfl (by rw [hvcell]; exact hdeadline) (by rw [hvcell, hready.1]; simp), hvcell,
          hv, setCell_sendBoth _ _ _ _ _ fun role => by cases role <;> rfl]
        rfl
      · rw [ownCellClear_of_ready hcell hready, hclear, recover_changes (r := r) (by rw [hvcell]; exact hcur) (by exact hrun)
          rfl (by rw [hvcell]; exact hdiffers) (by rw [hvcell]; exact hdeadline) (by rw [hvcell, hready.1]; simp), hvcell,
          hv, setCell_sendOrder _ _ _ _ _ _ (by rfl)]
        rfl

/-! ## READY (R81) -/

theorem checking_congr {s t : State} (htimer : t.timer = s.timer) (hprofile : t.profile = s.profile) (k : Cell)
    (r : RunIx) (purpose : Purpose) (origin : Origin) (st : Step) :
    checking k r purpose origin st t = checking k r purpose origin st s := by
  simp only [checking, firstContext, setAsideOf, htimer, hprofile]

theorem changingOver_congr {s t : State} (htimer : t.timer = s.timer) (k : Cell) (r : RunIx) (origin : Origin)
    (planned : Bool) (st : Step) : changingOver k r origin planned st t = changingOver k r origin planned st s := by
  simp only [changingOver, firstContext, setAsideOf, htimer]

theorem recoversFrom_eq {st : CellState} (h : st ∈ [CellState.offline, .lost, .down]) :
    st.recoversFrom = some (if st = .down then .fromDown else .fromLostOrOffline) := by
  simp only [List.mem_cons, List.not_mem_nil, or_false] at h
  rcases h with rfl | rfl | rfl <;> rfl

/-- The READY that makes both stations of a cell ready recovers it (R81). -/
theorem actOnReport_ready {c : CellIx} {s : State} (hstate : (s.cell c).state ∈ [CellState.offline, .lost, .down])
    (htester : (s.cell c).repTester = some .ready) (hhandler : (s.cell c).repHandler = some .ready) :
    actOnReport c .ready s =
      recover c (if (s.cell c).state = .down then .fromDown else .fromLostOrOffline) s := by
  rw [actOnReport, recoversFrom_eq hstate]
  exact if_pos (by simp [Cell.bothReady, htester, hhandler])

theorem hearing_draining (k : Cell) (role : Role) (now : Nat) : (k.hearing role now).draining = k.draining := by
  cases role <;> rfl
theorem hearing_cls (k : Cell) (role : Role) (now : Nat) : (k.hearing role now).cls = k.cls := by
  cases role <;> rfl
theorem told_draining (k : Cell) (role : Role) (rep : StationReport) : (k.told role rep).draining = k.draining := by
  cases role <;> rfl
theorem told_cls (k : Cell) (role : Role) (rep : StationReport) : (k.told role rep).cls = k.cls := by
  cases role <;> rfl
theorem told_station (k : Cell) (role other : Role) (rep : StationReport) :
    (k.told role rep).station other = k.station other := by
  cases role <;> cases other <;> rfl

theorem goldenPlanned_recovery (prof : Profile) (k : Cell) (st : Step) (hstate : k.state ∈ [CellState.offline, .lost, .down]) :
    goldenPlanned prof k st (if k.state = .down then .fromDown else .fromLostOrOffline) =
      (k.state != .down || prof.goldenAfterDown || tooFewSites k st) := by
  simp only [List.mem_cons, List.not_mem_nil, or_false] at hstate
  rcases hstate with h | h | h <;> simp [h, goldenPlanned]

/-- Settles O40. -/
theorem readyRecoversTheCell : Obligations.ReadyRecoversTheCell := by
  intro e c role s h u k' hstate htester hhandler
  have hrep : stationReportOf role 0 = some .ready := by cases role <;> rfl
  have hk : k' = (u.cell c).told role .ready := by cases role <;> rfl
  generalize k' = k at *
  subst hk
  set k := (u.cell c).told role .ready with hk
  set w := u.setCell c k with hw
  have hwcell : w.cell c = k := setCell_cell ..
  have hexec : exec (.state e 0) s =
      .next (recover c (if k.state = .down then .fromDown else .fromLostOrOffline) w) := by
    rw [exec_state h hrep, actOnReport_ready (by rw [setCell_cell]; exact hstate) (by rw [setCell_cell]; exact htester)
      (by rw [setCell_cell]; exact hhandler), setCell_cell]
  have hnot (st : CellState) (hst : st ∉ [CellState.offline, .lost, .down]) : k.state ≠ st := fun h => hst (h ▸ hstate)
  have htimer : w.timer = s.timer := metBy_timer (.state e 0) e c role s
  have hrunw (r : RunIx) : w.run r = s.run r := metBy_run (.state e 0) e c role s r
  have hstepw (r : RunIx) : stepOfRun w r = stepOfRun s r := metBy_stepOfRun (.state e 0) e c role s r
  have hblockedw (r : RunIx) : runBlocked w r = runBlocked s r := by
    rw [runBlocked, runBlocked, hrunw]
    exact congrArg (fun x : Lot => x.blockedAt (s.run r).pos) (metBy_lotOfRun (.state e 0) e c role s r)
  rw [hexec]
  refine ⟨fun hcur hstack hno => ?_, fun r hcur hrun => ?_, fun r hcur hrun hblocked => ?_, fun r hcur => ?_⟩
  · have hno' : nothingFor c w := by
      refine nothingFor_congr (s := s) ?_ ?_ (fun l hl => ?_) (metBy_routes (.state e 0) e c role s) (fun l => ?_) hno
      · rw [hwcell, hk, told_draining, metBy_cell, hearing_draining]
      · rw [hwcell, hk, told_cls, metBy_cell, hearing_cls]
      · simpa [hw, u] using hl
      · have hlot : w.lot l = s.lot l := metBy_lot (.state e 0) e c role s l
        rw [hlot]
        exact ⟨rfl, rfl⟩
    rw [recover_of_empty (by rw [hwcell]; exact hcur) (by rw [hwcell]; exact hstack)
      (by rw [hwcell]; exact hnot _ (by simp)) hno', hwcell, htimer, hw, setCell_setCell]
    rfl
  · rw [recover_of_ending (by rw [hwcell]; exact hcur) (by rw [hrunw]; exact hrun)
      (by rw [hwcell]; exact hnot _ (by simp)), hwcell, htimer, hw, setCell_setCell]
  · rw [recover_of_blocked (by rw [hwcell]; exact hcur) (by rw [hrunw]; exact hrun) (by rw [hblockedw]; exact hblocked)
      (by rw [hwcell]; exact hnot _ (by simp)), hwcell, htimer, hw, setCell_setCell]
    rfl
  · intro run st planned origin hrun hdeadline
    have hprofile : w.profile = s.profile := metBy_profile (.state e 0) e c role s
    have hstation (other : Role) : k.station other = (u.cell c).station other := told_station ..
    have horigin : origin.purpose = .return := by
      simp only [origin]
      split <;> rfl
    have hplannedw : goldenPlanned w.profile k st origin = planned := by
      rw [hprofile]
      exact goldenPlanned_recovery _ _ _ hstate
    have hrunw' : (w.run r).state = .testing ∨ (w.run r).state = .closing ∨ (w.run r).state = .suspended := by
      rw [hrunw]
      exact hrun
    refine ⟨fun hdiffers => ?_, fun hsetup hplanned => ?_, fun hsetup hplanned hcell hinto => ?_⟩
    · rw [recover_changes (by rw [hwcell]; exact hcur) hrunw' horigin (by rw [hwcell, hstepw]; exact hdiffers)
        (by rw [hwcell]; exact hdeadline) (by rw [hwcell]; exact hnot _ (by simp)), hwcell, hstepw,
        changingOver_congr htimer, hplannedw, hw, setCell_sendOrder _ _ _ _ _ _ (hstation _)]
    · rw [recover_checks (by rw [hwcell]; exact hcur) hrunw' (by rw [hwcell, hstepw]; exact hsetup)
        (by rw [hwcell, hstepw, hplannedw]; exact hplanned) (by rw [hwcell]; exact hdeadline)
        (by rw [hwcell]; exact hnot _ (by simp)), hwcell, hstepw, checking_congr htimer hprofile, horigin, hw,
        setCell_sendBoth _ _ _ _ _ hstation]
    · have hgoes : goesOn c r w := by
        rw [goesOn, hrunw, hwcell, hblockedw]
        exact hinto.imp_right fun h => h.imp_left fun h => ⟨hcell, h⟩
      rw [recover_resumes (by rw [hwcell]; exact hcur) hgoes (by rw [hwcell, hstepw]; exact hsetup)
        (by rw [hwcell, hstepw, hplannedw]; exact hplanned) (by rw [hwcell]; exact hnot _ (by simp))]
      rw [hwcell, hw, setCell_sendBoth _ _ _ _ _ hstation]
      have hlotw : lotOfRun (u.setCell c k) r = lotOfRun s r := metBy_lotOfRun (.state e 0) e c role s r
      have hback : backAtWork k (u.setCell c k) = backAtWork k s := by
        simp only [backAtWork, show (u.setCell c k).timer = s.timer from htimer]
      rw [hlotw, hback, show (u.setCell c k).run r = s.run r from hrunw r,
        show stepOfRun (u.setCell c k) r = stepOfRun s r from hstepw r, setRun_work, setCell_work]
      simp only [work_work, work_lots, work_runs, work_cells, work_queue, work_seqCounter, sendBoth_runs, sendBoth_cells]
      rw [show u.runs = s.runs from metBy_runs (.state e 0) e c role s]
      rfl

end Sys2Proof.Machine
end

section
/-! SUPPORT. The rules of interruptions that withdraw no run: a preparation discarded (R80, R107, R112), and the entry to
DOWN, QUARANTINED and LOST (R78, R79, R85). -/

set_option Elab.async false

namespace Sys2Proof.Machine

/-! ## A preparation discarded (R107, R112) -/

/-- A cell whose preparation is discarded (R107, R112). -/
def Cell.discarded (k : Cell) (s : State) : Cell := { k with prep := none, deadline := deadlineLeft k s }

theorem Cell.cancelStage_eq (k : Cell) :
    k.cancelStage = { k with deadline := k.deadline.filter fun d => d.kind == .closing || d.kind == .counts } := by
  rw [Cell.cancelStage]
  cases hd : k.deadline with
  | none => exact congrArg (fun d => { k with deadline := d }) hd
  | some d => cases hkind : d.kind <;> simp [hkind, DeadlineKind.isStage, Option.filter, ← hd]

theorem dropPrep_cancelStage {k : Cell} {j : Prep} (s : State) (hprep : k.prep = some j) :
    k.cancelStage.dropPrep s.timer = k.discarded s := by
  rw [Cell.cancelStage_eq, Cell.dropPrep, Cell.discarded, deadlineLeft, hprep]
  cases hset : j.setAside <;> simp [hset]

/-- The cell whose golden check in flight is recorded ABORTED (R112). -/
def Cell.aborted (k : Cell) (clock : FloorTime) : Cell := { k with golden := ⟨0, .aborted, clock⟩ }

theorem discardPrep_of_none {c : CellIx} {failed : Bool} {s : State} (h : (s.cell c).prep = none) :
    discardPrep c failed s = s := by
  rw [discardPrep, h]

/-- A preparation discarded whose check, if any, has been recorded (R106, R112). -/
theorem discardPrep_plain {c : CellIx} {failed : Bool} {s : State} {j : Prep} (h : (s.cell c).prep = some j)
    (hstage : j.stage ≠ .golden ∨ failed = true) :
    discardPrep c failed s = s.setCell c ((s.cell c).discarded s) := by
  have hno : ¬ (j.stage = .golden ∧ ¬ failed = true) := by
    rintro ⟨hg, hf⟩
    rcases hstage with h | h
    · exact h hg
    · exact hf h
  rw [discardPrep, h]
  dsimp only
  rw [if_neg hno, State.modCell, State.modCell, setCell_cell, setCell_setCell, setCell_timer, dropPrep_cancelStage s h]

/-- A preparation discarded with its golden check in flight (R112). -/
theorem discardPrep_golden {c : CellIx} {s : State} {j : Prep} (h : (s.cell c).prep = some j) (hstage : j.stage = .golden) :
    discardPrep c false s = (postNotice (.goldenDone c 0 (s.cell c).enabled .aborted) s).setCell c
      (((s.cell c).discarded s).aborted s.floorClock) := by
  have henabled : (s.cell c).cancelStage.enabled = (s.cell c).enabled := (Cell.cancelStage_acts _).kept.enabled
  have hcommute : ((s.cell c).cancelStage.aborted s.floorClock).dropPrep s.timer =
      ((s.cell c).discarded s).aborted s.floorClock := by
    rw [← dropPrep_cancelStage s h, Cell.dropPrep, Cell.dropPrep]
    have hprep : ((s.cell c).cancelStage.aborted s.floorClock).prep = (s.cell c).cancelStage.prep := rfl
    rw [hprep]
    cases (s.cell c).cancelStage.prep <;> rfl
  rw [discardPrep, h]
  dsimp only
  rw [if_pos ⟨hstage, by simp⟩, State.modCell, State.modCell, State.modCell]
  simp only [setCell_cell, setCell_setCell, setCell_floorClock, postNotice_cell, postNotice_timer, setCell_timer]
  rw [postNotice_setCell, setCell_setCell]
  show (postNotice (.goldenDone c 0 (s.cell c).cancelStage.enabled .aborted) s).setCell c
    (((s.cell c).cancelStage.aborted s.floorClock).dropPrep s.timer) = _
  rw [hcommute, henabled]

/-! ## Interruptions without a withdrawal (R80) -/

theorem withdrawCurrent_of_none {c : CellIx} {s : State} (h : ∀ r ∈ (s.cell c).current, (s.run r).state ≠ .assigned) :
    withdrawCurrent c s = s := by
  rw [withdrawCurrent]
  split
  · next r hr => exact if_neg (h r hr)
  · rfl

theorem withdrawReserved_of_none {c : CellIx} {s : State} (h : (s.cell c).reserved = none) :
    withdrawReserved c s = s := by
  rw [withdrawReserved, h]

theorem noWithdrawal_congr {k j : Cell} {s t : State} (hreserved : j.reserved = k.reserved) (hcurrent : j.current = k.current)
    (hruns : t.runs = s.runs) (h : noWithdrawal k s) : noWithdrawal j t := by
  rw [noWithdrawal, hreserved, hcurrent]
  exact ⟨h.1, fun r hr => by rw [State.run, hruns]; exact h.2 r hr⟩

/-- The withdrawals of an interruption where no run is to be withdrawn. -/
theorem withdraw_none {c : CellIx} {s : State} (h : noWithdrawal (s.cell c) s) :
    withdrawReserved c (withdrawCurrent c s) = s := by
  rw [withdrawCurrent_of_none h.2, withdrawReserved_of_none h.1]

/-- A cell without its golden result's validity (R80). -/
def Cell.invalid (k : Cell) : Cell := { k with goldenValid := false }

section
variable {c : CellIx} {failed : Bool} {s : State}

theorem interrupt_of_none (hprep : (s.cell c).prep = none) (h : noWithdrawal (s.cell c) s) :
    interrupt c failed s = s.setCell c (s.cell c).invalid := by
  rw [interrupt, discardPrep_of_none hprep]
  exact withdraw_none (noWithdrawal_congr (by rw [modCell_cell]) (by rw [modCell_cell]) rfl h)

theorem interrupt_plain {j : Prep} (hprep : (s.cell c).prep = some j) (hstage : j.stage ≠ .golden ∨ failed = true)
    (h : noWithdrawal (s.cell c) s) :
    interrupt c failed s = s.setCell c ((s.cell c).discarded s).invalid := by
  rw [interrupt, discardPrep_plain hprep hstage, State.modCell, setCell_cell, setCell_setCell]
  exact withdraw_none (noWithdrawal_congr (by rw [setCell_cell]; rfl) (by rw [setCell_cell]; rfl) rfl h)

end

/-! ## Entry to a state with the marker (R93) -/

/-- A cell that enters a state with the changed marker set. -/
def Cell.marked (k : Cell) (now : Nat) (st : CellState) (cause : Option Cause) : Cell :=
  { k with state := st, cause := cause, since := now, acc := k.accNow now, changed := true }

theorem enterMarked_eq {c : CellIx} {st : CellState} {cause : Option Cause} {s : State} (h : (s.cell c).state ≠ st) :
    enterMarked c st cause s = s.setCell c ((s.cell c).marked s.timer st cause) := by
  rw [enterMarked, enterCell_of_ne h, State.modCell, setCell_cell, setCell_setCell]
  rfl

/-! ## Faults (R79, R85) -/

/-- The notice of a golden check cut off, if one is in flight (R112). -/
def cutPorts (c : CellIx) (k : Cell) (s : State) : State :=
  if k.prep.map (·.stage) = some .golden then postNotice (.goldenDone c 0 k.enabled .aborted) s else s

/-- A cell as an interruption without a withdrawal leaves it (R80, R112). -/
def Cell.cut (k : Cell) (s : State) : Cell :=
  match k.prep with
  | none => k.invalid
  | some j => if j.stage = .golden then ((k.discarded s).aborted s.floorClock).invalid else (k.discarded s).invalid

/-- The first part of an interruption: the preparation discarded, golden-valid cleared (R80). -/
theorem interrupt_first (c : CellIx) (s : State) :
    (discardPrep c false s).modCell c (fun k => { k with goldenValid := false }) =
      (cutPorts c (s.cell c) s).setCell c ((s.cell c).cut s) := by
  rw [cutPorts, Cell.cut]
  cases hprep : (s.cell c).prep with
  | none =>
    rw [discardPrep_of_none hprep]
    rfl
  | some j =>
    by_cases hstage : j.stage = .golden
    · rw [discardPrep_golden hprep hstage, State.modCell, setCell_cell, setCell_setCell]
      simp only [Option.map_some, hstage, if_true]
      rfl
    · rw [discardPrep_plain hprep (.inl hstage), State.modCell, setCell_cell, setCell_setCell]
      simp only [Option.map_some, Option.some.injEq, hstage, if_false]
      rfl

theorem cut_current (k : Cell) (s : State) : (k.cut s).current = k.current := by
  rw [Cell.cut]
  split
  · rfl
  · split <;> rfl

theorem cut_reserved (k : Cell) (s : State) : (k.cut s).reserved = k.reserved := by
  rw [Cell.cut]
  split
  · rfl
  · split <;> rfl

theorem cut_stack (k : Cell) (s : State) : (k.cut s).stack = k.stack := by
  rw [Cell.cut]
  split
  · rfl
  · split <;> rfl

theorem cut_state (k : Cell) (s : State) : (k.cut s).state = k.state := by
  rw [Cell.cut]
  split
  · rfl
  · split <;> rfl

theorem cut_prep (k : Cell) (s : State) : (k.cut s).prep = none := by
  rw [Cell.cut]
  split
  · next h => exact h
  · split <;> rfl

theorem cutPorts_cases (c : CellIx) (k : Cell) (s : State) :
    cutPorts c k s = s ∨ ∃ n, cutPorts c k s = postNotice n s := by
  rw [cutPorts]
  split
  · exact .inr ⟨_, rfl⟩
  · exact .inl rfl

section
variable (c : CellIx) (k : Cell) (s : State)
@[simp] theorem cutPorts_timer : (cutPorts c k s).timer = s.timer := by
  rcases cutPorts_cases c k s with h | ⟨n, h⟩ <;> rw [h]; simp
@[simp] theorem cutPorts_floorClock : (cutPorts c k s).floorClock = s.floorClock := by
  rcases cutPorts_cases c k s with h | ⟨n, h⟩ <;> rw [h]; simp
@[simp] theorem cutPorts_profile : (cutPorts c k s).profile = s.profile := by
  rcases cutPorts_cases c k s with h | ⟨n, h⟩ <;> rw [h]; simp
@[simp] theorem cutPorts_routes : (cutPorts c k s).routes = s.routes := by
  rcases cutPorts_cases c k s with h | ⟨n, h⟩ <;> rw [h]; simp
@[simp] theorem cutPorts_lots : (cutPorts c k s).lots = s.lots := by
  rcases cutPorts_cases c k s with h | ⟨n, h⟩ <;> rw [h]; simp
@[simp] theorem cutPorts_runs : (cutPorts c k s).runs = s.runs := by
  rcases cutPorts_cases c k s with h | ⟨n, h⟩ <;> rw [h]; simp
@[simp] theorem cutPorts_cells : (cutPorts c k s).cells = s.cells := by
  rcases cutPorts_cases c k s with h | ⟨n, h⟩ <;> rw [h]; simp
@[simp] theorem cutPorts_queue : (cutPorts c k s).queue = s.queue := by
  rcases cutPorts_cases c k s with h | ⟨n, h⟩ <;> rw [h]; simp
@[simp] theorem cutPorts_seqCounter : (cutPorts c k s).seqCounter = s.seqCounter := by
  rcases cutPorts_cases c k s with h | ⟨n, h⟩ <;> rw [h]; simp
@[simp] theorem cutPorts_lot (l : LotSlot) : (cutPorts c k s).lot l = s.lot l := by simp [State.lot]
@[simp] theorem cutPorts_run (r : RunIx) : (cutPorts c k s).run r = s.run r := by simp [State.run]
@[simp] theorem cutPorts_cell (d : CellIx) : (cutPorts c k s).cell d = s.cell d := by simp [State.cell]
end

theorem interrupt_eq {c : CellIx} {s : State} (h : noWithdrawal (s.cell c) s) :
    interrupt c false s = (cutPorts c (s.cell c) s).setCell c ((s.cell c).cut s) := by
  rw [interrupt, interrupt_first]
  exact withdraw_none (noWithdrawal_congr (s := s) (by rw [setCell_cell, cut_reserved])
    (by rw [setCell_cell, cut_current]) (by simp) h)

theorem cutPorts_setCell (c : CellIx) (k x y : Cell) (s : State) :
    (cutPorts c k (s.setCell c x)).setCell c y = (cutPorts c k s).setCell c y := by
  rw [cutPorts, cutPorts]
  split
  · rw [postNotice_setCell, setCell_setCell]
  · rw [setCell_setCell]

/-- The interruption of a cell that has entered another state with the marker. -/
theorem interrupt_enterMarked {c : CellIx} {st : CellState} {cause : Option Cause} {s : State}
    (hstate : (s.cell c).state ≠ st) (h : noWithdrawal (s.cell c) s) :
    interrupt c false (enterMarked c st cause s) =
      (cutPorts c (s.cell c) s).setCell c (((s.cell c).marked s.timer st cause).cut s) := by
  rw [enterMarked_eq hstate, interrupt_eq, setCell_cell, cutPorts_setCell]
  · rfl
  · rw [setCell_cell]
    exact noWithdrawal_congr (s := s) rfl rfl rfl h

/-- Entry to QUARANTINED without a withdrawal (R85). -/
theorem enterQuarantined_eq {c : CellIx} {cause : Cause} {s : State} (hstate : (s.cell c).state ≠ .quarantined)
    (h : noWithdrawal (s.cell c) s) :
    enterQuarantined c cause false s = postNotice (.cellChanged c .quarantined (some cause))
      ((cutPorts c (s.cell c) s).setCell c (((s.cell c).marked s.timer .quarantined (some cause)).cut s)) := by
  rw [enterQuarantined, interrupt_enterMarked hstate h]

/-- The record that a fault interrupts, before the interruption (R79). -/
def Cell.faultEntered (k : Cell) (cause : Cause) (s : State) : Cell :=
  { k with downCount := min 15 (k.downCount + 1) }.marked s.timer (if escalates k s then .quarantined else .down)
    (some (if escalates k s then .escalation else cause))

/-- The reports that a fault takes with it (R76). -/
def Cell.hushed (k : Cell) (hush : Bool) : Cell := if hush then k.silenced else k

/-- A fault without a withdrawal (R79). -/
theorem enterDown_eq {c : CellIx} {cause : Cause} {s : State} (hdown : (s.cell c).state ≠ .down)
    (hquarantined : (s.cell c).state ≠ .quarantined) (h : noWithdrawal (s.cell c) s) :
    enterDown c cause s = postNotice (faultNotice c (s.cell c) cause s)
      ((cutPorts c (s.cell c) s).setCell c
        ((((s.cell c).faultEntered cause s).cut s).hushed (cause.silences && !escalates (s.cell c) s))) := by
  set v := s.setCell c { s.cell c with downCount := min 15 ((s.cell c).downCount + 1) } with hv
  have hcell : v.cell c = { s.cell c with downCount := min 15 ((s.cell c).downCount + 1) } := setCell_cell ..
  have hwv : noWithdrawal (v.cell c) v := by
    rw [hcell]
    exact noWithdrawal_congr (s := s) rfl rfl rfl h
  have hcut (y : Cell) : (cutPorts c (v.cell c) v).setCell c y = (cutPorts c (s.cell c) s).setCell c y := by
    rw [hcell, hv, cutPorts_setCell]
    rfl
  rw [enterDown]
  show (if 0 < s.profile.escalation ∧ min 15 ((s.cell c).downCount + 1) = s.profile.escalation then
      enterQuarantined c .escalation false v
    else postNotice (.cellChanged c .down (some cause))
      (if cause.silences then State.modCell (interrupt c false (enterMarked c .down (some cause) v)) c Cell.silenced
       else interrupt c false (enterMarked c .down (some cause) v))) = _
  by_cases hesc : escalates (s.cell c) s = true
  · rw [if_pos (by simpa [escalates] using hesc), enterQuarantined_eq (by rw [hcell]; exact hquarantined) hwv, hcut, hcell,
      faultNotice, Cell.faultEntered, hesc]
    simp only [if_true, Bool.not_true, Bool.and_false]
    rfl
  · rw [if_neg (by simpa [escalates] using hesc), interrupt_enterMarked (by rw [hcell]; exact hdown) hwv, hcut, hcell,
      faultNotice, Cell.faultEntered, Bool.eq_false_iff.2 hesc, State.modCell, setCell_cell, setCell_setCell]
    cases hs : cause.silences <;> rfl

/-- What a fault leaves of a cell with no preparation and no stage deadline. -/
theorem faulted_of_none {k : Cell} {cause : Cause} {s : State} (hprep : k.prep = none) (hdeadline : runDeadline k) :
    ((k.faultEntered cause s).cut s).hushed (cause.silences && !escalates k s) = faulted k cause s := by
  have hleft : deadlineLeft k s = k.deadline := by
    rw [deadlineLeft, hprep]
    show k.deadline.filter _ = _
    cases hd : k.deadline with
    | none => rfl
    | some d =>
      rcases hdeadline d (by simp [hd]) with h | h <;> simp [Option.filter, h]
  have hcut : (k.faultEntered cause s).cut s = (k.faultEntered cause s).invalid := by
    rw [Cell.cut, show (k.faultEntered cause s).prep = none from hprep]
  rw [hcut, faulted, hleft]
  cases hh : (cause.silences && !escalates k s)
  · rw [Cell.hushed]
    simp only [Bool.false_eq_true, if_false, Cell.invalid, Cell.faultEntered, Cell.marked]
    rw [hprep]
    rfl
  · rw [Cell.hushed]
    simp only [if_true, Cell.invalid, Cell.faultEntered, Cell.marked, Cell.silenced]
    rw [hprep]
    rfl

/-- What a fault leaves of a cell with a preparation in hand. -/
theorem faulted_of_prep {k : Cell} {cause : Cause} {s : State} {j : Prep} (hprep : k.prep = some j) :
    ((k.faultEntered cause s).cut s).hushed (cause.silences && !escalates k s) =
      faulted (if j.stage = .golden then k.aborted s.floorClock else k) cause s := by
  have hcut : (k.faultEntered cause s).cut s =
      if j.stage = .golden then (((k.faultEntered cause s).discarded s).aborted s.floorClock).invalid
      else ((k.faultEntered cause s).discarded s).invalid := by
    rw [Cell.cut, show (k.faultEntered cause s).prep = some j from hprep]
  rw [hcut]
  by_cases hstage : j.stage = .golden
  · rw [if_pos hstage, if_pos hstage]
    cases hh : (cause.silences && !escalates k s) <;>
    · have hh' : (cause.silences && !escalates (k.aborted s.floorClock) s) = _ := hh
      rw [faulted, hh']
      rfl
  · rw [if_neg hstage, if_neg hstage]
    cases hh : (cause.silences && !escalates k s) <;>
    · rw [faulted, hh]
      rfl

end Sys2Proof.Machine
end

section
/-! PROOF. CELL_RESET (O29) and the faults and silences that take a cell out (O39). -/

set_option Elab.async false

namespace Sys2Proof.Machine

/-! ## A run-scope STOP hold at a TESTING run of a cell that has left work (R12, R138) -/

/-- A STOP order to the handler of a cell that is neither RUNNING nor PAUSING (R138). -/
theorem stopRun_of_still {r : RunIx} {s : State} (hrun : (s.run r).state = .testing)
    (hrunning : (s.cell (s.run r).cell).state ≠ .running) (hpausing : (s.cell (s.run r).cell).state ≠ .pausing) :
    stopRun r s = (sendOrder (s.run r).cell .handler .stop s).setRun r (s.run r).stoppedAt := by
  have hnot : ¬ (s.run r).state = .closing := by simp [hrun]
  rw [stopRun]
  rw [if_neg hnot, State.modRun, sendOrder_run, hrun]
  simp only [setRun_cell, sendOrder_cell]
  split
  · next h => exact absurd h hrunning
  · next h => exact absurd h hpausing
  all_goals rfl

/-- The kinds of Table 1-5 that stop a run wherever they are raised: GOLDEN and LOST. -/
def HoldKind.stopsRun : HoldKind → Prop
  | .golden | .lost => True
  | _ => False

theorem HoldKind.stopsRun_policy {k : HoldKind} (h : k.stopsRun) (lim : LimitSet) (given : Policy) :
    policyFor lim given k = .stop := by
  cases k <;> first | rfl | exact h.elim

/-- A GOLDEN or LOST hold raised at a TESTING run of a cell that has left work: the record and its notice, STOP to the
handler, the run STOPPED and bound to its cell (R8, R12, R138). -/
theorem raiseOnRun_stops {l : LotSlot} {p : RunPlace} {r : RunIx} {k : HoldKind} {value : Option Nat} {s : State}
    (hk : k.stopsRun) (honly : onlyRun l p r s) (hrun : (s.run r).state = .testing)
    (hrunning : (s.cell (s.run r).cell).state ≠ .running) (hpausing : (s.cell (s.run r).cell).state ≠ .pausing)
    (hstate : (s.lot l).state = .running) (hnew : (s.lot l).holdsKind k (some p) = false)
    (hfree : (s.lot l).lotBlocked = false) (hplace : inPlace l s) :
    raiseOnRun r k value s =
      ((sendOrder (s.run r).cell .handler .stop
          (postNotice (.holdRaised (s.lot l).tag k (some p) .stop value) s)).setLot l
        { s.lot l with holds := (s.lot l).holds ++ [newHold s l k (some p) .stop value] }).setRun r (s.run r).stoppedAt := by
  set w := withHold l k (some p) .stop value s with hw
  have hwlot : w.lot l = { s.lot l with holds := (s.lot l).holds ++ [newHold s l k (some p) .stop value] } := withHold_lot ..
  have hwrun : w.run r = s.run r := withHold_run ..
  have hwcell (c : CellIx) : w.cell c = s.cell c := withHold_cell ..
  have hopen : (w.lot l).openAt p = some r := by rw [hw, withHold_openAt, honly.1 p, if_pos rfl]
  have hwfree : (w.lot l).lotBlocked = false := by
    rw [hwlot, lotBlocked_append, hfree]
    rfl
  set u := (sendOrder (s.run r).cell .handler .stop w).setRun r (s.run r).stoppedAt with hu
  have hstop : stopStarted r w = u := by
    rw [stopStarted, if_pos (by rw [hwrun, hrun]; rfl), stopRun_of_still (by rw [hwrun]; exact hrun)
      (by rw [hwrun, hwcell]; exact hrunning) (by rw [hwrun, hwcell]; exact hpausing), hwrun]
  have heffect : policyEffect l (some p) .stop none w = u := by
    rw [policyEffect, hopen]
    exact hstop
  have hulot : u.lot l = w.lot l := by rw [hu, setRun_lot, sendOrder_lot]
  have hqueue : queueTest l u = u := by
    refine queueTest_inPlace ?_
    have hbelongs : belongsInQueue (u.lot l) = belongsInQueue (s.lot l) := by
      rw [hulot, belongsInQueue, belongsInQueue, hwfree, hfree, hwlot]
    rw [hbelongs, ← hplace]
    simp [hu, hw, withHold]
  have htakes : (s.lot l).state.takesHold k = true := by rw [hstate]; rfl
  rw [raiseOnRun, honly.2.1, honly.2.2, raiseHold_of_new htakes hnew, addHold_of_unfinished (by simp [hstate]),
    HoldKind.stopsRun_policy hk, heffect, hqueue, heldTest_keeps (.inr (.inl (by rw [hulot]; exact hwfree))), hu, hw,
    withHold_eq, sendOrder_setLot]

/-! ## CELL_RESET (R88) -/

/-- A cell's record after CELL_RESET (R88). -/
def Cell.reset (k : Cell) : Cell := k.invalid.resetFields

theorem raiseOnCurrent_of_none {c : CellIx} {k : HoldKind} {value : Option Nat} {s : State}
    (h : (s.cell c).current = none) : raiseOnCurrent c k value s = s := by
  rw [raiseOnCurrent, h]

theorem raiseOnCurrent_of_testing {c : CellIx} {k : HoldKind} {value : Option Nat} {s : State} {r : RunIx}
    (hcur : (s.cell c).current = some r) (hrun : (s.run r).state = .testing) :
    raiseOnCurrent c k value s = raiseOnRun r k value s := by
  rw [raiseOnCurrent, hcur]
  exact if_pos (by rw [hrun]; rfl)

/-- A GOLDEN or LOST hold raised on the TESTING current run of a cell whose record has just been written. -/
theorem raiseOnCurrent_stops {c : CellIx} {l : LotSlot} {p : RunPlace} {r : RunIx} {k : HoldKind} {value : Option Nat}
    {y : Cell} {u : State} (hk : k.stopsRun) (hstation : y.station .handler = (u.cell c).station .handler)
    (hcur : y.current = some r) (honly : onlyRun l p r u) (hcell : (u.run r).cell = c) (hrun : (u.run r).state = .testing)
    (hrunning : y.state ≠ .running) (hpausing : y.state ≠ .pausing) (hstate : (u.lot l).state = .running)
    (hnew : (u.lot l).holdsKind k (some p) = false) (hfree : (u.lot l).lotBlocked = false) (hplace : inPlace l u) :
    raiseOnCurrent c k value (u.setCell c y) =
      (sendOrder c .handler .stop (postNotice (.holdRaised (u.lot l).tag k (some p) .stop value) u)).work
        (vset u.lots l { u.lot l with holds := (u.lot l).holds ++ [newHold u l k (some p) .stop value] })
        (vset u.runs r (u.run r).stoppedAt) (vset u.cells c y) u.queue u.seqCounter := by
  set v := u.setCell c y with hv
  have hvcell : v.cell (v.run r).cell = y := by
    show v.cell (u.run r).cell = y
    rw [hcell, hv, setCell_cell]
  rw [raiseOnCurrent_of_testing (by rw [hv, setCell_cell]; exact hcur) (by exact hrun),
    raiseOnRun_stops hk (by exact honly) (by exact hrun) (by rw [hvcell]; exact hrunning) (by rw [hvcell]; exact hpausing)
      (by exact hstate) (by exact hnew) (by exact hfree) (by exact hplace)]
  show ((sendOrder (u.run r).cell .handler .stop
      (postNotice (.holdRaised (u.lot l).tag k (some p) .stop value) (u.setCell c y))).setLot l
      { u.lot l with holds := (u.lot l).holds ++ [newHold u l k (some p) .stop value] }).setRun r (u.run r).stoppedAt = _
  rw [hcell, postNotice_setCell, sendOrder_setCell _ _ _ _ _ (by rw [postNotice_cell]; exact hstation)]
  simp only [setLot_work, setRun_work, setCell_work, work_work, work_lots, work_runs, work_cells, work_queue,
    work_seqCounter, sendOrder_lots, sendOrder_runs, sendOrder_cells, sendOrder_queue, sendOrder_seqCounter,
    postNotice_lots, postNotice_runs, postNotice_cells, postNotice_queue, postNotice_seqCounter]

/-- CELL_RESET of a cell that is OFFLINE already. -/
theorem resetCell_of_offline {c : CellIx} {s : State} (hstate : (s.cell c).state = .offline)
    (hprep : (s.cell c).prep = none) (h : noWithdrawal (s.cell c) s) :
    resetCell c s = raiseOnCurrent c .lost none (s.setCell c (s.cell c).reset) := by
  rw [resetCell, interrupt_of_none hprep h]
  rw [if_pos hstate, if_pos hstate, State.modCell, setCell_cell, setCell_setCell]
  rfl

/-- CELL_RESET of any other cell: what is in hand is cut off, the cell goes OFFLINE, and its notice is posted. -/
theorem resetCell_of_online {c : CellIx} {s : State} (hstate : (s.cell c).state ≠ .offline) (h : noWithdrawal (s.cell c) s) :
    resetCell c s = raiseOnCurrent c .lost none (postNotice (.cellChanged c .offline none)
      ((cutPorts c (s.cell c) s).setCell c (((s.cell c).cut s).marked s.timer .offline none).resetFields)) := by
  have hoffline : (((cutPorts c (s.cell c) s).setCell c ((s.cell c).cut s)).cell c).state ≠ .offline := by
    rw [setCell_cell, cut_state]
    exact hstate
  rw [resetCell, interrupt_eq h]
  rw [if_neg hstate, if_neg hstate, enterMarked_eq hoffline, State.modCell, setCell_cell, setCell_cell, setCell_setCell,
    setCell_setCell, setCell_timer, cutPorts_timer]

theorem ownCellReset_of_reset {cell : Byte} {c : CellIx} {s : State} (hc : cellInUse s cell = some c)
    (hstate : (s.cell c).state ≠ .quarantined) : ownCellReset cell s = ok (resetCell c s) := by
  rw [ownCellReset, hc]
  exact if_neg hstate

/-- A preparation in hand without a run is discarded first (R112). -/
theorem resetCell_of_prep {c : CellIx} {j : Prep} {s : State} (hoffline : (s.cell c).state ≠ .offline)
    (hcur : (s.cell c).current = none) (hreserved : (s.cell c).reserved = none) (hprep : (s.cell c).prep = some j) :
    resetCell c s = postNotice (.cellChanged c .offline none)
      ((if j.stage = .golden then postNotice (.goldenDone c 0 (s.cell c).enabled .aborted) s else s).setCell c
        { (s.cell c).reset with
          prep := none, deadline := deadlineLeft (s.cell c) s
          golden := if j.stage = .golden then ⟨0, .aborted, s.floorClock⟩ else (s.cell c).golden
          state := .offline, cause := none, since := s.timer, acc := (s.cell c).accNow s.timer, changed := true }) := by
  have hw : noWithdrawal (s.cell c) s := ⟨hreserved, fun r hr => absurd hr (by simp [hcur])⟩
  have hports : cutPorts c (s.cell c) s =
      if j.stage = .golden then postNotice (.goldenDone c 0 (s.cell c).enabled .aborted) s else s := by
    simp [cutPorts, hprep]
  have hcut : (s.cell c).cut s =
      if j.stage = .golden then (((s.cell c).discarded s).aborted s.floorClock).invalid
      else ((s.cell c).discarded s).invalid := by
    rw [Cell.cut, hprep]
  have hnone : ((s.cell c).cut s).current = none := by
    rw [hcut]
    split <;> exact hcur
  rw [resetCell_of_online hoffline hw, hports, raiseOnCurrent_of_none (by rw [postNotice_cell, setCell_cell]; exact hnone),
    hcut]
  by_cases hstage : j.stage = .golden
  · simp only [hstage, if_true]
    rfl
  · simp only [hstage, if_false]
    rfl

/-- A TESTING current run is held by LOST and sent STOP (R12, R88, R138). -/
theorem resetCell_of_testing {c : CellIx} {l : LotSlot} {p : RunPlace} {r : RunIx} {s : State}
    (hcur : (s.cell c).current = some r) (hreserved : (s.cell c).reserved = none) (hprep : (s.cell c).prep = none)
    (honly : onlyRun l p r s) (hcell : (s.run r).cell = c) (hrun : (s.run r).state = .testing)
    (hlot : (s.lot l).state = .running) (hnew : (s.lot l).holdsKind .lost (some p) = false)
    (hfree : (s.lot l).lotBlocked = false) (hplace : inPlace l s) :
    resetCell c s =
      (sendOrder c .handler .stop (postNotice (.holdRaised (s.lot l).tag .lost (some p) .stop none)
        (if (s.cell c).state = .offline then s else postNotice (.cellChanged c .offline none) s))).work
        (vset s.lots l { s.lot l with holds := (s.lot l).holds ++ [newHold s l .lost (some p) .stop none] })
        (vset s.runs r (s.run r).stoppedAt)
        (vset s.cells c (if (s.cell c).state = .offline then (s.cell c).reset else { (s.cell c).reset with
          state := .offline, cause := none, since := s.timer, acc := (s.cell c).accNow s.timer, changed := true }))
        s.queue s.seqCounter := by
  have hw : noWithdrawal (s.cell c) s := ⟨hreserved, fun r' hr' => by
    rw [hcur] at hr'
    obtain rfl := Option.some.inj hr'
    rw [hrun]
    simp⟩
  by_cases hoffline : (s.cell c).state = .offline
  · rw [if_pos hoffline, if_pos hoffline, resetCell_of_offline hoffline hprep hw]
    exact raiseOnCurrent_stops (y := (s.cell c).reset) trivial rfl hcur honly hcell hrun
      (by show (s.cell c).state ≠ _; simp [hoffline]) (by show (s.cell c).state ≠ _; simp [hoffline]) hlot hnew hfree hplace
  · have hports : cutPorts c (s.cell c) s = s := by simp [cutPorts, hprep]
    have hcut : (s.cell c).cut s = (s.cell c).invalid := by rw [Cell.cut, hprep]
    rw [if_neg hoffline, if_neg hoffline, resetCell_of_online hoffline hw, hports, hcut, postNotice_setCell]
    set u := postNotice (.cellChanged c .offline none) s with hu
    have hulot : u.lot l = s.lot l := postNotice_lot ..
    have hurun : u.run r = s.run r := postNotice_run ..
    have hnewHold : newHold u l .lost (some p) .stop none = newHold s l .lost (some p) .stop none := by
      simp [newHold, hu]
    set y := ((s.cell c).invalid.marked s.timer .offline none).resetFields with hy
    have hystate : y.state = .offline := rfl
    rw [raiseOnCurrent_stops (u := u) (y := y) (k := .lost) (r := r) (l := l) (p := p) trivial
      (by rw [hu, postNotice_cell]; rfl) hcur (by rw [onlyRun, hulot, hurun]; exact honly) (by rw [hurun]; exact hcell)
      (by rw [hurun]; exact hrun) (by rw [hystate]; simp) (by rw [hystate]; simp) (by rw [hulot]; exact hlot)
      (by rw [hulot]; exact hnew) (by rw [hulot]; exact hfree)
      (by rw [inPlace, hulot, hu, postNotice_queue]; exact hplace), hulot, hurun, hnewHold]
    simp only [hu, postNotice_lots, postNotice_runs, postNotice_cells, postNotice_queue, postNotice_seqCounter]
    rfl

/-- Settles O29. -/
theorem cellResetTakesTheCellOffline : Obligations.CellResetTakesTheCellOffline := by
  intro h cell s ho
  rw [exec_inOperate (kind := 0x0321) (own := ownCellReset cell) ho rfl rfl]
  refine ⟨fun hout => ?_, fun c hc hin => ?_⟩
  · rw [ownCellReset, cellInUse_eq_none hout]
  · intro k reset
    have hcell := cellInUse_of_index hc hin
    have hnone (hcur : k.current = none) (hreserved : k.reserved = none) : noWithdrawal k s :=
      ⟨hreserved, fun r hr => absurd hr (by simp [hcur])⟩
    refine ⟨fun hstate => ?_, fun hstate hcur hreserved hprep => ?_, fun hstate hoffline hcur hreserved hprep => ?_,
      fun j hstate hoffline hcur hreserved hprep => ?_,
      fun l p r hstate hcur hreserved hprep honly hrcell hrun hlot hnew hfree hplace => ?_⟩
    · rw [ownCellReset, hcell]
      exact congrArg (fun t => Host.Outcome.next (respond h 0x0321 t)) (if_pos hstate)
    · rw [ownCellReset_of_reset hcell (by rw [hstate]; simp), resetCell_of_offline hstate hprep (hnone hcur hreserved),
        raiseOnCurrent_of_none (by rw [setCell_cell]; exact hcur)]
      rfl
    · have hports : cutPorts c k s = s := by simp [cutPorts, hprep]
      have hcut : k.cut s = k.invalid := by rw [Cell.cut, hprep]
      rw [ownCellReset_of_reset hcell hstate, resetCell_of_online hoffline (hnone hcur hreserved), hports, hcut,
        raiseOnCurrent_of_none (by rw [postNotice_cell, setCell_cell]; exact hcur)]
      rfl
    · rw [ownCellReset_of_reset hcell hstate, resetCell_of_prep hoffline hcur hreserved hprep]
      rfl
    · intro x u
      have hseq : s.seqCounter =
          (sendOrder c .handler .stop (postNotice (.holdRaised x.tag .lost (some p) .stop none) u)).seqCounter := by
        rw [sendOrder_seqCounter, postNotice_seqCounter]
        simp only [u]
        split <;> simp
      have hqueue : s.queue =
          (sendOrder c .handler .stop (postNotice (.holdRaised x.tag .lost (some p) .stop none) u)).queue := by
        rw [sendOrder_queue, postNotice_queue]
        simp only [u]
        split <;> simp
      rw [ownCellReset_of_reset hcell hstate,
        resetCell_of_testing hcur hreserved hprep honly hrcell hrun hlot hnew hfree hplace]
      refine congrArg (fun t => Host.Outcome.next (respond h 0x0321 (ok t))) ?_
      show (sendOrder c .handler .stop (postNotice (.holdRaised x.tag .lost (some p) .stop none) u)).work _ _ _ _ _ =
        State.work _ _ _ _ _ _
      rw [← hqueue, ← hseq]
      rfl

end Sys2Proof.Machine
end

section
/-! PROOF. The faults and silences that take a cell out (O39). -/

set_option Elab.async false

namespace Sys2Proof.Machine

/-! ## What does not read the ports -/

theorem escalates_congr {s t : State} (hprofile : t.profile = s.profile) (k : Cell) : escalates k t = escalates k s := by
  rw [escalates, escalates, hprofile]

theorem faulted_congr {s t : State} (hprofile : t.profile = s.profile) (htimer : t.timer = s.timer) (k : Cell)
    (cause : Cause) : faulted k cause t = faulted k cause s := by
  simp only [faulted, escalates_congr hprofile, deadlineLeft, htimer]

theorem faultNotice_congr {s t : State} (hprofile : t.profile = s.profile) (c : CellIx) (k : Cell) (cause : Cause) :
    faultNotice c k cause t = faultNotice c k cause s := by
  rw [faultNotice, faultNotice, escalates_congr hprofile]

/-! ## Faults that withdraw no run (R79) -/

/-- A fault of a cell with no preparation and no stage deadline (R79). -/
theorem enterDown_of_none {c : CellIx} {cause : Cause} {s : State} (hdown : (s.cell c).state ≠ .down)
    (hquarantined : (s.cell c).state ≠ .quarantined) (hprep : (s.cell c).prep = none) (hdeadline : runDeadline (s.cell c))
    (h : noWithdrawal (s.cell c) s) :
    enterDown c cause s =
      postNotice (faultNotice c (s.cell c) cause s) (s.setCell c (faulted (s.cell c) cause s)) := by
  have hports : cutPorts c (s.cell c) s = s := by simp [cutPorts, hprep]
  rw [enterDown_eq hdown hquarantined h, hports, faulted_of_none hprep hdeadline]

/-- A fault of a cell with a preparation in hand (R79, R112). -/
theorem enterDown_of_prep {c : CellIx} {cause : Cause} {s : State} {j : Prep} (hdown : (s.cell c).state ≠ .down)
    (hquarantined : (s.cell c).state ≠ .quarantined) (hprep : (s.cell c).prep = some j)
    (h : noWithdrawal (s.cell c) s) :
    enterDown c cause s =
      postNotice (faultNotice c (s.cell c) cause s)
        ((if j.stage = .golden then postNotice (.goldenDone c 0 (s.cell c).enabled .aborted) s else s).setCell c
          (faulted (if j.stage = .golden then (s.cell c).aborted s.floorClock else s.cell c) cause s)) := by
  have hports : cutPorts c (s.cell c) s =
      if j.stage = .golden then postNotice (.goldenDone c 0 (s.cell c).enabled .aborted) s else s := by
    simp [cutPorts, hprep]
  rw [enterDown_eq hdown hquarantined h, hports, faulted_of_prep hprep]

theorem operational_ne {st : CellState} (h : st.operational = true) : st ≠ .down ∧ st ≠ .quarantined := by
  cases st <;> simp_all [CellState.operational]

/-- A JAM or an ALARM of an operational cell is a fault (R79). -/
theorem actOnReport_faults {c : CellIx} {rep : StationReport} {cause : Cause} {s : State}
    (hrep : rep = .jam ∧ cause = .jam ∨ rep = .alarm ∧ cause = .alarm) (h : (s.cell c).state.operational = true) :
    actOnReport c rep s = enterDown c cause s := by
  rcases hrep with ⟨rfl, rfl⟩ | ⟨rfl, rfl⟩
  · exact if_pos h
  · exact if_pos h

theorem deadlineDue_eq_true {s : State} {c : CellIx} {d : Deadline} {kind : DeadlineKind → Bool}
    (hdeadline : (s.cell c).deadline = some d) (hkind : kind d.kind = true) (hdue : d.expiry ≤ s.timer) :
    deadlineDue s c kind = true := by
  rw [deadlineDue, hdeadline]
  simp [hkind, hdue]

/-! ## Silence (R77, R78) -/

/-- A cell that enters LOST (R78). -/
def Cell.lostAt (k : Cell) (now : Nat) : Cell :=
  { (k.marked now .lost none).invalid.silenced with expected := none }

/-- Entry to LOST of a cell with no preparation, where no run is withdrawn (R78). -/
theorem enterLost_eq {c : CellIx} {s : State} (hstate : (s.cell c).state ≠ .lost) (hprep : (s.cell c).prep = none)
    (h : noWithdrawal (s.cell c) s) :
    enterLost c s = raiseOnCurrent c .lost none
      ((postNotice (.cellChanged c .lost none) s).setCell c ((s.cell c).lostAt s.timer)) := by
  have hports : cutPorts c (s.cell c) s = s := by simp [cutPorts, hprep]
  have hcut : ((s.cell c).marked s.timer .lost none).cut s = ((s.cell c).marked s.timer .lost none).invalid := by
    rw [Cell.cut, show ((s.cell c).marked s.timer .lost none).prep = none from hprep]
  rw [enterLost, interrupt_enterMarked hstate h, hports, hcut, State.modCell, setCell_cell, setCell_setCell,
    postNotice_setCell]
  rfl

theorem heartbeatDue_of_silent {s : State} {c : CellIx} {role : Role} {t : Nat}
    (hstate : (s.cell c).state ∉ [CellState.offline, .lost, .quarantined])
    (ht : (s.cell c).heard role = some t ∨ (s.cell c).clearTime = some t)
    (hheard : ∀ u ∈ (s.cell c).heard role, u ≤ t) (hclear : ∀ u ∈ (s.cell c).clearTime, u ≤ t)
    (hdue : t + 1000 * s.profile.heartbeat ≤ s.timer) : heartbeatDue s c role = true := by
  have hwatched : (s.cell c).state.watched = true := by
    cases hs : (s.cell c).state <;> simp_all [CellState.watched]
  have hlater : laterOf ((s.cell c).heard role) (s.cell c).clearTime = some t := by
    cases hh : (s.cell c).heard role with
    | none =>
      rw [hh] at ht
      rw [ht.resolve_left (by simp)]
      rfl
    | some a =>
      have ha : a ≤ t := hheard a (by simp [hh])
      cases hc : (s.cell c).clearTime with
      | none =>
        rw [hh, hc] at ht
        exact congrArg some (Option.some.inj (ht.resolve_right (by simp)))
      | some b =>
        have hb : b ≤ t := hclear b (by simp [hc])
        rw [hh, hc] at ht
        refine congrArg some ?_
        rcases ht with h | h
        · obtain rfl := Option.some.inj h
          exact Nat.max_eq_left hb
        · obtain rfl := Option.some.inj h
          exact Nat.max_eq_right ha
  rw [heartbeatDue, hwatched, hlater, seconds, Nat.mul_comm]
  simpa using hdue

/-! ## The withdrawal of a run whose lot no hold holds (R3, R6, R123) -/

theorem noCellFor_of_except {c : CellIx} {st : Step} {s t : State} (hcells : ∀ d, d ≠ c → t.cell d = s.cell d)
    (hstate : (t.cell c).state ≠ .idle) (h : noCellFor st s) : noCellFor st t := by
  intro d hd
  by_cases hdc : d = c
  · subst hdc
    simp [eligible, hstate] at hd
  · rw [hcells d hdc] at hd ⊢
    exact h d hd

/-- A floor with one cell out of work, and no run newly at work, has no new candidate (R125). -/
theorem noCandidateFor_of_except {c : CellIx} {cls : Nat} {preempt : Bool} {st : Step} {s t : State}
    (hcells : ∀ d, d ≠ c → t.cell d = s.cell d) (hstate : (t.cell c).state ≠ .running)
    (hruns : ∀ r, t.run r = s.run r ∨ (t.run r).state ≠ .testing) (hcls : ∀ l, (t.lot l).cls = (s.lot l).cls)
    (h : noCandidateFor cls preempt st s) : noCandidateFor cls preempt st t := by
  intro h0 hp d
  have hd := h h0 hp d
  rw [Bool.eq_false_iff] at hd ⊢
  intro ht
  refine hd ?_
  by_cases hdc : d = c
  · subst hdc
    simp [preemptable, hstate] at ht
  · rw [preemptable, hcells d hdc] at ht
    rw [preemptable]
    cases hcur : (s.cell d).current with
    | none => simp [hcur] at ht
    | some r =>
      rw [hcur] at ht
      rcases hruns r with hr | hr
      · simpa [hr, lotOfRun, hcls] using ht
      · simp [hr] at ht

theorem withdrawn_run (r : RunIx) (s : State) (q : RunIx) :
    (withdrawn r s).run q = s.run q ∨ ((withdrawn r s).run q).state ≠ .testing := by
  by_cases hq : r = q
  · subst hq
    right
    have hfree : (withdrawn r s).run r = .free := setRun_run ..
    rw [hfree]
    simp [Run.free]
  · exact .inl (setRun_run_ne _ _ hq)

/-- A withdrawal puts the lot back in the queue, where no cell can take it (R3, R6, R123). -/
theorem withdraw_enters {l : LotSlot} {p : RunPlace} {r : RunIx} {s : State} (hlot : (s.run r).lot = l)
    (hpos : (s.run r).pos = p) (hstate : (s.lot l).state = .waiting ∨ (s.lot l).state = .running)
    (hfree : (s.lot l).lotBlocked = false) (hout : l ∉ s.queue) (hage : notAging (s.lot l) s)
    (hcell : noCellFor (stepOf s (s.lot l)) (withdrawn r s))
    (hhot : noCandidateFor (s.lot l).cls (s.lot l).preempt (stepOf s (s.lot l)) (withdrawn r s)) :
    withdraw r s = queueInsert l (withdrawn r s) := by
  have hw : (withdrawn r s).lot l = (s.lot l).returned p := by rw [← hlot, withdrawn_lot, hpos]
  have hstep : stepOf (withdrawn r s) ((withdrawn r s).lot l) = stepOf s (s.lot l) := by
    rw [hw]
    exact stepOf_congr rfl rfl rfl
  have hin : belongsInQueue ((withdrawn r s).lot l) = true := by
    rw [belongsInQueue_iff, hw]
    exact ⟨hstate, Nat.succ_pos _, hfree⟩
  rw [withdraw_eq, hlot, heldTest_keeps (.inr (.inl (by rw [hw]; exact hfree))),
    queueTest_enters (by exact hout) hin (by rw [hw]; exact hage) (by rw [hstep]; exact hcell)
      (by rw [hstep, hw]; exact hhot)]

/-- A cell that forgets a run in its stack nowhere, and in no preparation. -/
theorem forget_of_spare {k : Cell} {r : RunIx} (hcur : k.current = some r) (hreserved : k.reserved = none)
    (hstack : r ∉ k.stack) (hprep : k.prep = none) : k.forget r = { k with current := none } := by
  have hfilter : k.stack.filter (· ≠ r) = k.stack :=
    List.filter_eq_self.2 fun m hm => by simpa using fun hmr : m = r => hstack (hmr ▸ hm)
  cases k
  simp_all [Cell.forget]

/-- An interruption that withdraws an ASSIGNED current run with a preparation in hand: the preparation is discarded, the
run's record is free, and its lot is back in the queue, where no cell can take it (R80, R112, R123). -/
theorem interrupt_withdraws {c : CellIx} {l : LotSlot} {p : RunPlace} {r : RunIx} {s : State}
    (hcur : (s.cell c).current = some r) (hreserved : (s.cell c).reserved = none)
    (hstack : r ∉ (s.cell c).stack) (hidle : (s.cell c).state ≠ .idle) (hrunning : (s.cell c).state ≠ .running)
    (honly : onlyRun l p r s) (hcell : (s.run r).cell = c) (hrun : (s.run r).state = .assigned)
    (hstate : (s.lot l).state = .waiting ∨ (s.lot l).state = .running) (hfree : (s.lot l).lotBlocked = false)
    (hout : l ∉ s.queue) (hage : notAging (s.lot l) s) (hno : noCellFor (stepOf s (s.lot l)) s)
    (hhot : noCandidateFor (s.lot l).cls (s.lot l).preempt (stepOf s (s.lot l)) s) :
    interrupt c false s =
      (cutPorts c (s.cell c) s).work (vset s.lots l ((s.lot l).returned p)) (vset s.runs r .free)
        (vset s.cells c { (s.cell c).cut s with current := none })
        (placeIn (s.setLot l ((s.lot l).returned p)) l s.queue) s.seqCounter := by
  have hkcur : ((s.cell c).cut s).current = some r := (cut_current _ _).trans hcur
  have hkreserved : ((s.cell c).cut s).reserved = none := (cut_reserved _ _).trans hreserved
  have hforget : ((s.cell c).cut s).forget r = { (s.cell c).cut s with current := none } :=
    forget_of_spare hkcur hkreserved (by rw [cut_stack]; exact hstack) (cut_prep _ _)
  set v := (cutPorts c (s.cell c) s).setCell c ((s.cell c).cut s) with hv
  have hvcell : v.cell c = (s.cell c).cut s := setCell_cell ..
  have hvrun : v.run r = s.run r := cutPorts_run ..
  have hvlot (m : LotSlot) : v.lot m = s.lot m := cutPorts_lot ..
  have hvstep : stepOf v (s.lot l) = stepOf s (s.lot l) := stepOf_congr (cutPorts_routes ..) rfl rfl
  have hwithdrawn : withdrawn r v = (cutPorts c (s.cell c) s).work (vset s.lots l ((s.lot l).returned p))
      (vset s.runs r .free) (vset s.cells c { (s.cell c).cut s with current := none }) s.queue s.seqCounter := by
    rw [withdrawn, hvrun, hcell, hvcell, honly.2.1, honly.2.2, hvlot, hforget, hv]
    simp only [setRun_work, setCell_work, setLot_work, work_work, work_lots, work_runs, work_cells, work_queue,
      work_seqCounter, cutPorts_lots, cutPorts_runs, cutPorts_cells, cutPorts_queue, cutPorts_seqCounter, vset_vset]
  have hcells (d : CellIx) (hd : d ≠ c) : (withdrawn r v).cell d = s.cell d := by
    rw [hwithdrawn, work_cell, vset_get_ne _ _ (Ne.symm hd)]
    rfl
  have hcellc : (withdrawn r v).cell c = { (s.cell c).cut s with current := none } := by
    rw [hwithdrawn, work_cell, vset_get_same]
  have hruns (q : RunIx) : (withdrawn r v).run q = s.run q ∨ ((withdrawn r v).run q).state ≠ .testing := by
    have hvq : v.run q = s.run q := cutPorts_run ..
    rw [← hvq]
    exact withdrawn_run r v q
  have hcls (m : LotSlot) : ((withdrawn r v).lot m).cls = (s.lot m).cls := by
    rw [hwithdrawn, work_lot]
    by_cases hm : l = m
    · subst hm; rw [vset_get_same]; rfl
    · rw [vset_get_ne _ _ hm]; rfl
  have hplace : placeIn (withdrawn r v) l s.queue = placeIn (s.setLot l ((s.lot l).returned p)) l s.queue := by
    rw [hwithdrawn]
    exact placeIn_congr l _ (fun _ => rfl) fun _ => rfl
  rw [interrupt, interrupt_first, ← hv, withdrawCurrent, hvcell, hkcur]
  dsimp only
  rw [if_pos (by rw [hvrun]; exact hrun), withdraw_enters (l := l) (p := p) (by rw [hvrun]; exact honly.2.1)
    (by rw [hvrun]; exact honly.2.2) (by rw [hvlot]; exact hstate) (by rw [hvlot]; exact hfree)
    (by rw [hv, setCell_queue, cutPorts_queue]; exact hout)
    (by rw [hvlot, notAging, hv, setCell_profile, setCell_timer, cutPorts_profile, cutPorts_timer]; exact hage)
    (by
      rw [hvlot, hvstep]
      exact noCellFor_of_except hcells (by rw [hcellc]; show ((s.cell c).cut s).state ≠ _; rw [cut_state]; exact hidle) hno)
    (by
      rw [hvlot, hvstep]
      exact noCandidateFor_of_except hcells
        (by rw [hcellc]; show ((s.cell c).cut s).state ≠ _; rw [cut_state]; exact hrunning) hruns hcls hhot),
    withdrawReserved_of_none (by rw [queueInsert_cell, hcellc]; exact hkreserved), queueInsert_work, hwithdrawn]
  simp only [work_work, work_lots, work_runs, work_cells, work_queue, work_seqCounter]
  rw [← hwithdrawn, hplace]

/-- A fault that takes no report with it, by the interruption it makes (R79). -/
theorem enterDown_interrupts {c : CellIx} {cause : Cause} {s : State} (hdown : (s.cell c).state ≠ .down)
    (hquarantined : (s.cell c).state ≠ .quarantined) (hsilences : cause.silences = false) :
    enterDown c cause s = postNotice (faultNotice c (s.cell c) cause s)
      (interrupt c false (s.setCell c ((s.cell c).faultEntered cause s))) := by
  set v := s.setCell c { s.cell c with downCount := min 15 ((s.cell c).downCount + 1) } with hv
  have hcell : v.cell c = { s.cell c with downCount := min 15 ((s.cell c).downCount + 1) } := setCell_cell ..
  rw [enterDown]
  show (if 0 < s.profile.escalation ∧ min 15 ((s.cell c).downCount + 1) = s.profile.escalation then
      enterQuarantined c .escalation false v
    else postNotice (.cellChanged c .down (some cause))
      (if cause.silences then State.modCell (interrupt c false (enterMarked c .down (some cause) v)) c Cell.silenced
       else interrupt c false (enterMarked c .down (some cause) v))) = _
  by_cases hesc : escalates (s.cell c) s = true
  · rw [if_pos (by simpa [escalates] using hesc), enterQuarantined,
      enterMarked_eq (by rw [hcell]; exact hquarantined), hcell, faultNotice, Cell.faultEntered, hesc, hv, setCell_setCell]
    rfl
  · rw [if_neg (by simpa [escalates] using hesc), hsilences, if_neg (by simp),
      enterMarked_eq (by rw [hcell]; exact hdown), hcell, faultNotice, Cell.faultEntered, Bool.eq_false_iff.2 hesc, hv,
      setCell_setCell]
    rfl

/-- A fault in the middle of a preparation of an ASSIGNED run (R79, R80, R123). -/
theorem enterDown_withdraws {c : CellIx} {cause : Cause} {l : LotSlot} {p : RunPlace} {r : RunIx} {j : Prep} {s : State}
    (hdown : (s.cell c).state ≠ .down) (hquarantined : (s.cell c).state ≠ .quarantined)
    (hsilences : cause.silences = false) (hprep : (s.cell c).prep = some j) (hcur : (s.cell c).current = some r)
    (hreserved : (s.cell c).reserved = none) (hstack : r ∉ (s.cell c).stack) (honly : onlyRun l p r s)
    (hcell : (s.run r).cell = c) (hrun : (s.run r).state = .assigned)
    (hstate : (s.lot l).state = .waiting ∨ (s.lot l).state = .running) (hfree : (s.lot l).lotBlocked = false)
    (hout : l ∉ s.queue) (hage : notAging (s.lot l) s) (hno : noCellFor (stepOf s (s.lot l)) s)
    (hhot : noCandidateFor (s.lot l).cls (s.lot l).preempt (stepOf s (s.lot l)) s) :
    enterDown c cause s =
      (postNotice (faultNotice c (s.cell c) cause s)
        (if j.stage = .golden then postNotice (.goldenDone c 0 (s.cell c).enabled .aborted) s else s)).work
        (vset s.lots l ((s.lot l).returned p)) (vset s.runs r .free)
        (vset s.cells c { faulted (s.cell c) cause s with
          current := none
          golden := if j.stage = .golden then ⟨0, .aborted, s.floorClock⟩ else (s.cell c).golden })
        (placeIn (s.setLot l ((s.lot l).returned p)) l s.queue) s.seqCounter := by
  set k := (s.cell c).faultEntered cause s with hk
  set v := s.setCell c k with hv
  have hvcell : v.cell c = k := setCell_cell ..
  have hkstate : k.state = .down ∨ k.state = .quarantined := by
    have hif : k.state = if escalates (s.cell c) s then .quarantined else .down := rfl
    rw [hif]
    split
    · exact .inr rfl
    · exact .inl rfl
  have hcells (d : CellIx) (hd : d ≠ c) : v.cell d = s.cell d := setCell_cell_ne _ _ (Ne.symm hd)
  have hcut : k.cut v = faulted (if j.stage = .golden then (s.cell c).aborted s.floorClock else s.cell c) cause s := by
    have h := faulted_of_prep (cause := cause) (s := s) hprep
    rw [hsilences, Bool.false_and] at h
    exact h
  have hports : cutPorts c k v = (if j.stage = .golden then postNotice (.goldenDone c 0 (s.cell c).enabled .aborted) s
      else s).setCell c k := by
    rw [cutPorts, show k.prep = some j from hprep]
    simp only [Option.map_some, Option.some.injEq]
    split
    · rw [hv, postNotice_setCell]
      rfl
    · rfl
  have hplace : placeIn (v.setLot l ((v.lot l).returned p)) l v.queue =
      placeIn (s.setLot l ((s.lot l).returned p)) l s.queue := placeIn_congr l _ (fun _ => rfl) fun _ => rfl
  rw [enterDown_interrupts hdown hquarantined hsilences, ← hk, ← hv,
    interrupt_withdraws (l := l) (p := p) (r := r) (by rw [hvcell]; exact hcur) (by rw [hvcell]; exact hreserved)
      (by rw [hvcell]; exact hstack) (by rw [hvcell]; rcases hkstate with h | h <;> simp [h])
      (by rw [hvcell]; rcases hkstate with h | h <;> simp [h]) (by exact honly) (by exact hcell) (by exact hrun)
      (by exact hstate) (by exact hfree) (by exact hout) (by exact hage)
      (noCellFor_of_except (s := s) hcells (by rw [hvcell]; rcases hkstate with h | h <;> simp [h]) hno)
      (noCandidateFor_of_except (s := s) hcells (by rw [hvcell]; rcases hkstate with h | h <;> simp [h])
        (fun _ => .inl rfl) (fun _ => rfl) hhot), hvcell, hports, hcut, hplace, postNotice_work, postNotice_setCell,
    setCell_work, work_work, hv, setCell_work]
  simp only [work_lots, work_runs, work_cells, work_seqCounter, vset_vset, work_lot]
  by_cases hstage : j.stage = .golden
  · simp only [hstage, if_true]
    rfl
  · simp only [hstage, if_false]
    rfl

end Sys2Proof.Machine
end

section
/-! PROOF. O39, from the rules of faults, silences and interruptions. -/

set_option Elab.async false

namespace Sys2Proof.Machine

theorem noWithdrawal_metBy {i : Instr} {e : Envelope} {c : CellIx} {role : Role} {s : State} {k : Cell}
    (h : noWithdrawal k s) (x : Cell) (hreserved : x.reserved = k.reserved) (hcurrent : x.current = k.current) :
    noWithdrawal x ((metBy i e c role s).setCell c x) :=
  noWithdrawal_congr hreserved hcurrent (metBy_runs i e c role s) h

/-- A fault reported by a station of a cell with no preparation (R79). -/
theorem exec_fault {e : Envelope} {code : Byte} {c : CellIx} {role : Role} {s : State} {rep : StationReport} {cause : Cause}
    (h : fromStation (.state e code) e c role s) (hcode : stationReportOf role code = some rep)
    (hrep : rep = .jam ∧ cause = .jam ∨ rep = .alarm ∧ cause = .alarm) :
    let u := metBy (.state e code) e c role s
    let k := (u.cell c).told role rep
    k.state.operational = true → k.prep = none → runDeadline k → noWithdrawal k s →
    exec (.state e code) s = .next (postNotice (faultNotice c k cause s) (u.setCell c (faulted k cause s))) := by
  intro u k hstate hprep hdeadline hw
  set w := u.setCell c k with hwdef
  have hcell : w.cell c = k := setCell_cell ..
  have hprofile : w.profile = s.profile := metBy_profile (.state e code) e c role s
  have htimer : w.timer = s.timer := metBy_timer (.state e code) e c role s
  obtain ⟨hdown, hquarantined⟩ := operational_ne hstate
  rw [exec_state h hcode, actOnReport_faults hrep (by rw [setCell_cell]; exact hstate),
    enterDown_of_none (by rw [hcell]; exact hdown) (by rw [hcell]; exact hquarantined) (by rw [hcell]; exact hprep)
      (by rw [hcell]; exact hdeadline) (by rw [hcell]; exact noWithdrawal_metBy hw k rfl rfl), hcell,
    faultNotice_congr hprofile, faulted_congr hprofile htimer, setCell_setCell]

/-- The expiry of a stage deadline (R108). -/
theorem exec_stageExpiry {c : CellIx} {d : Deadline} {j : Prep} {s : State} (hdeadline : (s.cell c).deadline = some d)
    (hkind : d.kind ∈ [DeadlineKind.changeover, .load, .golden]) (hdue : d.expiry ≤ s.timer)
    (hprep : (s.cell c).prep = some j) (hdown : (s.cell c).state ≠ .down)
    (hquarantined : (s.cell c).state ≠ .quarantined) (hw : noWithdrawal (s.cell c) s) :
    exec (.stageDeadlineExpiry c) s = .next (postNotice (faultNotice c (s.cell c) .timeout s)
      ((if j.stage = .golden then postNotice (.goldenDone c 0 (s.cell c).enabled .aborted) s else s).setCell c
        (faulted (if j.stage = .golden then (s.cell c).aborted s.floorClock else s.cell c) .timeout s))) := by
  have hstage : d.kind.isStage = true := by
    simp only [List.mem_cons, List.not_mem_nil, or_false] at hkind
    rcases hkind with h | h | h <;> rw [h] <;> rfl
  rw [← enterDown_of_prep hdown hquarantined hprep hw]
  exact congrArg Host.Outcome.next (if_pos (deadlineDue_eq_true hdeadline hstage hdue))

/-- The silence of a station of a cell with no preparation (R77, R78). -/
theorem exec_silence {c : CellIx} {role : Role} {t : Nat} {s : State}
    (hstate : (s.cell c).state ∉ [CellState.offline, .lost, .quarantined])
    (ht : (s.cell c).heard role = some t ∨ (s.cell c).clearTime = some t)
    (hheard : ∀ u ∈ (s.cell c).heard role, u ≤ t) (hclear : ∀ u ∈ (s.cell c).clearTime, u ≤ t)
    (hdue : t + 1000 * s.profile.heartbeat ≤ s.timer) (hprep : (s.cell c).prep = none) (hw : noWithdrawal (s.cell c) s) :
    exec (.heartbeatExpiry c role) s = .next (raiseOnCurrent c .lost none
      ((postNotice (.cellChanged c .lost none) s).setCell c ((s.cell c).lostAt s.timer))) := by
  rw [← enterLost_eq (fun h => hstate (by simp [h])) hprep hw]
  exact congrArg Host.Outcome.next (if_pos (heartbeatDue_of_silent hstate ht hheard hclear hdue))

/-- A TESTING current run of a cell that enters LOST (R78, R138). -/
theorem raiseLost {c : CellIx} {l : LotSlot} {p : RunPlace} {r : RunIx} {s : State} (hcur : (s.cell c).current = some r)
    (honly : onlyRun l p r s) (hcell : (s.run r).cell = c) (hrun : (s.run r).state = .testing)
    (hstate : (s.lot l).state = .running) (hnew : (s.lot l).holdsKind .lost (some p) = false)
    (hfree : (s.lot l).lotBlocked = false) (hplace : inPlace l s) :
    raiseOnCurrent c .lost none ((postNotice (.cellChanged c .lost none) s).setCell c ((s.cell c).lostAt s.timer)) =
      (sendOrder c .handler .stop (postNotice (.holdRaised (s.lot l).tag .lost (some p) .stop none)
        (postNotice (.cellChanged c .lost none) s))).work
        (vset s.lots l { s.lot l with holds := (s.lot l).holds ++ [newHold s l .lost (some p) .stop none] })
        (vset s.runs r (s.run r).stoppedAt) (vset s.cells c ((s.cell c).lostAt s.timer)) s.queue s.seqCounter := by
  set u := postNotice (.cellChanged c .lost none) s with hu
  have hulot : u.lot l = s.lot l := postNotice_lot ..
  have hurun : u.run r = s.run r := postNotice_run ..
  have hnewHold : newHold u l .lost (some p) .stop none = newHold s l .lost (some p) .stop none := by simp [newHold, hu]
  have hylost : ((s.cell c).lostAt s.timer).state = .lost := rfl
  rw [raiseOnCurrent_stops (u := u) (y := (s.cell c).lostAt s.timer) (k := .lost) (r := r) (l := l) (p := p) trivial
    (by rw [hu, postNotice_cell]; rfl) hcur (by rw [onlyRun, hulot, hurun]; exact honly) (by rw [hurun]; exact hcell)
    (by rw [hurun]; exact hrun) (by rw [hylost]; simp) (by rw [hylost]; simp) (by rw [hulot]; exact hstate)
    (by rw [hulot]; exact hnew) (by rw [hulot]; exact hfree)
    (by rw [inPlace, hulot, hu, postNotice_queue]; exact hplace), hulot, hurun, hnewHold]
  simp only [hu, postNotice_lots, postNotice_runs, postNotice_cells, postNotice_queue, postNotice_seqCounter]

/-- A JAM on a cell in preparation for an ASSIGNED run (R80, R112, R123). -/
theorem exec_jam_withdraws {e : Envelope} {c : CellIx} {l : LotSlot} {p : RunPlace} {r : RunIx} {j : Prep} {s : State}
    (h : fromStation (.state e 5) e c .handler s) :
    let u := metBy (.state e 5) e c .handler s
    let k := (u.cell c).told .handler .jam
    k.state ∈ [CellState.changeover, .loading, .golden] → k.prep = some j → k.current = some r → k.reserved = none → r ∉ k.stack →
    onlyRun l p r s → (s.run r).cell = c → (s.run r).state = .assigned →
    ((s.lot l).state = .waiting ∨ (s.lot l).state = .running) → (s.lot l).lotBlocked = false → l ∉ s.queue →
    notAging (s.lot l) s → noCellFor (stepOf s (s.lot l)) s →
    noCandidateFor (s.lot l).cls (s.lot l).preempt (stepOf s (s.lot l)) s →
    exec (.state e 5) s = .next
      ((postNotice (faultNotice c k .jam s)
        (if j.stage = .golden then postNotice (.goldenDone c 0 k.enabled .aborted) u else u)).work
        (vset s.lots l ((s.lot l).returned p)) (vset s.runs r .free)
        (vset u.cells c { faulted k .jam s with
          current := none, golden := if j.stage = .golden then ⟨0, .aborted, s.floorClock⟩ else k.golden })
        (placeIn (s.setLot l ((s.lot l).returned p)) l s.queue) s.seqCounter) := by
  intro u k hstate hprep hcur hreserved hstack honly hcell hrun hlot hfree hout hage hno hhot
  set w := u.setCell c k with hw
  have hwcell : w.cell c = k := setCell_cell ..
  have hwlot : w.lot l = s.lot l := metBy_lot (.state e 5) e c .handler s l
  have hwrun : w.run r = s.run r := metBy_run (.state e 5) e c .handler s r
  have hwstep : stepOf w (s.lot l) = stepOf s (s.lot l) := metBy_stepOf (.state e 5) e c .handler s _
  have hprofile : w.profile = s.profile := metBy_profile (.state e 5) e c .handler s
  have htimer : w.timer = s.timer := metBy_timer (.state e 5) e c .handler s
  have hfloor : w.floorClock = s.floorClock := metBy_floorClock (.state e 5) e c .handler s
  have hlots : w.lots = s.lots := metBy_lots (.state e 5) e c .handler s
  have hruns : w.runs = s.runs := metBy_runs (.state e 5) e c .handler s
  have hqueue : w.queue = s.queue := metBy_queue (.state e 5) e c .handler s
  have hseq : w.seqCounter = s.seqCounter := metBy_seqCounter (.state e 5) e c .handler s
  have hcells (d : CellIx) (hd : d ≠ c) : w.cell d = s.cell d :=
    (setCell_cell_ne _ _ (Ne.symm hd)).trans (metBy_cell_ne (.state e 5) e c .handler s (Ne.symm hd))
  have hworking : k.state.operational = true ∧ k.state ≠ .idle ∧ k.state ≠ .running := by
    revert hstate
    cases k.state <;> simp [CellState.operational]
  obtain ⟨hop, hidle, hrunning⟩ := hworking
  obtain ⟨hdown, hquarantined⟩ := operational_ne hop
  rw [exec_state h rfl, actOnReport_faults (.inl ⟨rfl, rfl⟩) (by rw [setCell_cell]; exact hop),
    enterDown_withdraws (l := l) (p := p) (r := r) (j := j) (by rw [hwcell]; exact hdown)
      (by rw [hwcell]; exact hquarantined) rfl (by rw [hwcell]; exact hprep) (by rw [hwcell]; exact hcur)
      (by rw [hwcell]; exact hreserved) (by rw [hwcell]; exact hstack) (by rw [onlyRun, hwlot, hwrun]; exact honly)
      (by rw [hwrun]; exact hcell) (by rw [hwrun]; exact hrun) (by rw [hwlot]; exact hlot) (by rw [hwlot]; exact hfree)
      (by rw [hqueue]; exact hout) (by rw [hwlot, notAging, hprofile, htimer]; exact hage)
      (by
        rw [hwlot, hwstep]
        exact noCellFor_of_except hcells (by rw [hwcell]; exact hidle) hno)
      (by
        rw [hwlot, hwstep]
        exact noCandidateFor_of_except hcells (by rw [hwcell]; exact hrunning)
          (fun q => .inl (metBy_run (.state e 5) e c .handler s q))
          (fun m => congrArg Lot.cls (metBy_lot (.state e 5) e c .handler s m)) hhot),
    hwcell, faultNotice_congr hprofile, faulted_congr hprofile htimer, hwlot, hlots, hruns, hqueue, hseq, hfloor]
  have hplaced (m : LotSlot) : (w.setLot l ((s.lot l).returned p)).lot m = (s.setLot l ((s.lot l).returned p)).lot m :=
    congrArg (fun lots : Vector Lot 256 => (vset lots l ((s.lot l).returned p))[m]) hlots
  have hplaces : placeIn (w.setLot l ((s.lot l).returned p)) l s.queue =
      placeIn (s.setLot l ((s.lot l).returned p)) l s.queue :=
    placeIn_congr l _ (fun m => congrArg Lot.cls (hplaced m)) fun m => congrArg Lot.queueSeq (hplaced m)
  have hports : postNotice (faultNotice c k .jam s)
      (if j.stage = .golden then postNotice (.goldenDone c 0 k.enabled .aborted) w else w) =
      (postNotice (faultNotice c k .jam s)
        (if j.stage = .golden then postNotice (.goldenDone c 0 k.enabled .aborted) u else u)).setCell c k := by
    rw [hw, postNotice_setCell, ← apply_ite (fun v => State.setCell v c k), postNotice_setCell]
  rw [hports, hplaces, setCell_work, work_work]
  simp only [work_cells, setCell_work, vset_vset]
  by_cases hstage : j.stage = .golden
  · simp only [hstage, if_true]
    rfl
  · simp only [hstage, if_false]
    rfl

/-- Settles O39. -/
theorem faultsTakeTheCellOut : Obligations.FaultsTakeTheCellOut := by
  refine ⟨⟨fun e code c role s h => ?_, fun c d j s => ?_⟩, fun c role t s => ?_, fun e c l p r j s h => ?_⟩
  · intro u k cause hcode hstate hprep hdeadline hw
    cases role with
    | tester => exact exec_fault (rep := .alarm) h (hcode ▸ rfl) (.inr ⟨rfl, rfl⟩) hstate hprep hdeadline hw
    | handler => exact exec_fault (rep := .jam) h (hcode ▸ rfl) (.inl ⟨rfl, rfl⟩) hstate hprep hdeadline hw
  · intro k hdeadline hkind hdue hprep hdown hquarantined hw
    exact exec_stageExpiry hdeadline hkind hdue hprep hdown hquarantined hw
  · intro k hstate ht hheard hclear hdue hprep hreserved lost u
    refine ⟨fun hcur => ?_, fun l p r hcur honly hcell hrun hlot hnew hfree hplace => ?_⟩
    · rw [exec_silence hstate ht hheard hclear hdue hprep ⟨hreserved, fun r hr => absurd hr (by simp [show (s.cell c).current = none from hcur])⟩,
        raiseOnCurrent_of_none (by rw [setCell_cell]; exact hcur)]
      rfl
    · intro x
      have hseq : (sendOrder c .handler .stop (postNotice (.holdRaised x.tag .lost (some p) .stop none) u)).seqCounter =
          s.seqCounter := by simp [u]
      have hqueue : (sendOrder c .handler .stop (postNotice (.holdRaised x.tag .lost (some p) .stop none) u)).queue =
          s.queue := by simp [u]
      have hw : noWithdrawal k s := ⟨hreserved, fun r' hr' => by
        rw [hcur] at hr'
        obtain rfl := Option.some.inj hr'
        rw [hrun]
        simp⟩
      rw [exec_silence hstate ht hheard hclear hdue hprep hw, raiseLost hcur honly hcell hrun hlot hnew hfree hplace]
      show _ = Host.Outcome.next (State.work _ _ _ _ _ _)
      rw [← hqueue, ← hseq]
      rfl
  · intro u k x checked v y hstate hprep hcur hreserved hstack honly hcell hrun hlot hfree hout hage hno hhot
    have hseq : (postNotice (faultNotice c k .jam s) v).seqCounter = s.seqCounter := by
      simp only [v]
      split <;> simp [u]
    rw [exec_jam_withdraws h hstate hprep hcur hreserved hstack honly hcell hrun hlot hfree hout hage hno hhot]
    show _ = Host.Outcome.next (State.work _ _ _ _ _ _)
    rw [hseq]
    rfl

end Sys2Proof.Machine
end

section
/-! PROOF. O42 and O43: the reports that end a changeover or a load (R98 to R103). -/

set_option Elab.async false

namespace Sys2Proof.Machine

/-! ## A stage that its report ends (R98, R100, R101) -/

/-- The cell whose stage is counted as taken, its deadline cancelled (R98). -/
def Cell.stageTaken (k : Cell) (p : Prep) : Cell := { k with deadline := none, prep := some p.stageTaken }

theorem Cell.cancelStage_of_stage {k : Cell} (h : ∀ d ∈ k.deadline, d.kind.isStage = true) :
    k.cancelStage = { k with deadline := none } := by
  rw [Cell.cancelStage]
  cases hd : k.deadline with
  | none => exact congrArg (fun d => { k with deadline := d }) hd
  | some d => exact if_pos (h d (by simp [hd]))

theorem stageDone_eq {c : CellIx} {s : State} {p : Prep} {r : RunIx} (hprep : (s.cell c).prep = some p)
    (htarget : p.target = some r) (hdeadline : ∀ d ∈ (s.cell c).deadline, d.kind.isStage = true) :
    stageDone c s = chooseStage c r (s.setCell c ((s.cell c).stageTaken p)) := by
  have hcell : (s.cell c).cancelStage.modPrep Prep.stageTaken = (s.cell c).stageTaken p := by
    rw [Cell.cancelStage_of_stage hdeadline, Cell.modPrep, Cell.stageTaken]
    simp only [hprep, Option.map_some]
  rw [stageDone, State.modCell, hcell, nextStage, setCell_cell]
  show (match p.target with | some r => _ | none => _) = _
  rw [htarget]

/-- The load that follows a changeover (R98, R101). -/
theorem stageDone_loads {c : CellIx} {s : State} {p : Prep} {r : RunIx} (hprep : (s.cell c).prep = some p)
    (htarget : p.target = some r) (hpurpose : p.purpose ≠ .periodic)
    (hdeadline : ∀ d ∈ (s.cell c).deadline, d.kind.isStage = true) (hstate : (s.cell c).state ≠ .loading)
    (hkit : kitDiffers (s.cell c) (stepOfRun s r) = false) (htemp : tempDiffers (s.cell c) (stepOfRun s r) = false)
    (hprogram : programDiffers (s.cell c) (stepOfRun s r) = true) :
    stageDone c s =
      (sendOrder c .tester (.load (stepOfRun s r).programId (stepOfRun s r).revision) s).setCell c { s.cell c with
        prep := some { p with stage := .loading, goldenPlanned := true, goldenTaken := false }
        lastLoad := some ⟨(stepOfRun s r).programId, (stepOfRun s r).revision, (stepOfRun s r).checksum⟩
        deadline := some ⟨.load, s.timer + 1000 * s.profile.load⟩
        state := .loading, cause := none, since := s.timer, acc := (s.cell c).accNow s.timer } := by
  set k := (s.cell c).stageTaken p with hk
  have hcell : (s.setCell c k).cell c = k := setCell_cell ..
  have hstep : stepOfRun (s.setCell c k) r = stepOfRun s r := rfl
  rw [stageDone_eq hprep htarget hdeadline, ← hk,
    chooseStage_loading (s := s.setCell c k) (p := p.stageTaken) (by rw [hcell]; rfl) (by exact hpurpose)
      (by rw [hcell, hstep]; exact hkit) (by rw [hcell, hstep]; exact htemp) (by rw [hcell, hstep]; exact hprogram),
    beginLoading_eq, hcell, hstep, setCell_sendOrder c _ _ k _ s (by rfl)]
  refine congrArg ((sendOrder c .tester _ s).setCell c) ?_
  rw [Cell.staged, Cell.armStage_of_stage (by simp [hk, Cell.stageTaken, Cell.modPrep]), Cell.entered_of_ne (by exact hstate), seconds,
    Nat.mul_comm]
  rfl

/-- The golden check that follows a load (R98, R103). -/
theorem stageDone_checks {c : CellIx} {s : State} {p : Prep} {r : RunIx} (hprep : (s.cell c).prep = some p)
    (htarget : p.target = some r) (hdeadline : ∀ d ∈ (s.cell c).deadline, d.kind.isStage = true)
    (hstate : (s.cell c).state ≠ .golden) (hsetup : setupCost (s.cell c) (stepOfRun s r) = 0) :
    stageDone c s =
      (sendBoth c (.golden (stepOfRun s r).siteCount) s).setCell c { s.cell c with
        prep := some { p with
          stage := .golden, goldenPlanned := true, goldenTaken := false, goldenSites := some (stepOfRun s r).siteCount
          goldenMin := some (stepOfRun s r).minSites }
        deadline := some ⟨.golden, s.timer + 1000 * s.profile.golden⟩
        state := .golden, cause := none, since := s.timer, acc := (s.cell c).accNow s.timer } := by
  set k := (s.cell c).stageTaken p with hk
  have hcell : (s.setCell c k).cell c = k := setCell_cell ..
  have hstep : stepOfRun (s.setCell c k) r = stepOfRun s r := rfl
  rw [stageDone_eq hprep htarget hdeadline, ← hk,
    chooseStage_setUp (s := s.setCell c k) (p := p.stageTaken) (by rw [hcell]; rfl)
      (.inr (by rw [hcell, hstep]; exact hsetup)), if_pos (by simp [Prep.stageTaken]),
    beginGolden_eq, hcell, hstep, setCell_sendBoth c _ k _ s fun role => by cases role <;> rfl]
  refine congrArg ((sendBoth c _ s).setCell c) ?_
  rw [Cell.staged, Cell.armStage_of_stage (by simp [hk, Cell.stageTaken, Cell.modPrep]), Cell.entered_of_ne (by exact hstate), seconds,
    Nat.mul_comm]
  rfl

/-- A report that ends its stage in a fault (R100 to R102), on the state `metBy` gives. -/
theorem enterDown_of_stage {c : CellIx} {cause : Cause} {s u : State} {k : Cell} {p : Prep}
    (hprofile : u.profile = s.profile) (htimer : u.timer = s.timer) (hruns : u.runs = s.runs)
    (hstate : k.state = .changeover ∨ k.state = .loading) (hprep : k.prep = some p) (hstage : p.stage ≠ .golden)
    (h : noWithdrawal k s) :
    enterDown c cause (u.setCell c k) = postNotice (faultNotice c k cause s) (u.setCell c (faulted k cause s)) := by
  have hcell : (u.setCell c k).cell c = k := setCell_cell ..
  have hp : (u.setCell c k).profile = s.profile := hprofile
  have ht : (u.setCell c k).timer = s.timer := htimer
  rw [enterDown_of_prep (by rw [hcell]; rcases hstate with h | h <;> simp [h])
    (by rw [hcell]; rcases hstate with h | h <;> simp [h]) (by rw [hcell]; exact hprep)
    (by rw [hcell]; exact noWithdrawal_congr rfl rfl hruns h), if_neg hstage, if_neg hstage, hcell,
    faultNotice_congr hp, faulted_congr hp ht, setCell_setCell]

/-! ## SETUP_DONE (R100) -/

theorem onSetupDone_recorded {kit : Byte} {temp : BitVec 16} {c : CellIx} {u : State} {k : Cell}
    (hk : k = { u.cell c with kit := some kit.toNat, temp := some (clampTemp temp.toInt) }) :
    onSetupDone kit temp c .handler u =
      if k.state = .changeover then
        if setupMatches k kit.toNat temp.toInt then stageDone c (u.setCell c k) else enterDown c .setup (u.setCell c k)
      else u.setCell c k := by
  subst hk
  rw [onSetupDone, State.modCell, setCell_cell]

theorem setupMatches_iff {k : Cell} {p : Prep} {kit : Nat} {temp : Int} (hprep : k.prep = some p) :
    setupMatches k kit temp = true ↔ p.orderedKit = some kit ∧ p.orderedTemp = some temp := by
  simp [setupMatches, hprep]

/-- Settles O42. -/
theorem setupDoneEndsTheChangeover : Obligations.SetupDoneEndsTheChangeover := by
  intro e kit temp c s
  refine ⟨fun h => exec_fromStation rfl h, fun h => ?_⟩
  intro u k
  have hexec : exec (.setupDone e kit temp) s = .next (onSetupDone kit temp c .handler u) := exec_fromStation rfl h
  have hrecorded := onSetupDone_recorded (kit := kit) (temp := temp) (c := c) (u := u) (k := k) rfl
  have hprofile : u.profile = s.profile := metBy_profile (.setupDone e kit temp) e c .handler s
  have htimer : u.timer = s.timer := metBy_timer (.setupDone e kit temp) e c .handler s
  have hcell : (u.setCell c k).cell c = k := setCell_cell ..
  rw [hexec, hrecorded]
  refine ⟨fun hstate => by rw [if_neg hstate], fun p hstate hprep hstage => ⟨?_, fun hdiffers hw => ?_⟩⟩
  · intro r htarget hpurpose hkit htemp hlow hhigh hdeadline st hstkit hstemp hprogram
    have hstep : stepOfRun (u.setCell c k) r = st := metBy_stepOfRun (.setupDone e kit temp) e c .handler s r
    have hclamp : k.temp = some temp.toInt := congrArg some ((clampTemp_eq_self_iff _).2 ⟨hlow, hhigh⟩)
    rw [if_pos hstate, if_pos ((setupMatches_iff hprep).2 ⟨hkit, htemp⟩),
      stageDone_loads (s := u.setCell c k) (by rw [hcell]; exact hprep) htarget hpurpose
        (by rw [hcell]; exact fun d hd => by rw [hdeadline d hd]; rfl) (by rw [hcell, hstate]; simp)
        (by rw [hcell, hstep]; simp [kitDiffers, k, hstkit]) (by rw [hcell, hstep, tempDiffers, hclamp, hstemp]; simp)
        (by rw [hcell, hstep]; exact hprogram), hstep, hcell, setCell_sendOrder _ _ _ _ _ _ (by rfl)]
    show Host.Outcome.next ((sendOrder c .tester (.load st.programId st.revision) u).setCell c { k with
      prep := _, lastLoad := _, deadline := some ⟨.load, u.timer + 1000 * u.profile.load⟩, state := _, cause := _
      since := u.timer, acc := k.accNow u.timer }) = _
    rw [hprofile, htimer]
  · rw [if_pos hstate, if_neg (fun hm => by
        obtain ⟨hkit, htemp⟩ := (setupMatches_iff hprep).1 hm
        exact hdiffers.elim (absurd hkit) (absurd htemp)),
      enterDown_of_stage hprofile htimer (metBy_runs (.setupDone e kit temp) e c .handler s) (.inl hstate) hprep
        (by rw [hstage]; simp) hw]

/-! ## LOAD_DONE and LOAD_FAIL (R101, R102) -/

/-- Settles O43. -/
theorem loadReportsEndTheLoading : Obligations.LoadReportsEndTheLoading := by
  intro e id rev sum c s
  refine ⟨fun h => exec_fromStation rfl h, fun h => exec_fromStation rfl h, fun h => ?_, fun h => ?_⟩
  · intro u hit loaded failed
    have hexec : exec (.loadDone e id rev sum) s = .next (onLoadDone ⟨id, rev, sum⟩ c .tester u) :=
      exec_fromStation rfl h
    have hprofile : u.profile = s.profile := metBy_profile (.loadDone e id rev sum) e c .tester s
    have htimer : u.timer = s.timer := metBy_timer (.loadDone e id rev sum) e c .tester s
    have hruns : u.runs = s.runs := metBy_runs (.loadDone e id rev sum) e c .tester s
    have hmatched (hh : hit) : onLoadDone ⟨id, rev, sum⟩ c .tester u =
        if loaded.state = .loading then stageDone c (u.setCell c loaded) else u.setCell c loaded := by
      have hok : ((u.cell c).lastLoad == some (⟨id, rev, sum⟩ : Program)) = true := by simpa using hh
      rw [onLoadDone, State.modCell, setCell_cell]
      simp only [hok, if_true]
      rfl
    have hmissed (hh : ¬ hit) : onLoadDone ⟨id, rev, sum⟩ c .tester u =
        if failed.state = .loading then enterDown c .load (u.setCell c failed) else u.setCell c failed := by
      have hok : ((u.cell c).lastLoad == some (⟨id, rev, sum⟩ : Program)) = false := by simpa using hh
      rw [onLoadDone, State.modCell, setCell_cell]
      simp only [hok]
      rfl
    have hcell : (u.setCell c loaded).cell c = loaded := setCell_cell ..
    rw [hexec]
    refine ⟨fun hh hstate => by rw [hmatched hh, if_neg hstate], fun hh hstate => by rw [hmissed hh, if_neg hstate],
      fun p hstate hprep hstage => ⟨fun r hh htarget hpurpose hdeadline => ?_, fun hh hw => ?_⟩⟩
    · intro st hkit htemp hid hrev
      have hstep : stepOfRun (u.setCell c loaded) r = st := metBy_stepOfRun (.loadDone e id rev sum) e c .tester s r
      have hsetup : setupCost loaded st = 0 := by
        have hprogram : loaded.program = some ⟨id, rev, sum⟩ := rfl
        simp [setupCost, kitDiffers, tempDiffers, programDiffers, hkit, htemp, hprogram, ← hid, ← hrev]
      rw [hmatched hh, if_pos hstate, stageDone_checks (s := u.setCell c loaded) (by rw [hcell]; exact hprep) htarget
        (by rw [hcell]; exact fun d hd => by rw [hdeadline d hd]; rfl) (by rw [hcell, hstate]; simp)
        (by rw [hcell, hstep]; exact hsetup), hstep, hcell,
        setCell_sendBoth _ _ _ _ _ fun role => by cases role <;> rfl]
      show Host.Outcome.next ((sendBoth c (.golden st.siteCount) u).setCell c { loaded with
        prep := _, deadline := some ⟨.golden, u.timer + 1000 * u.profile.golden⟩, state := _, cause := _
        since := u.timer, acc := loaded.accNow u.timer }) = _
      rw [hprofile, htimer]
    · rw [hmissed hh, if_pos (by exact hstate),
        enterDown_of_stage (k := failed) hprofile htimer hruns (.inr hstate) hprep (by rw [hstage]; simp) hw]
  · intro u failed
    have hexec : exec (.loadFail e id rev) s = .next (onLoadFail c .tester u) := exec_fromStation rfl h
    have hfailed : onLoadFail c .tester u =
        if failed.state = .loading then enterDown c .load (u.setCell c failed) else u.setCell c failed := by
      rw [onLoadFail, State.modCell, setCell_cell]
    rw [hexec, hfailed]
    refine ⟨fun hstate => by rw [if_neg hstate], fun p hstate hprep hstage hw => ?_⟩
    rw [if_pos hstate, enterDown_of_stage (metBy_profile (.loadFail e id rev) e c .tester s)
      (metBy_timer (.loadFail e id rev) e c .tester s) (metBy_runs (.loadFail e id rev) e c .tester s) (.inr hstate) hprep
      (by rw [hstage]; simp) hw]

end Sys2Proof.Machine
end

section
/-! PROOF. O45 and the touchdowns of O46: whose touchdown it is, and how its number is judged (R46 to R50). -/

set_option Elab.async false

namespace Sys2Proof.Machine

/-! ## Whose touchdown it is (R46) -/

/-- The started current run of a cell (R46). -/
def startedRun (c : CellIx) (s : State) : Option RunIx :=
  (s.cell c).current.filter fun r => (s.run r).state.started

theorem startedRun_of_none {c : CellIx} {s : State}
    (h : ∀ r ∈ (s.cell c).current, (s.run r).state = .free ∨ (s.run r).state = .assigned) : startedRun c s = none := by
  rw [startedRun]
  cases hcur : (s.cell c).current with
  | none => rfl
  | some r => rcases h r (by simp [hcur]) with h | h <;> simp [Option.filter, h, RunState.started]

theorem started_of_ne {st : RunState} (hfree : st ≠ .free) (hassigned : st ≠ .assigned) : st.started = true := by
  cases st <;> simp_all [RunState.started]

theorem startedRun_of_started {c : CellIx} {r : RunIx} {s : State} (hcur : (s.cell c).current = some r)
    (h : (s.run r).state.started = true) : startedRun c s = some r := by
  rw [startedRun, hcur, Option.filter_some, if_pos h]

/-- Where a touchdown goes, by the state of its cell and its started run (R46). -/
theorem takeTouchdown_eq (c : CellIx) (q : Seq) (es : List SiteEntry) (s : State) :
    takeTouchdown c q es s =
      if (s.cell c).state ∈ [CellState.offline, .lost, .quarantined] then s
      else match startedRun c s with
        | some r => runTouchdown c r q es s
        | none => if (s.cell c).state = .down then s else foreignStart c s := by
  rw [takeTouchdown, startedRun]
  cases (s.cell c).current with
  | none => cases (s.cell c).state <;> rfl
  | some r =>
    cases hstarted : (s.run r).state.started <;> cases (s.cell c).state <;> simp [Option.filter, hstarted]

theorem takeTouchdown_of_unheard {c : CellIx} {q : Seq} {es : List SiteEntry} {s : State}
    (h : (s.cell c).state ∈ [CellState.offline, .lost, .quarantined]) : takeTouchdown c q es s = s := by
  rw [takeTouchdown_eq, if_pos h]

theorem takeTouchdown_of_run {c : CellIx} {r : RunIx} {q : Seq} {es : List SiteEntry} {s : State}
    (hstate : (s.cell c).state ∉ [CellState.offline, .lost, .quarantined]) (hcur : (s.cell c).current = some r)
    (hstarted : (s.run r).state.started = true) : takeTouchdown c q es s = runTouchdown c r q es s := by
  rw [takeTouchdown_eq, if_neg hstate, startedRun_of_started hcur hstarted]

theorem takeTouchdown_of_down {c : CellIx} {q : Seq} {es : List SiteEntry} {s : State} (hstate : (s.cell c).state = .down)
    (h : ∀ r ∈ (s.cell c).current, (s.run r).state = .free ∨ (s.run r).state = .assigned) :
    takeTouchdown c q es s = s := by
  rw [takeTouchdown_eq, if_neg (by rw [hstate]; simp), startedRun_of_none h]
  exact if_pos hstate

/-- A foreign start (R47). -/
theorem takeTouchdown_of_foreign {c : CellIx} {q : Seq} {es : List SiteEntry} {s : State}
    (hstate : (s.cell c).state.operational = true)
    (h : ∀ r ∈ (s.cell c).current, (s.run r).state = .free ∨ (s.run r).state = .assigned) :
    takeTouchdown c q es s = foreignStart c s := by
  have hnot : (s.cell c).state ∉ [CellState.offline, .lost, .quarantined] := by
    revert hstate
    cases (s.cell c).state <;> simp [CellState.operational]
  rw [takeTouchdown_eq, if_neg hnot, startedRun_of_none h]
  exact if_neg (operational_ne hstate).1

/-! ## The number of a touchdown (R50) -/

theorem judgeSeq_eq (x q : Seq) : judgeSeq (some x) q =
    if (q.toNat + 65536 - x.toNat) % 65536 = 0 then .accepted
    else if (q.toNat + 65536 - x.toNat) % 65536 ≤ 32767 then .gap ((q.toNat + 65536 - x.toNat) % 65536)
    else .discarded := by
  have h : (q - x).toNat = (q.toNat + 65536 - x.toNat) % 65536 := by
    rw [BitVec.toNat_sub]
    have := x.isLt
    have := q.isLt
    congr 1
    omega
  rw [judgeSeq, h]

theorem runTouchdown_of_accepted {c : CellIx} {r : RunIx} {q : Seq} {es : List SiteEntry} {s : State}
    (h : judgeSeq (s.cell c).expected q = .accepted) : runTouchdown c r q es s = acceptTouchdown c r q es s := by
  rw [runTouchdown, h]

theorem runTouchdown_of_gap {c : CellIx} {r : RunIx} {q : Seq} {es : List SiteEntry} {s : State} {d : Nat}
    (h : judgeSeq (s.cell c).expected q = .gap d) : runTouchdown c r q es s =
      acceptTouchdown c r q es (raiseOnRun r .data (some d) (s.setCell c { s.cell c with expected := some (q + 1) })) := by
  rw [runTouchdown, h]
  rfl

theorem runTouchdown_of_discarded {c : CellIx} {r : RunIx} {q : Seq} {es : List SiteEntry} {s : State}
    (h : judgeSeq (s.cell c).expected q = .discarded) : runTouchdown c r q es s = s := by
  rw [runTouchdown, h]

theorem judgeSeq_of_inSequence {x : Option Seq} {q : Seq} (h : x = none ∨ x = some q) : judgeSeq x q = .accepted := by
  rcases h with rfl | rfl
  · rfl
  · rw [judgeSeq_eq, if_pos (by omega)]

theorem acceptTouchdown_eq (c : CellIx) (r : RunIx) (q : Seq) (es : List SiteEntry) (s : State) :
    acceptTouchdown c r q es s =
      if (s.run r).state = .ending then s.setCell c { s.cell c with expected := some (q + 1) }
      else countTouchdown c r q es (s.setCell c { s.cell c with expected := some (q + 1) }) := rfl

/-- An accepted touchdown moves the expectation one past it (R50). -/
theorem acceptTouchdown_expected (c : CellIx) (r : RunIx) (q : Seq) (es : List SiteEntry) (s : State) :
    ((acceptTouchdown c r q es s).cell c).expected = some (q + 1) := by
  have htaken : ((s.setCell c { s.cell c with expected := some (q + 1) }).cell c).expected = some (q + 1) := by
    rw [setCell_cell]
  rw [acceptTouchdown_eq]
  split
  · exact htaken
  · exact ((Acts.countTouchdown c r q es _).cells c).expected.trans htaken

/-- A touchdown of a tester of the index, in OPERATE. -/
theorem exec_touchdown {e : Envelope} {q : Seq} {es : List SiteEntry} {c : CellIx} {s : State}
    (h : fromStation (.touchdown e q es) e c .tester s) :
    exec (.touchdown e q es) s = .next (takeTouchdown c q es (metBy (.touchdown e q es) e c .tester s)) :=
  exec_fromStation rfl h

/-- A touchdown in sequence, or the first one, on a cell whose current run is started. -/
theorem exec_touchdown_accepted {e : Envelope} {q : Seq} {es : List SiteEntry} {c : CellIx} {r : RunIx} {s : State}
    (h : fromStation (.touchdown e q es) e c .tester s) :
    let u := metBy (.touchdown e q es) e c .tester s
    (u.cell c).state ∉ [CellState.offline, .lost, .quarantined] → (u.cell c).current = some r →
    (s.run r).state.started = true → ((u.cell c).expected = none ∨ (u.cell c).expected = some q) →
    exec (.touchdown e q es) s = .next (acceptTouchdown c r q es u) := by
  intro u hstate hcur hstarted hexpected
  have hrun : u.run r = s.run r := metBy_run (.touchdown e q es) e c .tester s r
  rw [exec_touchdown h, takeTouchdown_of_run hstate hcur (by rw [hrun]; exact hstarted),
    runTouchdown_of_accepted (judgeSeq_of_inSequence hexpected)]

/-- Settles O45. -/
theorem touchdownNumbersAreJudged : Obligations.TouchdownNumbersAreJudged := by
  intro e q es c r s i h u k hstate hcur hfree hassigned accepted
  have hrun : u.run r = s.run r := metBy_run (.touchdown e q es) e c .tester s r
  have hexec : exec i s = .next (runTouchdown c r q es u) := by
    rw [exec_touchdown h, takeTouchdown_of_run hstate hcur (by rw [hrun]; exact started_of_ne hfree hassigned)]
  have hnext : BitVec.ofNat 16 ((q.toNat + 1) % 65536) = q + 1 := by
    refine BitVec.eq_of_toNat_eq ?_
    rw [BitVec.toNat_ofNat, BitVec.toNat_add]
    simp
  have haccepted {v : State} (hv : exec i s = .next (acceptTouchdown c r q es v)) : accepted v :=
    ⟨hv, by rw [acceptTouchdown_expected, hnext]⟩
  refine ⟨fun hx => haccepted ?_, fun x hx => ?_⟩
  · rw [hexec, runTouchdown_of_accepted (judgeSeq_of_inSequence (.inl hx))]
  · intro d
    have hjudged := judgeSeq_eq x q
    rw [← hx] at hjudged
    refine ⟨fun hd => haccepted ?_, fun hlow hhigh => haccepted ?_, fun hd => ?_, fun hlow hhigh => ?_⟩
    · rw [hexec, runTouchdown_of_accepted (hjudged.trans (if_pos hd))]
    · rw [hexec, runTouchdown_of_gap (hjudged.trans ((if_neg (Nat.ne_of_gt hlow)).trans (if_pos hhigh)))]
    · rw [hexec, runTouchdown_of_discarded
        (hjudged.trans ((if_neg (show d ≠ 0 by omega)).trans (if_neg (show ¬ d ≤ 32767 by omega))))]
    · rw [hexec, runTouchdown_of_discarded
        (hjudged.trans ((if_neg (show d ≠ 0 by omega)).trans (if_neg (show ¬ d ≤ 32767 by omega))))]

end Sys2Proof.Machine
end

section
/-! PROOF. O46: foreign starts, late touchdowns, and the units of a touchdown (R46 to R48, R53). -/

set_option Elab.async false

namespace Sys2Proof.Machine

/-! ## The units of a touchdown (R53) -/

/-- An entry that names a tested unit, where `named` sites have been named before (R53). -/
def namesUnit (count : Nat) (enabled named : SiteMask) (e : SiteEntry) : Bool :=
  decide (e.site.toNat < count) && enabled.getLsbD e.site.toNat && e.bin.toNat != 0 && !named.getLsbD e.site.toNat

theorem getLsbD_named {named : SiteMask} (a b : BitVec 4) :
    (named ||| BitVec.ofNat 16 (2 ^ a.toNat)).getLsbD b.toNat = (named.getLsbD b.toNat || a == b) := by
  have hb := b.isLt
  rw [BitVec.getLsbD_or, BitVec.getLsbD_ofNat, Nat.testBit_two_pow, decide_eq_true (show b.toNat < 16 from hb),
    Bool.true_and]
  congr 1
  rw [Bool.eq_iff_iff, decide_eq_true_iff, beq_iff_eq, BitVec.toNat_inj]

theorem testedUnits_map (count : Nat) (enabled named : SiteMask) (es : List SiteEntry) :
    ((testedUnits count enabled named es).map fun u => (u.site.val, u.bin.val + 1)) =
      (es.zipIdx.filter fun p => namesUnit count enabled named p.1 && (es.take p.2).all fun a => a.site != p.1.site).map
        fun p => (p.1.site.toNat, p.1.bin.toNat) := by
  induction es generalizing named with
  | nil => rfl
  | cons e es ih =>
    have htail (p : SiteEntry × Nat) :
        (namesUnit count enabled named p.1 && ((e :: es).take (p.2 + 1)).all fun a => a.site != p.1.site) =
          (namesUnit count enabled (named ||| BitVec.ofNat 16 (2 ^ e.site.toNat)) p.1
            && (es.take p.2).all fun a => a.site != p.1.site) := by
      rw [List.take_succ_cons, List.all_cons, namesUnit, namesUnit, getLsbD_named]
      cases named.getLsbD p.1.site.toNat <;> simp [bne, Bool.and_assoc]
    have hrest : ((e :: es).zipIdx.filter fun p =>
        namesUnit count enabled named p.1 && ((e :: es).take p.2).all fun a => a.site != p.1.site).map
          (fun p => (p.1.site.toNat, p.1.bin.toNat)) =
        (if namesUnit count enabled named e then [(e.site.toNat, e.bin.toNat)] else []) ++
          (testedUnits count enabled (named ||| BitVec.ofNat 16 (2 ^ e.site.toNat)) es).map
            (fun u => (u.site.val, u.bin.val + 1)) := by
      have hshift : es.zipIdx (0 + 1) = es.zipIdx.map fun p => (p.1, p.2 + 1) := List.zipIdx_succ ..
      have hnamed : (namesUnit count enabled named e && (List.take 0 (e :: es)).all fun a => a.site != e.site) =
          namesUnit count enabled named e := by simp
      rw [ih, List.zipIdx_cons, List.filter_cons, hshift, List.filter_map, Function.comp_def,
        List.filter_congr fun p _ => htail p, hnamed]
      split
      · rw [List.map_cons, List.map_map]
        rfl
      · rw [List.map_map]
        rfl
    have hstep : (testedUnits count enabled named (e :: es)).map (fun u => (u.site.val, u.bin.val + 1)) =
        (if namesUnit count enabled named e then [(e.site.toNat, e.bin.toNat)] else []) ++
          (testedUnits count enabled (named ||| BitVec.ofNat 16 (2 ^ e.site.toNat)) es).map
            (fun u => (u.site.val, u.bin.val + 1)) := by
      rw [testedUnits, namesUnit]
      split
      case isTrue hout =>
        rw [if_neg]
        · rfl
        · simp only [Bool.and_eq_true, decide_eq_true_iff, Bool.not_eq_true']
          rintro ⟨⟨⟨hcount, hon⟩, -⟩, hnew⟩
          rcases hout with h | h | h
          · omega
          · simp [h] at hon
          · simp [h] at hnew
      case isFalse hin =>
        simp only [not_or, Bool.not_eq_false, Bool.not_eq_true] at hin
        obtain ⟨hcount, hon, hnew⟩ := hin
        split
        case isTrue hbin =>
          rw [if_neg (by simp [hbin])]
          rfl
        case isFalse hbin =>
          rw [if_pos (by simp [hon, hnew, hbin]; omega), List.map_cons]
          refine congrArg (fun n => (e.site.toNat, n) :: _) ?_
          show e.bin.toNat - 1 + 1 = e.bin.toNat
          omega
    rw [hstep, hrest]

/-! ## Foreign starts (R47, R85) -/

/-- The cell a foreign start quarantines (R47, R85). -/
def Cell.foreign (k : Cell) (now : Nat) : Cell :=
  { k with expected := none }.marked now .quarantined (some .foreign)

theorem foreignStart_eq {c : CellIx} {s : State} (hstate : (s.cell c).state ≠ .quarantined) :
    foreignStart c s = postNotice (.cellChanged c .quarantined (some .foreign))
      (interrupt c false (s.setCell c ((s.cell c).foreign s.timer))) := by
  have hcell : (s.setCell c { s.cell c with expected := none }).cell c = { s.cell c with expected := none } :=
    setCell_cell ..
  rw [foreignStart, State.modCell, enterQuarantined, enterMarked_eq (by rw [hcell]; exact hstate), hcell, setCell_setCell]
  rfl

/-- A foreign start on a cell with no run and no preparation (R47). -/
theorem foreignStart_of_bare {c : CellIx} {s : State} (hstate : (s.cell c).state ≠ .quarantined)
    (hcur : (s.cell c).current = none) (hreserved : (s.cell c).reserved = none) (hprep : (s.cell c).prep = none) :
    foreignStart c s = postNotice (.cellChanged c .quarantined (some .foreign))
      (s.setCell c ((s.cell c).foreign s.timer).invalid) := by
  set u := s.setCell c { s.cell c with expected := none } with hu
  have hcell : u.cell c = { s.cell c with expected := none } := setCell_cell ..
  have hports : cutPorts c { s.cell c with expected := none } u = u := by simp [cutPorts, hprep]
  have hw : noWithdrawal (u.cell c) u := by
    rw [hcell]
    exact ⟨hreserved, fun r hr => absurd hr (by simp [hcur])⟩
  have hcut : (Cell.marked { s.cell c with expected := none } u.timer .quarantined (some .foreign)).cut u =
      ((s.cell c).foreign s.timer).invalid := by
    show ((s.cell c).foreign s.timer).cut u = _
    rw [Cell.cut, show ((s.cell c).foreign s.timer).prep = none from hprep]
  show enterQuarantined c .foreign false u = _
  rw [enterQuarantined_eq (by rw [hcell]; exact hstate) hw, hcell, hports, hcut, hu, setCell_setCell]

/-- A foreign start in the middle of a preparation of an ASSIGNED run (R47, R80, R112, R123). -/
theorem foreignStart_withdraws {c : CellIx} {l : LotSlot} {p : RunPlace} {r : RunIx} {j : Prep} {s : State}
    (hstate : (s.cell c).state ≠ .quarantined) (hprep : (s.cell c).prep = some j) (hcur : (s.cell c).current = some r)
    (hreserved : (s.cell c).reserved = none) (hstack : r ∉ (s.cell c).stack) (honly : onlyRun l p r s)
    (hcell : (s.run r).cell = c) (hrun : (s.run r).state = .assigned)
    (hlot : (s.lot l).state = .waiting ∨ (s.lot l).state = .running) (hfree : (s.lot l).lotBlocked = false)
    (hout : l ∉ s.queue) (hage : notAging (s.lot l) s) (hno : noCellFor (stepOf s (s.lot l)) s)
    (hhot : noCandidateFor (s.lot l).cls (s.lot l).preempt (stepOf s (s.lot l)) s) :
    foreignStart c s =
      (postNotice (.cellChanged c .quarantined (some .foreign))
        (if j.stage = .golden then postNotice (.goldenDone c 0 (s.cell c).enabled .aborted) s else s)).work
        (vset s.lots l ((s.lot l).returned p)) (vset s.runs r .free)
        (vset s.cells c { ((s.cell c).foreign s.timer).invalid with
          prep := none, deadline := deadlineLeft (s.cell c) s, current := none
          golden := if j.stage = .golden then ⟨0, .aborted, s.floorClock⟩ else (s.cell c).golden })
        (placeIn (s.setLot l ((s.lot l).returned p)) l s.queue) s.seqCounter := by
  set k := (s.cell c).foreign s.timer with hk
  set v := s.setCell c k with hv
  have hvcell : v.cell c = k := setCell_cell ..
  have hkstate : k.state = .quarantined := rfl
  have hcells (d : CellIx) (hd : d ≠ c) : v.cell d = s.cell d := setCell_cell_ne _ _ (Ne.symm hd)
  have hports : cutPorts c k v = (if j.stage = .golden then postNotice (.goldenDone c 0 (s.cell c).enabled .aborted) s
      else s).setCell c k := by
    rw [cutPorts, show k.prep = some j from hprep]
    simp only [Option.map_some, Option.some.injEq]
    split
    · rw [hv, postNotice_setCell]
      rfl
    · rfl
  have hcut : k.cut v = { k.invalid with
      prep := none, deadline := deadlineLeft (s.cell c) s
      golden := if j.stage = .golden then ⟨0, .aborted, s.floorClock⟩ else (s.cell c).golden } := by
    rw [Cell.cut, show k.prep = some j from hprep]
    by_cases hstage : j.stage = .golden
    · simp only [hstage, if_true]
      rfl
    · simp only [hstage, if_false]
      rfl
  have hplace : placeIn (v.setLot l ((v.lot l).returned p)) l v.queue =
      placeIn (s.setLot l ((s.lot l).returned p)) l s.queue := placeIn_congr l _ (fun _ => rfl) fun _ => rfl
  rw [foreignStart_eq hstate, ← hk, ← hv,
    interrupt_withdraws (l := l) (p := p) (r := r) (by rw [hvcell]; exact hcur) (by rw [hvcell]; exact hreserved)
      (by rw [hvcell]; exact hstack) (by rw [hvcell, hkstate]; simp) (by rw [hvcell, hkstate]; simp) (by exact honly)
      (by exact hcell) (by exact hrun) (by exact hlot) (by exact hfree) (by exact hout) (by exact hage)
      (noCellFor_of_except (s := s) hcells (by rw [hvcell, hkstate]; simp) hno)
      (noCandidateFor_of_except (s := s) hcells (by rw [hvcell, hkstate]; simp) (fun _ => .inl rfl) (fun _ => rfl) hhot),
    hvcell, hports, hcut, hplace, postNotice_work, postNotice_setCell, setCell_work, work_work, hv, setCell_work]
  simp only [work_lots, work_runs, work_cells, work_seqCounter, vset_vset, work_lot]
  rfl

/-- A foreign start of a touchdown on a cell in preparation for an ASSIGNED run. -/
theorem exec_touchdown_withdraws {e : Envelope} {q : Seq} {es : List SiteEntry} {c : CellIx} {l : LotSlot} {p : RunPlace}
    {r : RunIx} {j : Prep} {s : State} (h : fromStation (.touchdown e q es) e c .tester s) :
    let u := metBy (.touchdown e q es) e c .tester s
    let k := u.cell c
    k.state ∈ [CellState.changeover, .loading, .golden] → k.prep = some j → k.current = some r → k.reserved = none →
    r ∉ k.stack → onlyRun l p r s → (s.run r).cell = c → (s.run r).state = .assigned →
    ((s.lot l).state = .waiting ∨ (s.lot l).state = .running) → (s.lot l).lotBlocked = false → l ∉ s.queue →
    notAging (s.lot l) s → noCellFor (stepOf s (s.lot l)) s →
    noCandidateFor (s.lot l).cls (s.lot l).preempt (stepOf s (s.lot l)) s →
    exec (.touchdown e q es) s = .next
      ((postNotice (.cellChanged c .quarantined (some .foreign))
        (if j.stage = .golden then postNotice (.goldenDone c 0 k.enabled .aborted) u else u)).work
        (vset s.lots l ((s.lot l).returned p)) (vset s.runs r .free)
        (vset u.cells c { (k.foreign s.timer).invalid with
          prep := none, deadline := deadlineLeft k s, current := none
          golden := if j.stage = .golden then ⟨0, .aborted, s.floorClock⟩ else k.golden })
        (placeIn (s.setLot l ((s.lot l).returned p)) l s.queue) s.seqCounter) := by
  intro u k hstate hprep hcur hreserved hstack honly hcell hrun hlot hfree hout hage hno hhot
  have hulot : u.lot l = s.lot l := metBy_lot (.touchdown e q es) e c .tester s l
  have hurun : u.run r = s.run r := metBy_run (.touchdown e q es) e c .tester s r
  have hustep : stepOf u (s.lot l) = stepOf s (s.lot l) := metBy_stepOf (.touchdown e q es) e c .tester s _
  have hprofile : u.profile = s.profile := metBy_profile (.touchdown e q es) e c .tester s
  have htimer : u.timer = s.timer := metBy_timer (.touchdown e q es) e c .tester s
  have hfloor : u.floorClock = s.floorClock := metBy_floorClock (.touchdown e q es) e c .tester s
  have hlots : u.lots = s.lots := metBy_lots (.touchdown e q es) e c .tester s
  have hruns : u.runs = s.runs := metBy_runs (.touchdown e q es) e c .tester s
  have hqueue : u.queue = s.queue := metBy_queue (.touchdown e q es) e c .tester s
  have hseq : u.seqCounter = s.seqCounter := metBy_seqCounter (.touchdown e q es) e c .tester s
  have hcells (d : CellIx) (hd : d ≠ c) : u.cell d = s.cell d :=
    metBy_cell_ne (.touchdown e q es) e c .tester s (Ne.symm hd)
  have hworking : k.state.operational = true ∧ k.state ≠ .idle ∧ k.state ≠ .running := by
    revert hstate
    cases k.state <;> simp [CellState.operational]
  obtain ⟨hop, hidle, hrunning⟩ := hworking
  have hunstarted (q : RunIx) (hq : q ∈ k.current) : (u.run q).state = .free ∨ (u.run q).state = .assigned := by
    obtain rfl : r = q := Option.some.inj (hcur.symm.trans hq)
    rw [hurun]
    exact .inr hrun
  have hplaced (m : LotSlot) : (u.setLot l ((s.lot l).returned p)).lot m = (s.setLot l ((s.lot l).returned p)).lot m :=
    congrArg (fun lots : Vector Lot 256 => (vset lots l ((s.lot l).returned p))[m]) hlots
  have hplaces : placeIn (u.setLot l ((s.lot l).returned p)) l s.queue =
      placeIn (s.setLot l ((s.lot l).returned p)) l s.queue :=
    placeIn_congr l _ (fun m => congrArg Lot.cls (hplaced m)) fun m => congrArg Lot.queueSeq (hplaced m)
  have hleft : deadlineLeft k u = deadlineLeft k s := by rw [deadlineLeft, deadlineLeft, htimer]
  rw [exec_touchdown h, takeTouchdown_of_foreign hop hunstarted,
    foreignStart_withdraws (l := l) (p := p) (r := r) (j := j) (operational_ne hop).2 hprep hcur hreserved hstack
      (by rw [onlyRun, hulot, hurun]; exact honly) (by rw [hurun]; exact hcell) (by rw [hurun]; exact hrun)
      (by rw [hulot]; exact hlot) (by rw [hulot]; exact hfree) (by rw [hqueue]; exact hout)
      (by rw [hulot, notAging, hprofile, htimer]; exact hage)
      (by
        rw [hulot, hustep]
        exact noCellFor_of_except hcells hidle hno)
      (by
        rw [hulot, hustep]
        exact noCandidateFor_of_except hcells hrunning
          (fun q' => .inl (metBy_run (.touchdown e q es) e c .tester s q'))
          (fun m => congrArg Lot.cls (metBy_lot (.touchdown e q es) e c .tester s m)) hhot),
    hulot, hlots, hruns, hqueue, hseq, htimer, hfloor, hplaces, hleft]

/-- A foreign start of a touchdown on a cell with nothing on it (R47). -/
theorem exec_touchdown_bare {e : Envelope} {q : Seq} {es : List SiteEntry} {c : CellIx} {s : State}
    (h : fromStation (.touchdown e q es) e c .tester s) :
    let u := metBy (.touchdown e q es) e c .tester s
    let k := u.cell c
    k.state.operational = true → k.current = none → k.reserved = none → k.prep = none →
    exec (.touchdown e q es) s = .next (postNotice (.cellChanged c .quarantined (some .foreign))
      (u.setCell c (k.foreign s.timer).invalid)) := by
  intro u k hop hcur hreserved hprep
  have htimer : u.timer = s.timer := metBy_timer (.touchdown e q es) e c .tester s
  have hunstarted (r : RunIx) (hr : r ∈ k.current) : (u.run r).state = .free ∨ (u.run r).state = .assigned :=
    absurd hr (by simp [hcur])
  rw [exec_touchdown h, takeTouchdown_of_foreign hop hunstarted,
    foreignStart_of_bare (operational_ne hop).2 hcur hreserved hprep, htimer]

/-- A late touchdown in sequence (R48). -/
theorem exec_touchdown_late {e : Envelope} {q : Seq} {es : List SiteEntry} {c : CellIx} {r : RunIx} {s : State}
    (h : fromStation (.touchdown e q es) e c .tester s) :
    let u := metBy (.touchdown e q es) e c .tester s
    let k := u.cell c
    k.state ∉ [CellState.offline, .lost, .quarantined] → k.current = some r → (s.run r).state = .ending →
    (k.expected = none ∨ k.expected = some q) →
    exec (.touchdown e q es) s = .next (u.setCell c { k with expected := some (q + 1) }) := by
  intro u k hstate hcur hending hq
  have hrun : u.run r = s.run r := metBy_run (.touchdown e q es) e c .tester s r
  have hlate : (u.run r).state = .ending := by rw [hrun]; exact hending
  have hstarted : (s.run r).state.started = true := by rw [hending]; rfl
  rw [exec_touchdown_accepted h hstate hcur hstarted hq, acceptTouchdown_eq, if_pos hlate]

/-- Settles O46. -/
theorem touchdownsAreSorted : Obligations.TouchdownsAreSorted := by
  refine ⟨fun e q es c s => ?_, fun count enabled es => ?_, fun e q es c l p r j s => ?_⟩
  · intro i
    refine ⟨fun h => exec_fromStation rfl h, fun h => ?_⟩
    intro u k unstarted
    have hrun (r : RunIx) : u.run r = s.run r := metBy_run (.touchdown e q es) e c .tester s r
    refine ⟨fun hstate => ?_, fun hstate hun => ?_, exec_touchdown_bare h, fun r => exec_touchdown_late h⟩
    · rw [exec_touchdown h, takeTouchdown_of_unheard hstate]
    · rw [exec_touchdown h, takeTouchdown_of_down hstate fun r hr => by rw [hrun]; exact hun r hr]
  · rw [testedUnits_map]
    simp [namesUnit]
  · intro i h u k x checked v y hstate hprep hcur hreserved hstack honly hcell hrun hlot hfree hout hage hno hhot
    have hseq : (postNotice (.cellChanged c .quarantined (some .foreign)) v).seqCounter = s.seqCounter := by
      simp only [v]
      split <;> simp [u]
    rw [exec_touchdown_withdraws h hstate hprep hcur hreserved hstack honly hcell hrun hlot hfree hout hage hno hhot]
    show _ = Host.Outcome.next (State.work _ _ _ _ _ _)
    rw [hseq]
    rfl

end Sys2Proof.Machine
end

section
/-! SUPPORT and PROOF. What the units of a touchdown add to the figures of a run and a lot (R55 to R57, O47), and how the
tray ledger stays in balance (R144, R146, O52). -/

set_option Elab.async false

namespace Sys2Proof.Machine

/-! ## Counters that stop at their maximum (R57) -/

/-- A counter that units with a property raise by one each, up to its maximum. -/
theorem foldl_saturates {β : Type} (top : Nat) (p : β → Bool) (us : List β) {n : Nat} (h : n ≤ top) :
    us.foldl (fun n u => if p u then satAdd top n 1 else n) n = min top (n + us.countP p) := by
  induction us generalizing n with
  | nil => exact (Nat.min_eq_right h).symm
  | cons u us ih =>
    rw [List.foldl_cons, List.countP_cons]
    cases hp : p u with
    | true =>
      rw [if_pos rfl, ih (n := satAdd top n 1) (Nat.min_le_left _ _), satAdd]
      simp only [if_true]
      omega
    | false =>
      rw [if_neg (by simp), ih h]
      simp

theorem foldl_saturates_all {β : Type} (top : Nat) (us : List β) {n : Nat} (h : n ≤ top) :
    us.foldl (fun n _ => satAdd top n 1) n = min top (n + us.length) := by
  have := foldl_saturates top (fun _ => true) us h
  rwa [List.countP_true] at this

/-- A counter of a vector whose places units raise by one each. -/
theorem foldl_vmod {β : Type} {n : Nat} (top : Nat) (at_ : β → Fin n) (us : List β) {v : Vector Nat n} (i : Fin n)
    (h : v[i] ≤ top) :
    (us.foldl (fun v u => vmod v (at_ u) fun m => satAdd top m 1) v)[i] =
      min top (v[i] + us.countP fun u => at_ u == i) := by
  rw [← foldl_saturates top (fun u => at_ u == i) us h]
  refine (List.foldl_hom (fun v : Vector Nat n => v[i]) fun w u => ?_).symm
  by_cases hu : at_ u = i
  · subst hu
    rw [if_pos (beq_self_eq_true _)]
    exact (vset_get_same ..).symm
  · rw [vmod, vset_get_ne _ _ hu]
    simp [hu]

/-! ## First-pass counts (R55) -/

/-- Only these of a run's figures does a first-pass unit change. -/
theorem foldl_countFirst (st : Step) (us : List TestedUnit) (x : Run) :
    us.foldl (Run.countFirst st) x = { x with
      tested := (us.foldl (Run.countFirst st) x).tested
      good := (us.foldl (Run.countFirst st) x).good
      sites := (us.foldl (Run.countFirst st) x).sites
      ledger := (us.foldl (Run.countFirst st) x).ledger } :=
  foldl_keeps (p := fun y : Run => y = { x with tested := y.tested, good := y.good, sites := y.sites, ledger := y.ledger }) _
    (fun y _ hy => by
      rw [hy]
      rfl) us rfl

theorem foldl_countFirst_tested (st : Step) (us : List TestedUnit) {x : Run} (h : x.tested ≤ Config.max24) :
    (us.foldl (Run.countFirst st) x).tested = min Config.max24 (x.tested + us.length) := by
  rw [← foldl_saturates_all Config.max24 us h]
  exact (List.foldl_hom Run.tested fun _ _ => rfl).symm

theorem foldl_countFirst_good (st : Step) (us : List TestedUnit) {x : Run} (h : x.good ≤ Config.max24) :
    (us.foldl (Run.countFirst st) x).good = min Config.max24 (x.good + us.countP fun u => st.goodBin u.bin) := by
  rw [← foldl_saturates Config.max24 _ us h]
  exact (List.foldl_hom Run.good fun _ _ => rfl).symm

theorem foldl_countFirst_ledger (st : Step) (us : List TestedUnit) {x : Run} (t : Fin 8)
    (h : x.ledger[t] ≤ Config.max24) :
    (us.foldl (Run.countFirst st) x).ledger[t] =
      min Config.max24 (x.ledger[t] + us.countP fun u => st.trayOf u.bin == t) := by
  rw [← foldl_vmod Config.max24 (fun u => st.trayOf u.bin) us t h]
  exact congrArg (fun v : Vector Nat 8 => v[t]) (List.foldl_hom Run.ledger fun _ _ => rfl).symm

/-- A site's figures after the units of a touchdown. -/
theorem foldl_countFirst_site (st : Step) (us : List TestedUnit) (x : Run) (a : Fin 16) :
    (us.foldl (Run.countFirst st) x).sites[a] =
      us.foldl (fun f u => if u.site == a then f.counted (st.goodBin u.bin) else f) x.sites[a] := by
  refine (List.foldl_hom (fun x : Run => x.sites[a]) fun y u => ?_).symm
  by_cases hu : u.site = a
  · subst hu
    rw [if_pos (beq_self_eq_true _)]
    exact (vset_get_same ..).symm
  · show _ = (vset y.sites u.site _)[a]
    rw [vset_get_ne _ _ hu]
    simp [hu]

theorem foldl_site_tested (st : Step) (us : List TestedUnit) {f : SiteFigures} (a : Fin 16) (h : f.tested ≤ Config.max24) :
    (us.foldl (fun f u => if u.site == a then f.counted (st.goodBin u.bin) else f) f).tested =
      min Config.max24 (f.tested + us.countP fun u => u.site == a) := by
  rw [← foldl_saturates Config.max24 _ us h]
  refine (List.foldl_hom SiteFigures.tested fun g u => ?_).symm
  cases u.site == a <;> rfl

theorem foldl_site_fail (st : Step) (us : List TestedUnit) {f : SiteFigures} (a : Fin 16) (h : f.fail ≤ Config.max24) :
    (us.foldl (fun f u => if u.site == a then f.counted (st.goodBin u.bin) else f) f).fail =
      min Config.max24 (f.fail + us.countP fun u => u.site == a && !st.goodBin u.bin) := by
  rw [← foldl_saturates Config.max24 _ us h]
  refine (List.foldl_hom SiteFigures.fail fun g u => ?_).symm
  cases hs : u.site == a <;> cases hg : st.goodBin u.bin <;> simp [SiteFigures.counted, sat24]

/-- The streak of a site that a touchdown tests at most once (R53, R55). -/
theorem foldl_site_streak (st : Step) {us : List TestedUnit} (hus : (us.map (·.site)).Nodup) {f : SiteFigures} (a : Fin 16)
    (h : f.streak ≤ 255) :
    (us.foldl (fun f u => if u.site == a then f.counted (st.goodBin u.bin) else f) f).streak =
      if ∃ v ∈ us, v.site = a ∧ st.goodBin v.bin = true then 0
      else min 255 (f.streak + us.countP fun u => u.site == a) := by
  induction us generalizing f with
  | nil => simp [h]
  | cons u us ih =>
    rw [List.map_cons, List.nodup_cons] at hus
    obtain ⟨hnot, hus⟩ := hus
    rw [List.foldl_cons]
    by_cases hu : u.site = a
    · have hout (v : TestedUnit) (hv : v ∈ us) : v.site ≠ a := fun hva =>
        hnot (List.mem_map.2 ⟨v, hv, hva.trans hu.symm⟩)
      have hcount : us.countP (fun u => u.site == a) = 0 := List.countP_eq_zero.2 fun v hv => by simp [hout v hv]
      have hcounted : (f.counted (st.goodBin u.bin)).streak ≤ 255 := by
        rw [SiteFigures.counted]
        dsimp only
        split
        · exact Nat.zero_le _
        · exact Nat.min_le_left _ _
      rw [if_pos (by simp [hu]), ih hus hcounted, List.countP_cons, hcount, if_neg (fun ⟨v, hv, hva, _⟩ => hout v hv hva)]
      cases hg : st.goodBin u.bin with
      | true => simp [hu, hg, SiteFigures.counted]
      | false =>
        rw [if_neg]
        · simp [hu, SiteFigures.counted, satAdd]
        · rintro ⟨v, hv, hva, hgood⟩
          rcases List.mem_cons.1 hv with rfl | hv
          · simp [hg] at hgood
          · exact hout v hv hva
    · rw [if_neg (by simp [hu]), ih hus h, List.countP_cons]
      simp [hu]

/-- Only these of a lot's figures does a first-pass unit change. -/
theorem foldl_countFigures (st : Step) (us : List TestedUnit) (f : StepFigures) :
    us.foldl (StepFigures.countFirst st) f = { f with
      tested := (us.foldl (StepFigures.countFirst st) f).tested
      good := (us.foldl (StepFigures.countFirst st) f).good
      bins := (us.foldl (StepFigures.countFirst st) f).bins } :=
  foldl_keeps (p := fun g : StepFigures => g = { f with tested := g.tested, good := g.good, bins := g.bins }) _
    (fun g _ hg => by
      rw [hg]
      rfl) us rfl

theorem foldl_countFigures_tested (st : Step) (us : List TestedUnit) {f : StepFigures} (h : f.tested ≤ Config.max24) :
    (us.foldl (StepFigures.countFirst st) f).tested = min Config.max24 (f.tested + us.length) := by
  rw [← foldl_saturates_all Config.max24 us h]
  exact (List.foldl_hom StepFigures.tested fun _ _ => rfl).symm

theorem foldl_countFigures_good (st : Step) (us : List TestedUnit) {f : StepFigures} (h : f.good ≤ Config.max24) :
    (us.foldl (StepFigures.countFirst st) f).good = min Config.max24 (f.good + us.countP fun u => st.goodBin u.bin) := by
  rw [← foldl_saturates Config.max24 _ us h]
  exact (List.foldl_hom StepFigures.good fun _ _ => rfl).symm

theorem foldl_countFigures_bins (st : Step) (us : List TestedUnit) {f : StepFigures} (b : Fin 15)
    (h : f.bins[b] ≤ Config.max24) :
    (us.foldl (StepFigures.countFirst st) f).bins[b] = min Config.max24 (f.bins[b] + us.countP fun u => u.bin == b) := by
  rw [← foldl_vmod Config.max24 TestedUnit.bin us b h]
  exact congrArg (fun v : Vector Nat 15 => v[b]) (List.foldl_hom StepFigures.bins fun _ _ => rfl).symm

/-! ## Retest counts (R56) -/

/-- Only these of a run's figures does a retest unit change, outstanding, surplus and recovered as R56 says. -/
theorem foldl_countRetest (st : Step) (us : List TestedUnit) {x : Run} (hsurplus : x.surplus ≤ Config.max24)
    (hrecovered : x.recovered ≤ Config.max24) :
    us.foldl (Run.countRetest st) x = { x with
      ledger := (us.foldl (Run.countRetest st) x).ledger
      outstanding := x.outstanding - us.length
      surplus := min Config.max24 (x.surplus + (us.length - x.outstanding))
      recovered := min Config.max24 (x.recovered + us.countP fun u => st.goodBin u.bin) } := by
  induction us generalizing x with
  | nil =>
    simp only [List.foldl_nil, List.length_nil, List.countP_nil, Nat.zero_sub, Nat.add_zero, Nat.sub_zero,
      Nat.min_eq_right hsurplus, Nat.min_eq_right hrecovered]
  | cons u us ih =>
    have hs : (x.countRetest st u).surplus ≤ Config.max24 := by
      show (if x.outstanding = 0 then sat24 x.surplus 1 else x.surplus) ≤ _
      split
      · exact Nat.min_le_left _ _
      · exact hsurplus
    have hr : (x.countRetest st u).recovered ≤ Config.max24 := by
      show (if st.goodBin u.bin then sat24 x.recovered 1 else x.recovered) ≤ _
      split
      · exact Nat.min_le_left _ _
      · exact hrecovered
    have houtstanding : (x.countRetest st u).outstanding - us.length = x.outstanding - (u :: us).length := by
      show x.outstanding - 1 - us.length = _
      rw [List.length_cons]
      omega
    have hsurplus' : min Config.max24 ((x.countRetest st u).surplus + (us.length - (x.countRetest st u).outstanding)) =
        min Config.max24 (x.surplus + ((u :: us).length - x.outstanding)) := by
      show min Config.max24 ((if x.outstanding = 0 then sat24 x.surplus 1 else x.surplus)
        + (us.length - (x.outstanding - 1))) = _
      rw [List.length_cons, sat24, satAdd]
      split <;> omega
    have hrecovered' : min Config.max24 ((x.countRetest st u).recovered + us.countP fun u => st.goodBin u.bin) =
        min Config.max24 (x.recovered + (u :: us).countP fun u => st.goodBin u.bin) := by
      show min Config.max24 ((if st.goodBin u.bin then sat24 x.recovered 1 else x.recovered) + _) = _
      rw [List.countP_cons, sat24, satAdd]
      cases st.goodBin u.bin with
      | true =>
        simp only [if_true]
        omega
      | false => simp
    rw [List.foldl_cons, ih hs hr, houtstanding, hsurplus', hrecovered']
    rfl

theorem foldl_countRetest_ledger (st : Step) (us : List TestedUnit) {x : Run} (t : Fin 8)
    (h : x.ledger[t] ≤ Config.max24) :
    (us.foldl (Run.countRetest st) x).ledger[t] =
      min Config.max24 (x.ledger[t] + us.countP fun u => st.trayOf u.bin == t) := by
  rw [← foldl_vmod Config.max24 (fun u => st.trayOf u.bin) us t h]
  exact congrArg (fun v : Vector Nat 8 => v[t]) (List.foldl_hom Run.ledger fun _ _ => rfl).symm

/-! ## A touchdown with its checks off (R60, R69, R71) -/

theorem checkAll_of_off {before : Vector SiteFigures 16} {appended : Bool} {c : CellIx} {r : RunIx} {s : State} {st : Step}
    (h : checksOff (limitsOf s (lotOfRun s r)) st) : checkAll before appended c r s = s := by
  obtain ⟨hcmax, hywin, hdmax, hfmax, hymin, -⟩ := h
  have hconsec : checkConsec (limitsOf s (lotOfRun s r)) before r s = s := if_neg (by simp [hcmax])
  have hwindow : checkWindow (limitsOf s (lotOfRun s r)) appended r s = s := if_neg (by simp [hywin])
  have hsites : checkSites (limitsOf s (lotOfRun s r)) c r s = s := by
    rw [checkSites]
    split
    · exact if_neg (by simp [hdmax])
    · rfl
  have hbins : checkBins (limitsOf s (lotOfRun s r)) (s.run r).lot s = s := by
    have hnone : binBreach (limitsOf s (lotOfRun s r)).fmax (s.lot (s.run r).lot).figures.bins
        (s.lot (s.run r).lot).figures.tested = none := by
      rw [binBreach, Option.map_eq_none_iff, List.find?_eq_none]
      intro h _
      simp [hfmax h]
    rw [checkBins]
    rw [hnone]
    split <;> rfl
  have hyield : checkYield (limitsOf s (lotOfRun s r)) (s.run r).lot s = s := if_neg (by simp [hymin])
  rw [checkAll]
  rw [hconsec, hwindow, hsites, hbins, hyield]

/-- The run after the counts of a first-pass touchdown (R55, R63, R69). -/
def Run.firstPass (x : Run) (st : Step) (w : Nat) (us : List TestedUnit) : Run :=
  { us.foldl (Run.countFirst st) x with
    ring := if us.isEmpty then x.ring else ringAppend w x.ring ⟨us.length, goodUnits st us⟩
    sinceGolden := satAdd 65535 x.sinceGolden 1 }

theorem Run.firstPass_eq (x : Run) (st : Step) (w : Nat) (us : List TestedUnit) :
    x.firstPass st w us = { x with
      tested := (us.foldl (Run.countFirst st) x).tested
      good := (us.foldl (Run.countFirst st) x).good
      sites := (us.foldl (Run.countFirst st) x).sites
      ledger := (us.foldl (Run.countFirst st) x).ledger
      ring := if us.isEmpty then x.ring else ringAppend w x.ring ⟨us.length, goodUnits st us⟩
      sinceGolden := satAdd 65535 x.sinceGolden 1 } := by
  rw [Run.firstPass, foldl_countFirst]

theorem countFirstPass_eq {r : RunIx} {l : LotSlot} {us : List TestedUnit} {s : State} (hlot : (s.run r).lot = l) :
    countFirstPass r us s =
      (s.setLot l { s.lot l with
        figures := us.foldl (StepFigures.countFirst (stepOf s (s.lot l))) (s.lot l).figures }).setRun r
        ((s.run r).firstPass (stepOf s (s.lot l)) (limitsOf s (s.lot l)).w us) := by
  subst hlot
  rfl

/-- A first-pass touchdown with the checks off and no closing target only counts its units. -/
theorem countTouchdown_first {c : CellIx} {r : RunIx} {l : LotSlot} {q : Seq} {es : List SiteEntry} {s : State}
    (hlot : (s.run r).lot = l) (hpass : (s.run r).pass = 0) (htarget : (s.run r).target = none)
    (hoff : checksOff (limitsOf s (s.lot l)) (stepOf s (s.lot l))) :
    countTouchdown c r q es s =
      countFirstPass r (testedUnits (stepOf s (s.lot l)).siteCount (s.cell c).enabled 0 es) s := by
  subst hlot
  set us := testedUnits (stepOf s (s.lot (s.run r).lot)).siteCount (s.cell c).enabled 0 es with hus
  set v := countFirstPass r us s with hv
  have hcounted := countFirstPass_eq (us := us) (s := s) (r := r) rfl
  have hrun : v.run r = (s.run r).firstPass (stepOf s (s.lot (s.run r).lot)) (limitsOf s (s.lot (s.run r).lot)).w us := by
    rw [hv, hcounted, setRun_run]
  have hrunlot : (v.run r).lot = (s.run r).lot := by rw [hrun, Run.firstPass_eq]
  have hruntarget : (v.run r).target = none := by rw [hrun, Run.firstPass_eq]; exact htarget
  have hvlot : v.lot (s.run r).lot = { s.lot (s.run r).lot with
      figures := us.foldl (StepFigures.countFirst (stepOf s (s.lot (s.run r).lot))) (s.lot (s.run r).lot).figures } := by
    rw [hv, hcounted]
    exact setLot_lot ..
  have hlimits : limitsOf v (lotOfRun v r) = limitsOf s (s.lot (s.run r).lot) := by
    rw [lotOfRun, hrunlot, hvlot, hv, hcounted]
    rfl
  have hstep : stepOfRun v r = stepOf s (s.lot (s.run r).lot) := by
    rw [stepOfRun, lotOfRun, hrunlot, hvlot, hv, hcounted]
    rfl
  have hchecks : checkAll (s.run r).sites (!us.isEmpty) c r v = v :=
    checkAll_of_off (st := stepOf s (s.lot (s.run r).lot)) (by rw [hlimits]; exact hoff)
  have hgolden : askGolden c r v = v := if_neg (by rw [hstep, hoff.2.2.2.2.2]; simp)
  rw [countTouchdown]
  show askTarget q r (if (s.run r).pass = 0 then askGolden c r (checkAll (s.run r).sites (!us.isEmpty) c r v) else _) = _
  rw [if_pos hpass, hchecks, hgolden, askTarget, hruntarget]

/-- A retest touchdown with no closing target only counts its units. -/
theorem countTouchdown_retest {c : CellIx} {r : RunIx} {q : Seq} {es : List SiteEntry} {s : State}
    (hpass : (s.run r).pass ≠ 0) (htarget : (s.run r).target = none) (hsurplus : (s.run r).surplus ≤ Config.max24)
    (hrecovered : (s.run r).recovered ≤ Config.max24) :
    countTouchdown c r q es s = s.setRun r
      ((testedUnits (stepOfRun s r).siteCount (s.cell c).enabled 0 es).foldl (Run.countRetest (stepOfRun s r)) (s.run r)) := by
  set us := testedUnits (stepOfRun s r).siteCount (s.cell c).enabled 0 es with hus
  have hruntarget : ((s.setRun r (us.foldl (Run.countRetest (stepOfRun s r)) (s.run r))).run r).target = none := by
    rw [setRun_run, foldl_countRetest _ _ hsurplus hrecovered]
    exact htarget
  rw [countTouchdown]
  show askTarget q r (if (s.run r).pass = 0 then _ else
    s.setRun r (us.foldl (Run.countRetest (stepOfRun s r)) (s.run r))) = _
  rw [if_neg hpass, askTarget, hruntarget]

end Sys2Proof.Machine
end

section
/-! PROOF. O47 and O52: the counts of a touchdown, and the balance of the tray ledger. -/

set_option Elab.async false

namespace Sys2Proof.Machine

/-! ## O47: the counts of an accepted touchdown -/

theorem started_of_working {st : RunState} (h : st = .testing ∨ st = .closing ∨ st = .stopped) :
    st.started = true ∧ st ≠ .ending := by
  rcases h with rfl | rfl | rfl <;> simp [RunState.started]

theorem acceptTouchdown_counts {c : CellIx} {r : RunIx} {q : Seq} {es : List SiteEntry} {s : State}
    (h : (s.run r).state ≠ .ending) : acceptTouchdown c r q es s =
      countTouchdown c r q es (s.setCell c { s.cell c with expected := some (q + 1) }) := by
  rw [acceptTouchdown_eq, if_neg h]

theorem ring_eq (ring : List RingEntry) (st : Step) (w : Nat) (us : List TestedUnit) :
    (if us.isEmpty then ring else ringAppend w ring ⟨us.length, goodUnits st us⟩) =
      if us = [] then ring else
        (ring ++ [(⟨us.length, us.countP fun t => st.goodBin t.bin⟩ : RingEntry)]).drop
          ((ring ++ [(⟨us.length, us.countP fun t => st.goodBin t.bin⟩ : RingEntry)]).length - w) := by
  cases us <;> rfl

/-- A first-pass touchdown with the checks off and no closing target, on the floor (R55, R63, R69). -/
theorem exec_touchdown_first {e : Envelope} {q : Seq} {es : List SiteEntry} {c : CellIx} {l : LotSlot} {r : RunIx}
    {s : State} (h : fromStation (.touchdown e q es) e c .tester s) :
    let u := metBy (.touchdown e q es) e c .tester s
    let k := u.cell c
    let st := stepOf s (s.lot l)
    let us := testedUnits st.siteCount k.enabled 0 es
    k.state ∉ [CellState.offline, .lost, .quarantined] → k.current = some r → (s.run r).lot = l →
    ((s.run r).state = .testing ∨ (s.run r).state = .closing ∨ (s.run r).state = .stopped) → (s.run r).pass = 0 →
    (s.run r).target = none → (k.expected = none ∨ k.expected = some q) → checksOff (limitsOf s (s.lot l)) st →
    exec (.touchdown e q es) s = .next { u with
      lots := vset s.lots l { s.lot l with figures := us.foldl (StepFigures.countFirst st) (s.lot l).figures }
      runs := vset s.runs r ((s.run r).firstPass st (limitsOf s (s.lot l)).w us)
      cells := vset u.cells c { k with expected := some (q + 1) } } := by
  intro u k st us hstate hcur hlot hworking hpass htarget hexpected hoff
  obtain ⟨hstarted, hending⟩ := started_of_working hworking
  have hrun : u.run r = s.run r := metBy_run (.touchdown e q es) e c .tester s r
  have hulot : u.lot l = s.lot l := metBy_lot (.touchdown e q es) e c .tester s l
  have hlimits (x : Lot) : limitsOf u x = limitsOf s x := metBy_limitsOf (.touchdown e q es) e c .tester s x
  have hstep (x : Lot) : stepOf u x = stepOf s x := metBy_stepOf (.touchdown e q es) e c .tester s x
  have hlots : u.lots = s.lots := metBy_lots (.touchdown e q es) e c .tester s
  have hruns : u.runs = s.runs := metBy_runs (.touchdown e q es) e c .tester s
  set v := u.setCell c { k with expected := some (q + 1) } with hv
  have hvcell : v.cell c = { k with expected := some (q + 1) } := setCell_cell ..
  have hvrun : v.run r = s.run r := hrun
  have hvlot : v.lot l = s.lot l := hulot
  have hvlimits : limitsOf v (s.lot l) = limitsOf s (s.lot l) := hlimits _
  have hvstep : stepOf v (s.lot l) = st := hstep _
  rw [exec_touchdown_accepted h hstate hcur hstarted hexpected, acceptTouchdown_counts (by rw [hrun]; exact hending),
    show ({ u.cell c with expected := some (q + 1) } : Cell) = { k with expected := some (q + 1) } from rfl, ← hv,
    countTouchdown_first (l := l) (by rw [hvrun]; exact hlot) (by rw [hvrun]; exact hpass) (by rw [hvrun]; exact htarget)
      (by rw [hvlot, hvlimits, hvstep]; exact hoff),
    countFirstPass_eq (l := l) (by rw [hvrun]; exact hlot), hvlot, hvlimits, hvstep, hvrun, hvcell]
  refine congrArg Host.Outcome.next ?_
  show State.work v (vset u.lots l _) (vset u.runs r _) v.cells v.queue v.seqCounter = _
  rw [hlots, hruns]
  rfl

/-- A retest touchdown with no closing target, on the floor (R56). -/
theorem exec_touchdown_retest {e : Envelope} {q : Seq} {es : List SiteEntry} {c : CellIx} {r : RunIx} {s : State}
    (h : fromStation (.touchdown e q es) e c .tester s) :
    let u := metBy (.touchdown e q es) e c .tester s
    let k := u.cell c
    let us := testedUnits (stepOfRun s r).siteCount k.enabled 0 es
    k.state ∉ [CellState.offline, .lost, .quarantined] → k.current = some r →
    ((s.run r).state = .testing ∨ (s.run r).state = .closing ∨ (s.run r).state = .stopped) → (s.run r).pass ≠ 0 →
    (s.run r).target = none → (k.expected = none ∨ k.expected = some q) → (s.run r).bounded →
    exec (.touchdown e q es) s = .next { u with
      runs := vset s.runs r (us.foldl (Run.countRetest (stepOfRun s r)) (s.run r))
      cells := vset u.cells c { k with expected := some (q + 1) } } := by
  intro u k us hstate hcur hworking hpass htarget hexpected hbounded
  obtain ⟨-, -, -, -, -, -, -, -, hsurplus, hrecovered, -⟩ := hbounded
  obtain ⟨hstarted, hending⟩ := started_of_working hworking
  have hrun : u.run r = s.run r := metBy_run (.touchdown e q es) e c .tester s r
  have hstep : stepOfRun u r = stepOfRun s r := metBy_stepOfRun (.touchdown e q es) e c .tester s r
  have hruns : u.runs = s.runs := metBy_runs (.touchdown e q es) e c .tester s
  set v := u.setCell c { k with expected := some (q + 1) } with hv
  have hvcell : v.cell c = { k with expected := some (q + 1) } := setCell_cell ..
  have hvrun : v.run r = s.run r := hrun
  have hvstep : stepOfRun v r = stepOfRun s r := hstep
  rw [exec_touchdown_accepted h hstate hcur hstarted hexpected, acceptTouchdown_counts (by rw [hrun]; exact hending),
    show ({ u.cell c with expected := some (q + 1) } : Cell) = { k with expected := some (q + 1) } from rfl, ← hv,
    countTouchdown_retest (by rw [hvrun]; exact hpass) (by rw [hvrun]; exact htarget) (by rw [hvrun]; exact hsurplus)
      (by rw [hvrun]; exact hrecovered), hvstep, hvrun, hvcell]
  refine congrArg Host.Outcome.next ?_
  show State.work v v.lots (vset u.runs r _) v.cells v.queue v.seqCounter = _
  rw [hruns]
  rfl

/-- Settles O47. -/
theorem touchdownsAreCounted : Obligations.TouchdownsAreCounted := by
  refine ⟨fun e q es c l r s => ?_, fun e q es c r s => ?_⟩
  · intro i h u k run x st us good hstate hcur hlot hworking hpass htarget hexpected hoff hrun hfigures
    obtain ⟨hgood, htested, hbins, -⟩ := hfigures
    obtain ⟨hrgood, hrtested, hsites, -, -, hledger, -⟩ := hrun
    have hnodup : (us.map (·.site)).Nodup := (testedUnits_sites _ _ _ _).1
    refine ⟨_, _, exec_touchdown_first h hstate hcur hlot hworking hpass htarget hexpected hoff, foldl_countFigures .., ?_⟩
    refine ⟨foldl_countFigures_tested _ _ htested, foldl_countFigures_good _ _ (hgood.trans htested),
      fun b => foldl_countFigures_bins _ _ b ((hbins b).trans htested), Run.firstPass_eq .., ?_⟩
    refine ⟨foldl_countFirst_tested _ _ hrtested, foldl_countFirst_good _ _ (hrgood.trans hrtested),
      fun t => foldl_countFirst_ledger _ _ t (hledger t), fun a => ?_, ring_eq ..⟩
    obtain ⟨hfail, hstested, hstreak⟩ := hsites a
    rw [show ((s.run r).firstPass st (limitsOf s (s.lot l)).w us).sites[a] =
      us.foldl (fun f u => if u.site == a then f.counted (st.goodBin u.bin) else f) (s.run r).sites[a] from
        foldl_countFirst_site st us (s.run r) a]
    exact ⟨foldl_site_tested _ _ a hstested, foldl_site_fail _ _ a (hfail.trans hstested),
      foldl_site_streak _ hnodup a hstreak⟩
  · intro i h u k run st us hstate hcur hworking hpass htarget hexpected hrun
    refine ⟨_, exec_touchdown_retest h hstate hcur hworking hpass htarget hexpected hrun, ?_⟩
    obtain ⟨-, -, -, -, -, hledger, -, -, hsurplus, hrecovered, -⟩ := hrun
    exact ⟨foldl_countRetest _ _ hsurplus hrecovered, fun t => foldl_countRetest_ledger _ _ t (hledger t)⟩

/-! ## The tray ledger (R144, R146) -/

/-- The sum of a ledger as a sum over its trays. -/
theorem ledger_sum (v : Vector Nat 8) : v.toList.sum = ∑ t : Fin 8, v[t] := by
  have hlist : v.toList = List.ofFn fun t : Fin 8 => v[t] := by
    refine List.ext_getElem (by simp) fun i h _ => ?_
    rw [List.getElem_ofFn, Vector.getElem_toList]
    rfl
  rw [hlist, List.sum_ofFn]

theorem ledger_sum_vmod {v : Vector Nat 8} {t : Fin 8} {x : Nat} :
    (vset v t (v[t] + x)).toList.sum = v.toList.sum + x := by
  rw [ledger_sum, ledger_sum, ← Finset.add_sum_erase _ _ (Finset.mem_univ t), ← Finset.add_sum_erase _ (fun i => v[i])
    (Finset.mem_univ t), vset_get_same, Finset.sum_congr rfl fun i hi => vset_get_ne v _ (Finset.ne_of_mem_erase hi).symm]
  omega

/-- The ledger, outstanding and shortfall in balance with what is tested and surplus (R146). -/
def Run.balanced (x : Run) : Prop := x.ledger.toList.sum + x.outstanding + x.shortfall = x.tested + x.surplus

theorem ledger_vmod {v : Vector Nat 8} (t : Fin 8) (h : v[t] < Config.max24) :
    vmod v t (fun n => sat24 n 1) = vset v t (v[t] + 1) := by
  rw [vmod, sat24, satAdd, Nat.min_eq_right h]

theorem ledger_step {v : Vector Nat 8} {n : Nat} (t : Fin 8) (h : ∀ i : Fin 8, v[i] + (n + 1) ≤ Config.max24) (i : Fin 8) :
    (vset v t (v[t] + 1))[i] + n ≤ Config.max24 := by
  have hi := h i
  by_cases hti : t = i
  · subst hti
    rw [vset_get_same]
    omega
  · rw [vset_get_ne _ _ hti]
    omega

/-- First-pass units keep the balance (R55, R146). -/
theorem balanced_countFirst (st : Step) (us : List TestedUnit) {x : Run} (h : x.balanced)
    (htested : x.tested + us.length ≤ Config.max24) (hledger : ∀ t : Fin 8, x.ledger[t] + us.length ≤ Config.max24) :
    (us.foldl (Run.countFirst st) x).balanced := by
  induction us generalizing x with
  | nil => exact h
  | cons u us ih =>
    rw [List.length_cons] at htested hledger
    have hl : (x.countFirst st u).ledger = vset x.ledger (st.trayOf u.bin) (x.ledger[st.trayOf u.bin] + 1) :=
      ledger_vmod _ (by have := hledger (st.trayOf u.bin); omega)
    have ht : (x.countFirst st u).tested = x.tested + 1 := Nat.min_eq_right (by omega)
    refine ih ?_ (by rw [ht]; omega) fun t => by rw [hl]; exact ledger_step _ hledger t
    unfold Run.balanced at h ⊢
    rw [hl, ht, ledger_sum_vmod]
    show x.ledger.toList.sum + 1 + x.outstanding + x.shortfall = x.tested + 1 + x.surplus
    omega

/-- Retest units keep the balance (R56, R146). -/
theorem balanced_countRetest (st : Step) (us : List TestedUnit) {x : Run} (h : x.balanced)
    (hsurplus : x.surplus + us.length ≤ Config.max24) (hledger : ∀ t : Fin 8, x.ledger[t] + us.length ≤ Config.max24) :
    (us.foldl (Run.countRetest st) x).balanced := by
  induction us generalizing x with
  | nil => exact h
  | cons u us ih =>
    rw [List.length_cons] at hsurplus hledger
    have hl : (x.countRetest st u).ledger = vset x.ledger (st.trayOf u.bin) (x.ledger[st.trayOf u.bin] + 1) :=
      ledger_vmod _ (by have := hledger (st.trayOf u.bin); omega)
    have hs : (x.countRetest st u).surplus = if x.outstanding = 0 then x.surplus + 1 else x.surplus := by
      show (if x.outstanding = 0 then min Config.max24 (x.surplus + 1) else x.surplus) = _
      rw [Nat.min_eq_right (by omega)]
    refine ih ?_ (by rw [hs]; split <;> omega) fun t => by rw [hl]; exact ledger_step _ hledger t
    unfold Run.balanced at h ⊢
    rw [hl, hs, ledger_sum_vmod]
    show x.ledger.toList.sum + 1 + (x.outstanding - 1) + x.shortfall = x.tested + (if x.outstanding = 0 then _ else _)
    split <;> omega

/-! ### The close of a pass (R144) -/

theorem clearRetest_get (st : Step) (v : Vector Nat 8) (t : Fin 8) :
    (clearRetest st v)[t] = if st.isRetest t then 0 else v[t] := by
  have hfold (L : List (Fin 8)) : ∀ w : Vector Nat 8,
      (L.foldl (fun v t => if st.isRetest t then vset v t 0 else v) w)[t] =
        if st.isRetest t ∧ t ∈ L then 0 else w[t] := by
    induction L with
    | nil => simp
    | cons a L ih =>
      intro w
      rw [List.foldl_cons, ih]
      by_cases hat : a = t
      · subst hat
        cases hr : st.isRetest a with
        | true => simp only [if_true, vset_get_same, List.mem_cons, true_or, and_true, ite_self]
        | false => simp
      · have hw : (if st.isRetest a then vset w a 0 else w)[t] = w[t] := by
          split
          · exact vset_get_ne _ _ hat
          · rfl
        rw [hw]
        simp [Ne.symm hat]
  rw [clearRetest, hfold]
  simp

theorem ledgerSum_eq (v : Vector Nat 8) (p : Fin 8 → Bool) : ledgerSum v p = ∑ t : Fin 8, if p t then v[t] else 0 := by
  rw [ledgerSum, ← Finset.sum_filter, ← List.sum_toFinset _ ((List.nodup_finRange 8).filter _)]
  refine Finset.sum_congr ?_ fun _ _ => rfl
  ext t
  simp

/-- The retest trays and what a clear leaves make up the ledger. -/
theorem ledgerSum_add_clearRetest (st : Step) (v : Vector Nat 8) :
    ledgerSum v st.isRetest + (clearRetest st v).toList.sum = v.toList.sum := by
  rw [ledgerSum_eq, ledger_sum, ledger_sum, ← Finset.sum_add_distrib]
  refine Finset.sum_congr rfl fun t _ => ?_
  rw [clearRetest_get]
  split <;> simp

/-- The first two steps of a pass close keep the balance. -/
theorem balanced_passClosed {x : Run} (h : x.balanced) (hpass : x.pass = 0 → x.outstanding = 0)
    (hshort : x.shortfall + x.outstanding ≤ Config.max24) : x.passClosed.balanced ∧ x.passClosed.outstanding = 0 := by
  rw [Run.passClosed]
  split
  case isTrue h0 => exact ⟨h, hpass h0⟩
  case isFalse =>
    refine ⟨?_, rfl⟩
    show x.ledger.toList.sum + 0 + sat24 x.shortfall x.outstanding = x.tested + x.surplus
    unfold Run.balanced at h
    rw [sat24, satAdd, Nat.min_eq_right hshort]
    omega

theorem passClosed_ledger (x : Run) : x.passClosed.ledger = x.ledger := by
  rw [Run.passClosed]
  split <;> rfl

/-- A pass close that begins a retest pass (R144). -/
theorem passClose_retests {r : RunIx} {s : State} {x : Run} (hx : (s.run r).passClosed = x)
    (h : x.pass < (stepOfRun s r).maxRetest ∧ 0 < ledgerSum x.ledger (stepOfRun s r).isRetest) :
    passClose r s =
      (sendOrder x.cell .handler (.retest (x.pass + 1) (outstandingOf (ledgerSum x.ledger (stepOfRun s r).isRetest))
        (stepOfRun s r).retestMask) s).setRun r { x with
          outstanding := outstandingOf (ledgerSum x.ledger (stepOfRun s r).isRetest)
          ledger := clearRetest (stepOfRun s r) x.ledger, pass := x.pass + 1, state := .testing } := by
  subst hx
  rw [passClose]
  exact (if_pos h).trans (sendOrder_setRun ..)

/-- A pass close that ends the run (R144, R153). -/
theorem passClose_ends {r : RunIx} {s : State} {x : Run} (hx : (s.run r).passClosed = x)
    (h : ¬ (x.pass < (stepOfRun s r).maxRetest ∧ 0 < ledgerSum x.ledger (stepOfRun s r).isRetest)) :
    passClose r s =
      ((sendOrder x.cell .handler (.unload (lotOfRun s r).tag x.pos) s).setRun r { x with state := .ending }).setCell x.cell
        ((s.cell x.cell).armRun s.timer .counts (seconds s.profile.counts)) := by
  subst hx
  rw [passClose]
  refine (if_neg h).trans ?_
  rw [armRunDeadline, State.modCell, setRun_cell, sendOrder_cell, setRun_timer, sendOrder_timer, setRun_profile,
    sendOrder_profile]

/-- A pass close keeps the balance of its run (R144, R146). -/
theorem balanced_passClose {r : RunIx} {s : State} (h : (s.run r).balanced)
    (hpass : (s.run r).pass = 0 → (s.run r).outstanding = 0)
    (hshort : (s.run r).shortfall + (s.run r).outstanding ≤ Config.max24)
    (hledger : (s.run r).ledger.toList.sum ≤ Config.max24) : ((passClose r s).run r).balanced := by
  obtain ⟨hclosed, hnone⟩ := balanced_passClosed h hpass hshort
  have hsplit := ledgerSum_add_clearRetest (stepOfRun s r) (s.run r).passClosed.ledger
  have hsum : (s.run r).passClosed.ledger.toList.sum ≤ Config.max24 := by
    rw [passClosed_ledger]
    exact hledger
  generalize hx : (s.run r).passClosed = x at *
  by_cases hretest : x.pass < (stepOfRun s r).maxRetest ∧ 0 < ledgerSum x.ledger (stepOfRun s r).isRetest
  · rw [passClose_retests hx hretest, setRun_run]
    unfold Run.balanced at hclosed ⊢
    show (clearRetest (stepOfRun s r) x.ledger).toList.sum + outstandingOf (ledgerSum x.ledger (stepOfRun s r).isRetest)
      + x.shortfall = x.tested + x.surplus
    rw [outstandingOf, if_pos (by omega)]
    omega
  · rw [passClose_ends hx hretest, setCell_run, setRun_run]
    exact hclosed

/-- Settles O52. -/
theorem ledgersBalance : Obligations.LedgersBalance := by
  refine ⟨by decide, fun st us x h ht hl => balanced_countFirst st us h ht hl,
    fun st us x h hs hl => balanced_countRetest st us h hs hl, fun r s h hp hs hl => balanced_passClose h hp hs hl⟩

end Sys2Proof.Machine
end

section
/-! SUPPORT. How a pass closes and how its closing target is reported (R71, R142, R144, R153). -/

set_option Elab.async false

namespace Sys2Proof.Machine

/-! ## Distances of numbers (R50, R71, R141) -/

theorem seq_sub (q t : Seq) : (q - t).toNat = (q.toNat + 65536 - t.toNat) % 65536 := by
  have := t.isLt
  rw [BitVec.toNat_sub]
  congr 1
  omega

theorem atOrPast_eq (q t : Seq) : atOrPast q t = decide ((q.toNat + 65536 - t.toNat) % 65536 ≤ 32767) := by
  rw [atOrPast, seq_sub]

theorem targetTaken_of_some (x t : Seq) :
    targetTaken (some x) t = decide ((x.toNat + 131071 - t.toNat) % 65536 ≤ 32767) := by
  have h : ((x - 1).toNat + 65536 - t.toNat) % 65536 = (x.toNat + 131071 - t.toNat) % 65536 := by
    rw [BitVec.toNat_sub, show BitVec.toNat (1 : Seq) = 1 from rfl]
    have := x.isLt
    have := t.isLt
    omega
  rw [targetTaken, atOrPast_eq, h]

theorem targetTaken_eq_false {x : Option Seq} {t : Seq}
    (h : x = none ∨ ∃ y, x = some y ∧ 32768 ≤ (y.toNat + 131071 - t.toNat) % 65536) : targetTaken x t = false := by
  rcases h with rfl | ⟨y, rfl, hy⟩
  · rfl
  · rw [targetTaken_of_some]
    exact decide_eq_false (by omega)

/-! ## RUN's deadlines (R107, R153) -/

/-- A deadline of RUN's armed over one of its own, or over none. -/
theorem Cell.armRun_of_run {k : Cell} {now ms : Nat} {d : DeadlineKind} (h : runDeadline k) :
    k.armRun now d ms = { k with deadline := some ⟨d, now + ms⟩ } := by
  rw [Cell.armRun]
  cases hd : k.deadline with
  | none => rfl
  | some e => exact if_neg (by rcases h e (by simp [hd]) with h | h <;> rw [h] <;> simp [DeadlineKind.isStage])

/-- While a stage deadline is active, a deadline of RUN's is set aside with its full limit. -/
theorem Cell.armRun_of_stage {k : Cell} {now ms : Nat} {d : DeadlineKind} {e : Deadline} {j : Prep}
    (hd : k.deadline = some e) (hstage : e.kind ∈ [DeadlineKind.changeover, .load, .golden]) (hprep : k.prep = some j) :
    k.armRun now d ms = { k with prep := some { j with setAside := some ⟨d, ms⟩ } } := by
  have hkind : e.kind.isStage = true := by
    simp only [List.mem_cons, List.not_mem_nil, or_false] at hstage
    rcases hstage with h | h | h <;> rw [h] <;> rfl
  rw [Cell.armRun, hd]
  refine (if_pos hkind).trans ?_
  rw [Cell.modPrep, hprep, hd]
  rfl

/-- The cancel of the deadline a cell runs under, with no preparation in hand. -/
theorem Cell.cancelRun_of_kind {k : Cell} {d : DeadlineKind} (hprep : k.prep = none)
    (h : k.deadline.map (·.kind) = some d) : k.cancelRun d = { k with deadline := none } := by
  rw [Cell.cancelRun, if_pos h, Cell.modPrep]
  cases k
  simp_all

/-! ## The close of a pass (R144) -/

/-- A run whose pass is over: its target and its mark cleared, and what a retest pass still owes short (R144). -/
def Run.passOver (x : Run) : Run :=
  { x with
    target := none, targetReached := false
    outstanding := if x.pass = 0 then x.outstanding else 0
    shortfall := if x.pass = 0 then x.shortfall else min 16777215 (x.shortfall + x.outstanding) }

theorem passClosed_eq (x : Run) : x.passClosed = x.passOver := by
  rw [Run.passClosed, Run.passOver]
  split <;> rfl

theorem clearRetest_eq (st : Step) (v : Vector Nat 8) :
    clearRetest st v = Vector.ofFn fun t => if st.trays[t] = .retest then 0 else v[t] := by
  refine Vector.ext fun i hi => ?_
  have h := clearRetest_get st v ⟨i, hi⟩
  rw [Step.isRetest] at h
  simp only [beq_iff_eq] at h
  rw [Vector.getElem_ofFn]
  exact h

/-- What the RETEST trays of a run's ledger hold. -/
def retestSum (st : Step) (x : Run) : Nat :=
  (((List.finRange 8).filter fun t => st.trays[t] == .retest).map fun t => x.ledger[t]).sum

/-- A pass closes into a further one (R144). -/
theorem passClose_further {r : RunIx} {s : State} (hpass : (s.run r).pass < (stepOfRun s r).maxRetest)
    (hsum : 0 < retestSum (stepOfRun s r) (s.run r)) (hfits : retestSum (stepOfRun s r) (s.run r) ≤ 16777215) :
    passClose r s =
      (sendOrder (s.run r).cell .handler
        (.retest ((s.run r).pass + 1) (retestSum (stepOfRun s r) (s.run r)) (stepOfRun s r).retestMask) s).setRun r
        { (s.run r).passOver with
          outstanding := retestSum (stepOfRun s r) (s.run r), pass := (s.run r).pass + 1, state := .testing
          ledger := Vector.ofFn fun t => if (stepOfRun s r).trays[t] = .retest then 0 else (s.run r).ledger[t] } := by
  have hout : outstandingOf (ledgerSum (s.run r).passOver.ledger (stepOfRun s r).isRetest) =
      retestSum (stepOfRun s r) (s.run r) := if_pos hfits
  rw [passClose_retests (passClosed_eq _) ⟨hpass, hsum⟩, hout, clearRetest_eq]
  rfl

/-- A pass closes into the run end (R144, R153). -/
theorem passClose_last {r : RunIx} {s : State}
    (h : (stepOfRun s r).maxRetest ≤ (s.run r).pass ∨ retestSum (stepOfRun s r) (s.run r) = 0) :
    passClose r s =
      ((sendOrder (s.run r).cell .handler (.unload (lotOfRun s r).tag (s.run r).pos) s).setRun r
        { (s.run r).passOver with state := .ending }).setCell (s.run r).cell
          ((s.cell (s.run r).cell).armRun s.timer .counts (seconds s.profile.counts)) := by
  refine passClose_ends (passClosed_eq _) fun ⟨hpass, hsum⟩ => ?_
  rcases h with h | h
  · exact absurd hpass (Nat.not_lt.2 h)
  · exact absurd hsum (by rw [show ledgerSum (s.run r).passOver.ledger (stepOfRun s r).isRetest = 0 from h]; simp)

end Sys2Proof.Machine
end

section
/-! PROOF. O48: the checks of a touchdown, the golden request and the closing-target report (R60 to R71). -/

set_option Elab.async false

namespace Sys2Proof.Machine

/-! ## The checks (R61 to R67) -/

theorem basisPoints_eq_iff {n d y : Nat} (hd : 0 < d) : basisPoints n d = y ↔ y * d ≤ n * 10000 ∧ n * 10000 < (y + 1) * d := by
  rw [basisPoints, Nat.div_eq_iff hd, Nat.succ_mul]
  omega

theorem consecReached_iff {cmax : Nat} {before after : Vector SiteFigures 16} :
    consecReached cmax before after = true ↔ ∃ a : Fin 16, before[a].streak + 1 = cmax ∧ after[a].streak = cmax := by
  simp [consecReached]

/-- The check of consecutive fails (R62). -/
theorem checkConsec_rule (lim : LimitSet) (before : Vector SiteFigures 16) (r : RunIx) (s : State) :
    let reached : Prop := ∃ a : Fin 16, before[a].streak + 1 = lim.cmax ∧ (s.run r).sites[a].streak = lim.cmax
    (0 < lim.cmax → reached → checkConsec lim before r s = raiseOnRun r .consec (some lim.cmax) s)
    ∧ ((lim.cmax = 0 ∨ ¬ reached) → checkConsec lim before r s = s) := by
  refine ⟨fun hcmax hreached => if_pos ⟨hcmax, consecReached_iff.2 hreached⟩, fun h => if_neg fun ⟨hcmax, hreached⟩ => ?_⟩
  rcases h with h | h
  · omega
  · exact h (consecReached_iff.1 hreached)

/-- The check of the window yield (R64). -/
theorem checkWindow_rule (lim : LimitSet) (appended : Bool) (r : RunIx) (s : State) :
    let ring := (s.run r).ring
    let y := (ring.map (·.good)).sum * 10000 / (ring.map (·.tested)).sum
    let made : Prop := appended = true ∧ 0 < lim.ywin ∧ ring.length = lim.w
    (made → y < lim.ywin → checkWindow lim appended r s = raiseOnRun r .window (some y) s)
    ∧ ((¬ made ∨ lim.ywin ≤ y) → checkWindow lim appended r s = s) := by
  refine ⟨fun ⟨happ, hywin, hlen⟩ hy => if_pos ⟨happ, hywin, hlen, hy⟩, fun h => if_neg fun ⟨happ, hywin, hlen, hy⟩ => ?_⟩
  rcases h with h | h
  · exact h ⟨happ, hywin, hlen⟩
  · exact absurd hy (Nat.not_lt.2 h)

theorem foldl_max_le (L : List Nat) {a b : Nat} : L.foldl max a ≤ b ↔ a ≤ b ∧ ∀ x ∈ L, x ≤ b := by
  induction L generalizing a with
  | nil => simp
  | cons x L ih => rw [List.foldl_cons, ih, Nat.max_le, List.forall_mem_cons, and_assoc]

theorem le_foldl_min (L : List Nat) {a b : Nat} : b ≤ L.foldl min a ↔ b ≤ a ∧ ∀ x ∈ L, b ≤ x := by
  induction L generalizing a with
  | nil => simp
  | cons x L ih => rw [List.foldl_cons, ih, Nat.le_min, List.forall_mem_cons, and_assoc]

/-- The considered sites of R65. -/
def considered (enabled : SiteMask) (nsite : Nat) (sites : Vector SiteFigures 16) : List (Fin 16) :=
  (List.finRange 16).filter fun i : Fin 16 => enabled.getLsbD i.val && nsite ≤ sites[i].tested

theorem consideredRates_eq (enabled : SiteMask) (nsite : Nat) (sites : Vector SiteFigures 16) :
    consideredRates enabled nsite sites =
      (considered enabled nsite sites).map fun i => basisPoints sites[i].fail sites[i].tested := rfl

theorem mem_considered {enabled : SiteMask} {nsite : Nat} {sites : Vector SiteFigures 16} {a : Fin 16} :
    a ∈ considered enabled nsite sites ↔ enabled.getLsbD a.val = true ∧ nsite ≤ sites[a].tested := by
  simp [considered]

theorem mem_consideredRates {enabled : SiteMask} {nsite x : Nat} {sites : Vector SiteFigures 16} :
    x ∈ consideredRates enabled nsite sites ↔ ∃ a : Fin 16,
      (enabled.getLsbD a.val = true ∧ nsite ≤ sites[a].tested) ∧ basisPoints sites[a].fail sites[a].tested = x := by
  rw [consideredRates_eq, List.mem_map]
  simp only [mem_considered]

/-- No rate of a considered site lies above 10000 (R65). -/
theorem rate_le {f : SiteFigures} (h : f.bounded) : basisPoints f.fail f.tested ≤ 10000 := by
  obtain ⟨hfail, -, -⟩ := h
  rw [basisPoints]
  exact Nat.div_le_of_le_mul (Nat.mul_le_mul_right _ hfail)

theorem two_le_length_of_mem {α : Type} {L : List α} {a b : α} (ha : a ∈ L) (hb : b ∈ L) (hne : a ≠ b) : 2 ≤ L.length := by
  match L, ha, hb with
  | [x], ha, hb => exact absurd ((List.mem_singleton.1 ha).trans (List.mem_singleton.1 hb).symm) hne
  | _ :: _ :: _, _, _ => simp

/-- The check of the site deviation (R65). -/
theorem checkSites_rule (lim : LimitSet) (c : CellIx) (r : RunIx) (s : State) :
    let sites := (s.run r).sites
    let on : Fin 16 → Prop := fun a => (s.cell c).enabled.getLsbD a.val = true ∧ lim.nsite ≤ sites[a].tested
    let rate : Fin 16 → Nat := fun a => sites[a].fail * 10000 / sites[a].tested
    (∀ a : Fin 16, sites[a].bounded) → 1 ≤ lim.nsite →
    (∀ a b : Fin 16, a ≠ b → on a → on b → (∀ m, on m → rate m ≤ rate a ∧ rate b ≤ rate m) →
      lim.dmax < 10000 → lim.dmax < rate a - rate b →
      checkSites lim c r s = raiseOnRun r .site (some (rate a - rate b)) s)
    ∧ ((10000 ≤ lim.dmax ∨ (∀ a b, on a → on b → rate a ≤ rate b + lim.dmax)) → checkSites lim c r s = s) := by
  intro sites on rate hbounded hnsite
  set rates := consideredRates (s.cell c).enabled lim.nsite sites with hrates
  have hmem (x : Nat) : x ∈ rates ↔ ∃ a, on a ∧ rate a = x := mem_consideredRates
  have hle (a : Fin 16) : rate a ≤ 10000 := rate_le (hbounded a)
  refine ⟨fun a b hab ha hb hext hdmax hover => ?_, fun h => ?_⟩
  · have hlen : 2 ≤ rates.length := by
      rw [hrates, consideredRates_eq, List.length_map]
      exact two_le_length_of_mem (mem_considered.2 ha) (mem_considered.2 hb) hab
    have hmax : rates.foldl max 0 = rate a := by
      refine Nat.le_antisymm ((foldl_max_le _).2 ⟨Nat.zero_le _, fun x hx => ?_⟩)
        (((foldl_max_le rates).1 (Nat.le_refl _)).2 _ ((hmem _).2 ⟨a, ha, rfl⟩))
      obtain ⟨m, hm, rfl⟩ := (hmem x).1 hx
      exact (hext m hm).1
    have hmin : rates.foldl min 10000 = rate b := by
      refine Nat.le_antisymm (((le_foldl_min rates).1 (Nat.le_refl _)).2 _ ((hmem _).2 ⟨b, hb, rfl⟩))
        ((le_foldl_min _).2 ⟨hle b, fun x hx => ?_⟩)
      obtain ⟨m, hm, rfl⟩ := (hmem x).1 hx
      exact (hext m hm).2
    have hspread : siteSpread rates = some (rate a - rate b) := by
      rw [siteSpread, if_pos hlen, hmax, hmin]
    rw [checkSites, hspread]
    exact if_pos ⟨hdmax, hover⟩
  · rw [checkSites]
    cases hspread : siteSpread (consideredRates (s.cell c).enabled lim.nsite (s.run r).sites) with
    | none => rfl
    | some d =>
      refine if_neg fun ⟨hdmax, hover⟩ => ?_
      have hd : d ≤ lim.dmax := by
        rw [siteSpread] at hspread
        split at hspread
        · obtain rfl := Option.some.inj hspread
          refine Nat.sub_le_iff_le_add'.2 ((foldl_max_le _).2 ⟨Nat.zero_le _, fun x hx => ?_⟩)
          obtain ⟨a, ha, rfl⟩ := (hmem x).1 hx
          have hlow : rate a - lim.dmax ≤ rates.foldl min 10000 := by
            refine (le_foldl_min _).2 ⟨(Nat.sub_le _ _).trans (hle a), fun y hy => ?_⟩
            obtain ⟨b, hb, rfl⟩ := (hmem y).1 hy
            exact Nat.sub_le_iff_le_add.2 ((h.resolve_left (Nat.not_le.2 hdmax)) a b ha hb)
          exact Nat.sub_le_iff_le_add.1 hlow
        · exact absurd hspread (by simp)
      omega

/-- The check of the bin fractions (R66). -/
theorem checkBins_rule (lim : LimitSet) (l : LotSlot) (s : State) :
    let f := (s.lot l).figures
    let made : Prop := lim.nmin ≤ f.tested ∧ (s.lot l).binWaived = false
    let breach : Fin 15 → Prop := fun h => lim.fmax[h] < 10000 ∧ lim.fmax[h] < f.bins[h] * 10000 / f.tested
    (∀ h, made → breach h → (∀ g, g < h → ¬ breach g) →
      checkBins lim l s = raiseOnLot l .bin (some (f.bins[h] * 10000 / f.tested)) s)
    ∧ ((¬ made ∨ ∀ h, ¬ breach h) → checkBins lim l s = s) := by
  intro f made breach
  set test : Fin 15 → Bool := fun h => lim.fmax[h] < 10000 && lim.fmax[h] < basisPoints f.bins[h] f.tested with htest
  have hbreach (h : Fin 15) : test h = true ↔ breach h := by
    rw [htest, Bool.and_eq_true, decide_eq_true_iff, decide_eq_true_iff]
    rfl
  have hfound : binBreach lim.fmax f.bins f.tested =
      ((List.finRange 15).find? test).map fun h => basisPoints f.bins[h] f.tested := rfl
  have hmade : (lim.nmin ≤ (s.lot l).figures.tested ∧ ¬ (s.lot l).binWaived = true) ↔ made := by
    rw [Bool.not_eq_true]
  refine ⟨fun h hm hb hlow => ?_, fun h => ?_⟩
  · have hfind : (List.finRange 15).find? test = some h :=
      find?_finRange_eq_some ((hbreach h).2 hb) fun g hg => Bool.eq_false_iff.2 fun ht => hlow g hg ((hbreach g).1 ht)
    rw [checkBins]
    refine (if_pos (hmade.2 hm)).trans ?_
    show (match binBreach lim.fmax f.bins f.tested with | some x => _ | none => _) = _
    rw [hfound, hfind]
    rfl
  · rw [checkBins]
    by_cases hm : made
    · refine (if_pos (hmade.2 hm)).trans ?_
      have hfind : (List.finRange 15).find? test = none :=
        List.find?_eq_none.2 fun g _ ht => h.resolve_left (fun hn => hn hm) g ((hbreach g).1 ht)
      show (match binBreach lim.fmax f.bins f.tested with | some x => _ | none => _) = _
      rw [hfound, hfind]
      rfl
    · exact if_neg fun hn => hm (hmade.1 hn)

/-- The check of the lot yield (R67). -/
theorem checkYield_rule (lim : LimitSet) (l : LotSlot) (s : State) :
    let f := (s.lot l).figures
    let y := f.good * 10000 / f.tested
    let made : Prop := 0 < lim.ymin ∧ lim.nmin ≤ f.tested ∧ (s.lot l).yieldWaived = false
    (made → y < lim.ymin → checkYield lim l s = raiseOnLot l .yield (some y) s)
    ∧ ((¬ made ∨ lim.ymin ≤ y) → checkYield lim l s = s) := by
  refine ⟨fun ⟨hymin, hnmin, hwaived⟩ hy => if_pos ⟨hymin, hnmin, by simp [hwaived], hy⟩,
    fun h => if_neg fun ⟨hymin, hnmin, hwaived, hy⟩ => ?_⟩
  rcases h with h | h
  · exact h ⟨hymin, hnmin, by simpa using hwaived⟩
  · exact absurd hy (Nat.not_lt.2 h)

/-- No check that is made divides by 0 (R64 to R67). -/
theorem divisors_pos {lim : LimitSet} {run : Run} {x : Lot} {a : Fin 16} (hlim : lim.inRange) (hrun : run.bounded) :
    (run.ring.length = lim.w → 0 < (run.ring.map (·.tested)).sum)
    ∧ (lim.nsite ≤ run.sites[a].tested → 0 < run.sites[a].tested)
    ∧ (lim.nmin ≤ x.figures.tested → 0 < x.figures.tested) := by
  obtain ⟨-, -, -, -, -, hnmin, hnsite, hw, -⟩ := hlim
  obtain ⟨-, -, -, -, hring, -⟩ := hrun
  refine ⟨fun hlen => ?_, fun h => by omega, fun h => by omega⟩
  cases hr : run.ring with
  | nil =>
    rw [hr, List.length_nil] at hlen
    omega
  | cons e ring =>
    obtain ⟨he, -⟩ := hring e (by simp [hr])
    rw [List.map_cons, List.sum_cons]
    omega

/-! ## The order of an accepted touchdown (R48, R56, R60) -/

theorem acceptTouchdown_rule (c : CellIx) (r : RunIx) (q : Seq) (es : List SiteEntry) (s : State) :
    let run := s.run r
    let l := run.lot
    let lim := limitsOf s (s.lot l)
    let us := testedUnits (stepOfRun s r).siteCount (s.cell c).enabled 0 es
    let taken := s.setCell c { s.cell c with expected := some (q + 1) }
    (run.state = .ending → acceptTouchdown c r q es s = taken)
    ∧ (run.state ≠ .ending → run.pass ≠ 0 →
      acceptTouchdown c r q es s = askTarget q r (countRetestPass r us taken))
    ∧ (run.state ≠ .ending → run.pass = 0 →
      acceptTouchdown c r q es s = askTarget q r (askGolden c r
        (checkYield lim l (checkBins lim l (checkSites lim c r (checkWindow lim (decide (us ≠ [])) r
          (checkConsec lim run.sites r (countFirstPass r us taken)))))))) := by
  intro run l lim us taken
  have hus : testedUnits (stepOfRun taken r).siteCount (taken.cell c).enabled 0 es = us := by
    rw [setCell_cell]
    rfl
  refine ⟨fun h => by rw [acceptTouchdown_eq, if_pos h], fun h hpass => ?_, fun h hpass => ?_⟩
  · rw [acceptTouchdown_eq, if_neg h, countTouchdown]
    refine congrArg (askTarget q r) ((if_neg hpass).trans ?_)
    rw [hus]
  · have hcounted := countFirstPass_eq (us := us) (s := taken) (r := r) rfl
    set v := countFirstPass r us taken with hv
    have hrunlot : (v.run r).lot = l := by rw [hcounted, setRun_run, Run.firstPass_eq]; rfl
    have hlimits : limitsOf v (lotOfRun v r) = lim := by
      rw [lotOfRun, hrunlot, hcounted]
      show limitsOf _ ((taken.setLot l _).lot l) = _
      rw [setLot_lot]
      rfl
    have happended : (!us.isEmpty) = decide (us ≠ []) := by cases us <;> rfl
    rw [acceptTouchdown_eq, if_neg h, countTouchdown]
    refine congrArg (askTarget q r) ((if_pos hpass).trans (congrArg (askGolden c r) ?_))
    rw [hus, ← hv, checkAll, hlimits, hrunlot, happended]
    rfl

/-! ## The golden request and the closing-target report (R69, R71) -/

theorem askGolden_rule (c : CellIx) (r : RunIx) (s : State) :
    let st := stepOfRun s r
    let due : Prop := 0 < st.goldenInterval ∧ st.goldenInterval ≤ (s.run r).sinceGolden
      ∧ (s.cell c).state = .running ∧ (s.run r).state = .testing
    (¬ due → askGolden c r s = s)
    ∧ (due → runDeadline (s.cell c) → askGolden c r s =
      { sendBoth c (.golden st.siteCount) s with
        runs := vset s.runs r { s.run r with sinceGolden := 0 }
        cells := vset s.cells c (checking (s.cell c) r .periodic .periodic st s) }) := by
  intro st due
  refine ⟨fun h => if_neg h, fun h hdeadline => ?_⟩
  obtain ⟨hon, hcount, hrunning, htesting⟩ := h
  set v := s.setRun r { s.run r with sinceGolden := 0 } with hv
  have hvcell : v.cell c = s.cell c := setRun_cell ..
  have hvstep : stepOfRun v r = st := by
    rw [stepOfRun, lotOfRun, hv, setRun_run]
    rfl
  refine (if_pos ⟨hon, hcount, hrunning, htesting⟩).trans ?_
  rw [State.modRun, ← hv, prepBegin_golden (.inl rfl) rfl (by rw [hvcell]; exact hdeadline) (by rw [hvcell, hrunning]; simp),
    hvstep, hvcell, hv, sendBoth_setRun]
  show State.work (sendBoth c (.golden st.siteCount) s) (sendBoth c (.golden st.siteCount) s).lots
    (vset (sendBoth c (.golden st.siteCount) s).runs r _) (vset (sendBoth c (.golden st.siteCount) s).cells c _)
    (sendBoth c (.golden st.siteCount) s).queue (sendBoth c (.golden st.siteCount) s).seqCounter = _
  rw [sendBoth_runs, sendBoth_cells]
  rfl

theorem askTarget_of_some {q t : Seq} {r : RunIx} {s : State} (h : (s.run r).target = some t) :
    askTarget q r s = if (q.toNat + 65536 - t.toNat) % 65536 ≤ 32767 then targetReport r s else s := by
  rw [askTarget, h]
  simp only [atOrPast_eq, decide_eq_true_iff]

/-- The closing target of a CLOSING run on a cell with no preparation closes its pass (R142, R144, R153). -/
theorem targetReport_of_closing {r : RunIx} {s : State} (hstate : (s.run r).state = .closing)
    (hprep : (s.cell (s.run r).cell).prep = none)
    (hdeadline : (s.cell (s.run r).cell).deadline.map (·.kind) = some .closing) :
    targetReport r s = passClose r (s.setCell (s.run r).cell { s.cell (s.run r).cell with deadline := none }) := by
  rw [targetReport, hstate, cancelRunDeadline, State.modCell, Cell.cancelRun_of_kind hprep hdeadline]

/-- A parked run is marked (R139, R142). -/
theorem targetReport_of_parked {r : RunIx} {s : State} (h : (s.run r).state = .stopped ∨ (s.run r).state = .suspended) :
    targetReport r s = s.modRun r fun x => { x with targetReached := true } := by
  rcases h with h | h <;> simp only [targetReport, h]

theorem targetReport_of_working {r : RunIx} {s : State} (h : (s.run r).state = .testing ∨ (s.run r).state = .ending) :
    targetReport r s = s := by
  rcases h with h | h <;> simp only [targetReport, h]

/-- The report of a number at or past the closing target (R71, R142). -/
theorem askTarget_rule (q : Seq) (r : RunIx) (s : State) :
    let run := s.run r
    let k := s.cell run.cell
    (run.target = none → askTarget q r s = s)
    ∧ ∀ t, run.target = some t →
      let d := (q.toNat + 65536 - t.toNat) % 65536
      (32768 ≤ d → askTarget q r s = s)
      ∧ (d ≤ 32767 → run.state = .stopped ∨ run.state = .suspended →
        askTarget q r s = s.setRun r { run with targetReached := true })
      ∧ (d ≤ 32767 → run.state = .testing ∨ run.state = .ending → askTarget q r s = s)
      ∧ (d ≤ 32767 → run.state = .closing → k.prep = none → k.deadline.map (·.kind) = some .closing →
        let st := stepOfRun s r
        (run.pass < st.maxRetest → 0 < retestSum st run → retestSum st run ≤ 16777215 → askTarget q r s =
          { sendOrder run.cell .handler (.retest (run.pass + 1) (retestSum st run) st.retestMask) s with
            runs := vset s.runs r { run.passOver with
              outstanding := retestSum st run, pass := run.pass + 1, state := .testing
              ledger := Vector.ofFn fun t => if st.trays[t] = .retest then 0 else run.ledger[t] }
            cells := vset s.cells run.cell { k with deadline := none } })
        ∧ ((st.maxRetest ≤ run.pass ∨ retestSum st run = 0) → askTarget q r s =
          { sendOrder run.cell .handler (.unload (lotOfRun s r).tag run.pos) s with
            runs := vset s.runs r { run.passOver with state := .ending }
            cells := vset s.cells run.cell { k with
              deadline := some ⟨.counts, s.timer + 1000 * s.profile.counts⟩ } })) := by
  intro run k
  refine ⟨fun h => by rw [askTarget, h], fun t ht => ?_⟩
  intro d
  have hask := askTarget_of_some (q := q) ht
  refine ⟨fun hd => hask.trans (if_neg (Nat.not_le.2 hd)), fun hd hstate => hask.trans ((if_pos hd).trans ?_),
    fun hd hstate => hask.trans ((if_pos hd).trans ?_), fun hd hstate hprep hdeadline => ?_⟩
  · exact targetReport_of_parked hstate
  · exact targetReport_of_working hstate
  · intro st
    rw [hask.trans (if_pos hd), targetReport_of_closing hstate hprep hdeadline]
    set v := s.setCell run.cell { k with deadline := none } with hv
    have hvcell : v.cell run.cell = { k with deadline := none } := setCell_cell ..
    have hvstep : stepOfRun v r = st := rfl
    have hvrun : v.run r = run := rfl
    refine ⟨fun hpass hsum hfits => ?_, fun hlast => ?_⟩
    · rw [passClose_further (s := v) hpass hsum hfits, hvrun, hvstep, hv, sendOrder_setCell _ _ _ _ _ (by rfl), setRun_work,
        setCell_work, work_work]
      simp only [work_lots, work_runs, work_cells, work_queue, work_seqCounter, sendOrder_runs, sendOrder_cells]
      rfl
    · rw [passClose_last (s := v) hlast, hvrun]
      have harm : (v.cell run.cell).armRun v.timer .counts (seconds v.profile.counts) =
          { k with deadline := some ⟨.counts, s.timer + 1000 * s.profile.counts⟩ } := by
        rw [hvcell, Cell.armRun_of_run (by simp [runDeadline]), seconds, Nat.mul_comm]
        rfl
      rw [harm, hv, sendOrder_setCell _ _ _ _ _ (by rfl), setRun_work, setCell_work, setCell_work, work_work, work_work]
      simp only [work_lots, work_runs, work_cells, work_queue, work_seqCounter, sendOrder_runs, sendOrder_cells, vset_vset]
      rfl

/-- Settles O48. -/
theorem checksRaiseAtTheBreach : Obligations.ChecksRaiseAtTheBreach :=
  ⟨fun _ _ _ hd => basisPoints_eq_iff hd, checkConsec_rule, checkWindow_rule, checkSites_rule, checkBins_rule,
    checkYield_rule, fun _ _ _ _ hlim hrun => divisors_pos hlim hrun, acceptTouchdown_rule, askGolden_rule, askTarget_rule⟩

end Sys2Proof.Machine
end

section
/-! PROOF. O49: PASS_END, the CLOSING deadline and the close of a pass (R139 to R144, R153). -/

set_option Elab.async false

namespace Sys2Proof.Machine

/-! ## PASS_END (R140, R141) -/

/-- A TESTING run after its PASS_END (R141). -/
def Run.ended (x : Run) (fed : Nat) (last : Seq) : Run :=
  { x with
    state := .closing, target := some last
    handlerFed := if x.pass = 0 then some fed else x.handlerFed }

/-- A run STOPPED from TESTING after its PASS_END (R141). -/
def Run.endedParked (x : Run) (fed : Nat) (last : Seq) : Run :=
  { x with
    stoppedFrom := some .closing, target := some last
    handlerFed := if x.pass = 0 then some fed else x.handlerFed }

theorem passEnded_of_testing {x : Run} {fed : Nat} {last : Seq} (h : x.state = .testing) :
    x.passEnded x.pass fed last = x.ended fed last := by
  rw [Run.passEnded, if_pos h, if_neg (by simp [h])]
  rfl

theorem passEnded_of_stopped {x : Run} {fed : Nat} {last : Seq} (h : x.state = .stopped) :
    x.passEnded x.pass fed last = x.endedParked fed last := by
  rw [Run.passEnded, if_neg (by simp [h]), if_pos h]
  rfl

theorem endPass_of_testing {c : CellIx} {r : RunIx} {fed : Nat} {last : Seq} {s : State}
    (h : (s.run r).state = .testing) : endPass c r (s.run r).pass fed last s =
      if targetTaken (s.cell c).expected last then passClose r (s.setRun r ((s.run r).ended fed last))
      else (s.setRun r ((s.run r).ended fed last)).setCell c
        ((s.cell c).armRun s.timer .closing (seconds s.profile.closing)) := by
  rw [endPass, State.modRun, passEnded_of_testing h]
  exact if_pos (by rw [setRun_run]; rfl)

theorem endPass_of_stopped {c : CellIx} {r : RunIx} {fed : Nat} {last : Seq} {s : State}
    (h : (s.run r).state = .stopped) : endPass c r (s.run r).pass fed last s =
      if targetTaken (s.cell c).expected last then
        s.setRun r { (s.run r).endedParked fed last with targetReached := true }
      else s.setRun r ((s.run r).endedParked fed last) := by
  have hrun : (s.setRun r ((s.run r).endedParked fed last)).run r = (s.run r).endedParked fed last := setRun_run ..
  have hset : (s.setRun r ((s.run r).endedParked fed last)).setRun r
      { (s.run r).endedParked fed last with targetReached := true } =
      s.setRun r { (s.run r).endedParked fed last with targetReached := true } :=
    congrArg (fun v => { s with runs := v }) (vset_vset s.runs r _ _)
  have hnot : ((s.run r).endedParked fed last).state ≠ .closing := by
    show (s.run r).state ≠ .closing
    rw [h]
    simp
  rw [endPass, State.modRun, passEnded_of_stopped h]
  refine (if_neg (by rw [hrun]; exact hnot)).trans ?_
  rw [State.modRun, hrun, hset]

theorem takesPassEnd_iff {x : Run} {pass : Nat} : x.takesPassEnd pass = true ↔
    (x.state = .testing ∨ (x.state = .stopped ∧ x.stoppedFrom = some .testing)) ∧ pass = x.pass := by
  simp [Run.takesPassEnd]

/-- A PASS_END from the handler of a cell with a current run. -/
theorem exec_passEnd {e : Envelope} {pass : Byte} {fed : BitVec 24} {last : Seq} {c : CellIx} {r : RunIx} {s : State}
    (h : fromStation (.passEnd e pass fed last) e c .handler s) :
    let u := metBy (.passEnd e pass fed last) e c .handler s
    (u.cell c).current = some r →
    exec (.passEnd e pass fed last) s =
      .next (if (s.run r).takesPassEnd pass.toNat then endPass c r pass.toNat fed.toNat last u else u) := by
  intro u hcur
  have hrun : u.run r = s.run r := metBy_run (.passEnd e pass fed last) e c .handler s r
  rw [exec_fromStation rfl h]
  show Host.Outcome.next (onPassEnd pass.toNat fed.toNat last c .handler u) = _
  unfold onPassEnd
  rw [hcur]
  dsimp only
  rw [hrun]

/-- A PASS_END of a TESTING run whose target has not been taken (R141). -/
theorem exec_passEnd_closing {e : Envelope} {pass : Byte} {fed : BitVec 24} {last : Seq} {c : CellIx} {r : RunIx} {s : State}
    (h : fromStation (.passEnd e pass fed last) e c .handler s) :
    let u := metBy (.passEnd e pass fed last) e c .handler s
    let k := u.cell c
    k.current = some r → (s.run r).state = .testing → pass.toNat = (s.run r).pass →
    (k.expected = none ∨ ∃ x, k.expected = some x ∧ 32768 ≤ (x.toNat + 131071 - last.toNat) % 65536) →
    exec (.passEnd e pass fed last) s =
      .next { u with
        runs := vset s.runs r ((s.run r).ended fed.toNat last)
        cells := vset u.cells c (k.armRun s.timer .closing (1000 * s.profile.closing)) } := by
  intro u k hcur htesting hpass hnot
  have hrun : u.run r = s.run r := metBy_run (.passEnd e pass fed last) e c .handler s r
  have htimer : u.timer = s.timer := metBy_timer (.passEnd e pass fed last) e c .handler s
  have hprofile : u.profile = s.profile := metBy_profile (.passEnd e pass fed last) e c .handler s
  have hruns : u.runs = s.runs := metBy_runs (.passEnd e pass fed last) e c .handler s
  have harm : (u.cell c).armRun u.timer .closing (seconds u.profile.closing) =
      k.armRun s.timer .closing (1000 * s.profile.closing) := by rw [htimer, hprofile, seconds, Nat.mul_comm]
  rw [exec_passEnd h hcur, if_pos (takesPassEnd_iff.2 ⟨.inl htesting, hpass⟩), hpass, ← hrun,
    endPass_of_testing (by rw [hrun]; exact htesting), targetTaken_eq_false hnot, harm]
  show Host.Outcome.next (State.work u u.lots (vset u.runs r _) (vset u.cells c _) u.queue u.seqCounter) = _
  rw [hruns, hrun]
  rfl

/-- A PASS_END of a TESTING run whose target has been taken closes its pass (R141, R144). -/
theorem exec_passEnd_closes {e : Envelope} {pass : Byte} {fed : BitVec 24} {last x : Seq} {c : CellIx} {r : RunIx}
    {s : State} (h : fromStation (.passEnd e pass fed last) e c .handler s) :
    let u := metBy (.passEnd e pass fed last) e c .handler s
    let k := u.cell c
    k.current = some r → (s.run r).state = .testing → pass.toNat = (s.run r).pass → k.expected = some x →
    (x.toNat + 131071 - last.toNat) % 65536 ≤ 32767 →
    exec (.passEnd e pass fed last) s = .next (passClose r (u.setRun r ((s.run r).ended fed.toNat last))) := by
  intro u k hcur htesting hpass hexpected htaken
  have hrun : u.run r = s.run r := metBy_run (.passEnd e pass fed last) e c .handler s r
  rw [exec_passEnd h hcur, if_pos (takesPassEnd_iff.2 ⟨.inl htesting, hpass⟩), hpass, ← hrun,
    endPass_of_testing (by rw [hrun]; exact htesting), show (u.cell c).expected = some x from hexpected, targetTaken_of_some,
    if_pos (decide_eq_true htaken)]

/-- The same, into a further pass. -/
theorem exec_passEnd_further {e : Envelope} {pass : Byte} {fed : BitVec 24} {last x : Seq} {c : CellIx} {r : RunIx}
    {s : State} (h : fromStation (.passEnd e pass fed last) e c .handler s) :
    let u := metBy (.passEnd e pass fed last) e c .handler s
    let k := u.cell c
    let run := s.run r
    let st := stepOfRun s r
    k.current = some r → run.state = .testing → pass.toNat = run.pass → k.expected = some x →
    (x.toNat + 131071 - last.toNat) % 65536 ≤ 32767 → run.cell = c → run.pass < st.maxRetest → 0 < retestSum st run →
    retestSum st run ≤ 16777215 →
    exec (.passEnd e pass fed last) s =
      .next { sendOrder c .handler (.retest (run.pass + 1) (retestSum st run) st.retestMask) u with
        runs := vset s.runs r { (run.ended fed.toNat last).passOver with
          outstanding := retestSum st run, pass := run.pass + 1, state := .testing
          ledger := Vector.ofFn fun t => if st.trays[t] = .retest then 0 else run.ledger[t] } } := by
  intro u k run st hcur htesting hpass hexpected htaken hcell hmore hsum hfits
  have hruns : u.runs = s.runs := metBy_runs (.passEnd e pass fed last) e c .handler s
  have hstepu : stepOfRun u r = st := metBy_stepOfRun (.passEnd e pass fed last) e c .handler s r
  have hrun : u.run r = s.run r := metBy_run (.passEnd e pass fed last) e c .handler s r
  set v := u.setRun r (run.ended fed.toNat last) with hv
  have hvrun : v.run r = run.ended fed.toNat last := setRun_run ..
  have hvstep : stepOfRun v r = st := by
    rw [← hstepu, stepOfRun, lotOfRun, hvrun, stepOfRun, lotOfRun, hrun]
    rfl
  rw [exec_passEnd_closes h hcur htesting hpass hexpected htaken, ← hv,
    passClose_further (s := v) (by rw [hvrun, hvstep]; exact hmore) (by rw [hvrun, hvstep]; exact hsum)
      (by rw [hvrun, hvstep]; exact hfits), hvrun, hvstep, show (run.ended fed.toNat last).cell = c from hcell, hv,
    sendOrder_setRun, setRun_work, setRun_work, work_work]
  simp only [work_lots, work_runs, work_cells, work_queue, work_seqCounter, sendOrder_runs, vset_vset, hruns]
  rfl

/-- The same, into the run end. -/
theorem exec_passEnd_last {e : Envelope} {pass : Byte} {fed : BitVec 24} {last x : Seq} {c : CellIx} {r : RunIx}
    {s : State} (h : fromStation (.passEnd e pass fed last) e c .handler s) :
    let u := metBy (.passEnd e pass fed last) e c .handler s
    let k := u.cell c
    let run := s.run r
    let st := stepOfRun s r
    k.current = some r → run.state = .testing → pass.toNat = run.pass → k.expected = some x →
    (x.toNat + 131071 - last.toNat) % 65536 ≤ 32767 → run.cell = c → (st.maxRetest ≤ run.pass ∨ retestSum st run = 0) →
    exec (.passEnd e pass fed last) s =
      .next { sendOrder c .handler (.unload (lotOfRun s r).tag run.pos) u with
        runs := vset s.runs r { (run.ended fed.toNat last).passOver with state := .ending }
        cells := vset u.cells c (k.armRun s.timer .counts (1000 * s.profile.counts)) } := by
  intro u k run st hcur htesting hpass hexpected htaken hcell hlast
  have htimer : u.timer = s.timer := metBy_timer (.passEnd e pass fed last) e c .handler s
  have hprofile : u.profile = s.profile := metBy_profile (.passEnd e pass fed last) e c .handler s
  have hruns : u.runs = s.runs := metBy_runs (.passEnd e pass fed last) e c .handler s
  have hstepu : stepOfRun u r = st := metBy_stepOfRun (.passEnd e pass fed last) e c .handler s r
  have hlotu : lotOfRun u r = lotOfRun s r := metBy_lotOfRun (.passEnd e pass fed last) e c .handler s r
  have hrun : u.run r = s.run r := metBy_run (.passEnd e pass fed last) e c .handler s r
  set v := u.setRun r (run.ended fed.toNat last) with hv
  have hvrun : v.run r = run.ended fed.toNat last := setRun_run ..
  have hvlot : lotOfRun v r = lotOfRun s r := by
    rw [← hlotu, lotOfRun, hvrun, lotOfRun, hrun]
    rfl
  have hvstep : stepOfRun v r = st := by
    rw [← hstepu, stepOfRun, hvlot, stepOfRun, hlotu]
    rfl
  have hvcell : v.cell c = k := setRun_cell ..
  have hvtimer : v.timer = s.timer := htimer
  have hvprofile : v.profile = s.profile := hprofile
  rw [exec_passEnd_closes h hcur htesting hpass hexpected htaken, ← hv,
    passClose_last (s := v) (by rw [hvrun, hvstep]; exact hlast), hvrun, hvlot,
    show (run.ended fed.toNat last).cell = c from hcell, hvcell, hvtimer, hvprofile, seconds, Nat.mul_comm, hv,
    sendOrder_setRun, setRun_work, setRun_work, setCell_work, work_work, work_work]
  simp only [work_lots, work_runs, work_cells, work_queue, work_seqCounter, sendOrder_runs, sendOrder_cells, vset_vset, hruns]
  rfl

/-- A PASS_END of a run STOPPED from TESTING (R139, R141). -/
theorem exec_passEnd_parked {e : Envelope} {pass : Byte} {fed : BitVec 24} {last : Seq} {c : CellIx} {r : RunIx} {s : State}
    (h : fromStation (.passEnd e pass fed last) e c .handler s) :
    let u := metBy (.passEnd e pass fed last) e c .handler s
    let k := u.cell c
    k.current = some r → (s.run r).state = .stopped → (s.run r).stoppedFrom = some .testing →
    pass.toNat = (s.run r).pass →
    exec (.passEnd e pass fed last) s =
      .next { u with runs := vset s.runs r (if targetTaken k.expected last then
        { (s.run r).endedParked fed.toNat last with targetReached := true } else (s.run r).endedParked fed.toNat last) } := by
  intro u k hcur hstopped hfrom hpass
  have hrun : u.run r = s.run r := metBy_run (.passEnd e pass fed last) e c .handler s r
  have hruns : u.runs = s.runs := metBy_runs (.passEnd e pass fed last) e c .handler s
  rw [exec_passEnd h hcur, if_pos (takesPassEnd_iff.2 ⟨.inr ⟨hstopped, hfrom⟩, hpass⟩), hpass, ← hrun,
    endPass_of_stopped (by rw [hrun]; exact hstopped), hrun, ← hruns]
  cases targetTaken (u.cell c).expected last <;> rfl

/-! ## The CLOSING deadline (R143) -/

/-- A FINISH hold of run scope on a lot at work only joins the list (R8, R13). -/
theorem raiseOnRun_data {l : LotSlot} {p : RunPlace} {r : RunIx} {value : Option Nat} {s : State}
    (hlot : (s.run r).lot = l) (hpos : (s.run r).pos = p) (hstate : (s.lot l).state = .running)
    (hnew : (s.lot l).holdsKind .data (some p) = false) (hfree : (s.lot l).lotBlocked = false) (hplace : inPlace l s) :
    raiseOnRun r .data value s = withHold l .data (some p) .finish value s := by
  have htakes : (s.lot l).state.takesHold .data = true := by rw [hstate]; rfl
  set w := withHold l .data (some p) .finish value s with hw
  have hwlot : w.lot l = { s.lot l with holds := (s.lot l).holds ++ [newHold s l .data (some p) .finish value] } :=
    withHold_lot ..
  have hwfree : (w.lot l).lotBlocked = false := by
    rw [hwlot, lotBlocked_append, hfree]
    rfl
  have hqueue : queueTest l w = w := by
    refine queueTest_inPlace ?_
    have hbelongs : belongsInQueue (w.lot l) = belongsInQueue (s.lot l) := by
      rw [belongsInQueue, belongsInQueue, hwfree, hfree, hwlot]
    rw [hbelongs, ← hplace]
    simp [hw, withHold]
  rw [raiseOnRun, hlot, hpos, raiseHold_of_new htakes hnew, addHold_of_unfinished (by simp [hstate])]
  show heldTest l (queueTest l w) = w
  rw [hqueue, heldTest_keeps (.inr (.inl hwfree))]

theorem retestSum_eq_zero {st : Step} {x : Run} (h : ∀ t : Fin 8, st.trays[t] = .retest → x.ledger[t] = 0) :
    retestSum st x = 0 := by
  refine List.sum_eq_zero fun n hn => ?_
  obtain ⟨t, ht, rfl⟩ := List.mem_map.1 hn
  exact h t (by simpa using (List.mem_filter.1 ht).2)

/-- The CLOSING deadline of a run whose pass is its last (R143, R144, R153). -/
theorem exec_closingExpiry {c : CellIx} {d : Deadline} {l : LotSlot} {p : RunPlace} {r : RunIx} {s : State}
    (hdeadline : (s.cell c).deadline = some d) (hkind : d.kind = .closing) (hdue : d.expiry ≤ s.timer)
    (hcur : (s.cell c).current = some r) (honly : onlyRun l p r s) (hrun : (s.run r).state = .closing)
    (hcell : (s.run r).cell = c) (hstate : (s.lot l).state = .running)
    (hnew : (s.lot l).holdsKind .data (some p) = false) (hfree : (s.lot l).lotBlocked = false) (hplace : inPlace l s)
    (hlast : (stepOf s (s.lot l)).maxRetest ≤ (s.run r).pass ∨ retestSum (stepOf s (s.lot l)) (s.run r) = 0) :
    exec (.closingDeadlineExpiry c) s = .next
      ((sendOrder c .handler (.unload (s.lot l).tag p)
        (postNotice (.holdRaised (s.lot l).tag .data (some p) .finish none) s)).work
        (vset s.lots l { s.lot l with holds := (s.lot l).holds ++ [newHold s l .data (some p) .finish none] })
        (vset s.runs r { (s.run r).passOver with state := .ending })
        (vset s.cells c { s.cell c with deadline := some ⟨.counts, s.timer + 1000 * s.profile.counts⟩ }) s.queue
        s.seqCounter) := by
  obtain ⟨-, hlot, hpos⟩ := honly
  set v := s.setCell c { s.cell c with deadline := none } with hv
  have hvcell : v.cell c = { s.cell c with deadline := none } := setCell_cell ..
  have hspent : onCurrent c closingExpired (spendDeadline c s) = closingExpired r v := by
    show onCurrent c closingExpired v = _
    rw [onCurrent, hvcell]
    dsimp only
    rw [hcur]
  have hexec : exec (.closingDeadlineExpiry c) s = .next (passClose r (raiseOnRun r .data none v)) := by
    refine congrArg Host.Outcome.next ((if_pos (deadlineDue_eq_true hdeadline (by rw [hkind]; rfl) hdue)).trans ?_)
    rw [hspent, closingExpired, if_pos (by exact hrun)]
  set w := withHold l .data (some p) .finish none v with hw
  have hwrun : w.run r = s.run r := withHold_run ..
  have hwlot : w.lot l = { s.lot l with holds := (s.lot l).holds ++ [newHold s l .data (some p) .finish none] } :=
    withHold_lot ..
  have hwlotOf : lotOfRun w r = { s.lot l with holds := (s.lot l).holds ++ [newHold s l .data (some p) .finish none] } := by
    rw [lotOfRun, hwrun, hlot, hwlot]
  have hwstep : stepOfRun w r = stepOf s (s.lot l) := by
    rw [stepOfRun, hwlotOf]
    exact stepOf_congr (by simp [hw, hv, withHold]) rfl rfl
  have hwcell : w.cell c = { s.cell c with deadline := none } := by rw [hw, withHold_cell, hvcell]
  have harm : (w.cell c).armRun w.timer .counts (seconds w.profile.counts) =
      { s.cell c with deadline := some ⟨.counts, s.timer + 1000 * s.profile.counts⟩ } := by
    rw [hwcell, Cell.armRun_of_run (by simp [runDeadline]), seconds, Nat.mul_comm, hw, withHold]
    simp [hv]
  rw [hexec, raiseOnRun_data (s := v) (by exact hlot) (by exact hpos) (by exact hstate) (by exact hnew) (by exact hfree)
    (by exact hplace), ← hw, passClose_last (by rw [hwrun, hwstep]; exact hlast), hwrun, hcell, hpos, hwlotOf, harm, hw,
    withHold_eq, hv, postNotice_setCell, sendOrder_setLot, sendOrder_setCell _ _ _ _ _ (by rw [postNotice_cell]; rfl),
    setCell_work, setLot_work, setRun_work, setCell_work]
  simp only [work_work, work_lots, work_runs, work_cells, work_queue, work_seqCounter, vset_vset, sendOrder_lots,
    sendOrder_runs, sendOrder_cells, sendOrder_queue, sendOrder_seqCounter, postNotice_lots, postNotice_runs,
    postNotice_cells, postNotice_queue, postNotice_seqCounter]
  rfl

/-- Settles O49. -/
theorem passEndsCloseThePass : Obligations.PassEndsCloseThePass := by
  refine ⟨fun e pass fed last c s => ?_, fun c d l p r s => ?_⟩
  · intro i
    refine ⟨fun h => exec_fromStation rfl h, fun h => ?_⟩
    intro u k
    refine ⟨fun hcur => ?_, fun r hcur => ?_⟩
    · rw [exec_fromStation rfl h]
      show Host.Outcome.next (onPassEnd pass.toNat fed.toNat last c .handler u) = _
      unfold onPassEnd
      rw [show (u.cell c).current = none from hcur]
    intro run
    refine ⟨fun hnot => ?_, fun htesting hpass hnot hdeadline => ?_, fun d j htesting hpass hnot hd hkind hprep => ?_,
      fun hstopped hfrom hpass => ?_, fun x htesting hpass hexpected htaken hcell => ?_⟩
    · rw [exec_passEnd h hcur, if_neg]
      rw [takesPassEnd_iff]
      rintro ⟨hstate, hpass⟩
      rcases hnot with h | ⟨ht, hs⟩ | ⟨hs, hf⟩
      · exact h hpass
      · exact hstate.elim ht fun h => hs h.1
      · exact hstate.elim (fun ht => absurd (hs.symm.trans ht) (by simp)) fun h => hf h.2
    · rw [exec_passEnd_closing h hcur htesting hpass hnot, Cell.armRun_of_run hdeadline]
      rfl
    · rw [exec_passEnd_closing h hcur htesting hpass hnot, Cell.armRun_of_stage hd hkind hprep]
      rfl
    · intro ended
      have hparked := exec_passEnd_parked h hcur hstopped hfrom hpass
      refine ⟨fun hnot => ?_, fun x hexpected htaken => ?_⟩
      · rw [hparked, targetTaken_eq_false hnot]
        rfl
      · rw [hparked, show ((metBy i e c .handler s).cell c).expected = some x from hexpected, targetTaken_of_some,
          if_pos (decide_eq_true htaken)]
        rfl
    · intro st sum closed
      refine ⟨fun hmore hsum hfits =>
        exec_passEnd_further h hcur htesting hpass hexpected htaken hcell hmore hsum hfits, fun hlast => ?_⟩
      intro ended
      have hexec := exec_passEnd_last h hcur htesting hpass hexpected htaken hcell hlast
      refine ⟨fun hdeadline => ?_, fun d j hd hkind hprep => ?_⟩
      · rw [hexec, Cell.armRun_of_run hdeadline]
        rfl
      · rw [hexec, Cell.armRun_of_stage hd hkind hprep]
        rfl
  · intro k x hdeadline hkind hdue hcur honly hrun hcell hstate hnew hfree hplace hlast
    have hseq : (sendOrder c .handler (.unload x.tag p)
        (postNotice (.holdRaised x.tag .data (some p) .finish none) s)).seqCounter = s.seqCounter := by simp
    have hqueue : (sendOrder c .handler (.unload x.tag p)
        (postNotice (.holdRaised x.tag .data (some p) .finish none) s)).queue = s.queue := by simp
    rw [exec_closingExpiry hdeadline hkind hdue hcur honly hrun hcell hstate hnew hfree hplace
      (hlast.imp id retestSum_eq_zero)]
    show _ = Host.Outcome.next (State.work _ _ _ _ _ _)
    rw [← hqueue, ← hseq]
    rfl

end Sys2Proof.Machine
end

section
/-! PROOF. O50: RUN_COUNTS and the COUNTS deadline (R147 to R150). -/

set_option Elab.async false

namespace Sys2Proof.Machine

/-! ## The judgement of the counts (R148) -/

/-- Two counts no further apart than a tolerance. -/
def nearby (tol a b : Nat) : Prop := a ≤ b + tol ∧ b ≤ a + tol

/-- The handler's counts agree with the run's (R148). -/
def countsAgree (lim : LimitSet) (x : Run) (fed : Nat) (trays : Vector (BitVec 24) 8) : Prop :=
  nearby lim.inputTol fed x.tested ∧ (∀ t : Fin 8, nearby lim.trayTol trays[t].toNat x.ledger[t])
    ∧ x.shortfall ≤ lim.trayTol ∧ x.surplus ≤ lim.trayTol

theorem distance_lt_iff {tol a b : Nat} : tol < distance a b ↔ ¬ nearby tol a b := by
  rw [distance, nearby]
  omega

theorem failsReconciliation_iff {lim : LimitSet} {x : Run} {fed : Nat} {trays : Vector (BitVec 24) 8} :
    failsReconciliation lim x fed trays = true ↔ ¬ countsAgree lim x fed trays := by
  simp only [failsReconciliation, countsAgree, Bool.or_eq_true, decide_eq_true_iff, List.any_eq_true, List.mem_finRange,
    true_and, distance_lt_iff, not_and_or, not_forall, not_le, or_assoc]

/-! ## A run that closes under RECON (R18, R150) -/

theorem Cell.cancelRun_spends {k : Cell} {x : DeadlineKind} (hprep : k.prep = none) (h : ∀ d ∈ k.deadline, d.kind = x) :
    k.cancelRun x = { k with deadline := none } := by
  cases hd : k.deadline with
  | none => rw [Cell.cancelRun_of_none hd hprep, ← hd]
  | some d => exact Cell.cancelRun_of_kind hprep (by simp [hd, h d (by simp [hd])])

/-- The one open run of a lot, ENDING, closes behind a RECON hold, on a cell with nothing to pop or match. -/
theorem closeRun_of_recon {l : LotSlot} {p : RunPlace} {r : RunIx} {s : State} (honly : onlyRun l p r s)
    (hrun : (s.run r).state = .ending) (hstate : (s.lot l).state = .running)
    (hnew : (s.lot l).holdsKind .recon none = false) (hmore : (s.lot l).closedRuns + 1 < (s.lot l).runsPerStep)
    (hcur : (s.cell (s.run r).cell).current = some r) (hcell : (s.cell (s.run r).cell).state = .running)
    (hstack : (s.cell (s.run r).cell).stack = []) (hdeadline : runDeadline (s.cell (s.run r).cell))
    (hprep : (s.cell (s.run r).cell).prep = none) (hchanged : (s.cell (s.run r).cell).changed = false)
    (hno : nothingFor (s.run r).cell s) :
    closeRun r (raiseOnLot l .recon none s) =
      (postNotice (.holdRaised (s.lot l).tag .recon none .finish none) s).work
        (vset s.lots l { (s.lot l).withClosed (stepOf s (s.lot l)) (s.run r) with
          state := .held, holds := (s.lot l).holds ++ [newHold s l .recon none .finish none] })
        (vset s.runs r .free)
        (vset s.cells (s.run r).cell { ((s.cell (s.run r).cell).idleAt s.timer).without r with deadline := none })
        (s.queue.filter (· ≠ l)) s.seqCounter := by
  rw [raiseOnLot, raiseRecon_of_working (.inr hstate) hnew honly (by rw [hrun]; rfl) (.inl rfl)]
  set v := queueRemove l (withHold l .recon none .finish none s) with hv
  have hrunv : v.run r = s.run r := by simp [hv]
  have hcellv : v.cell (s.run r).cell = s.cell (s.run r).cell := by simp [hv]
  have hlotv : v.lot l = { s.lot l with holds := (s.lot l).holds ++ [newHold s l .recon none .finish none] } := by
    simp [hv]
  have hlots (m : LotSlot) : (v.lot m).route = (s.lot m).route ∧ (v.lot m).step = (s.lot m).step := by
    by_cases hm : l = m
    · subst hm; rw [hlotv]; exact ⟨rfl, rfl⟩
    · rw [hv, queueRemove_lot, withHold, postNotice_lot, setLot_lot_ne _ _ hm]; exact ⟨rfl, rfl⟩
  have hroutes : v.routes = s.routes := by simp [hv, queueRemove, withHold]
  have hnov : nothingFor (s.run r).cell v := by
    refine nothingFor_congr (s := s) (by rw [hcellv]) (by rw [hcellv]) (fun m hm => ?_) hroutes hlots hno
    have hm : m ∈ s.queue ∧ m ≠ l := by simpa [hv, queueRemove, withHold] using hm
    exact hm.1
  have honlyv : onlyRun l p r v := ⟨fun q => by rw [hlotv]; exact honly.1 q, by rw [hrunv]; exact honly.2⟩
  have hstep : stepOf v (v.lot l) = stepOf s (s.lot l) := stepOf_congr hroutes (hlots l).1 (hlots l).2
  have hblocked : (v.lot l).lotBlocked = true := withHold_lotBlocked (by simp)
  rw [closeRun_of_further honlyv (by rw [hlotv]; exact .inr hstate) (by rw [hlotv]; exact hmore)
    (by rw [hrunv, hcellv]; exact hcur) (by rw [hrunv, hcellv]; exact hcell) (by rw [hrunv, hcellv]; exact hstack)
    (by rw [hrunv, hcellv]; exact hdeadline) (by rw [hrunv, hcellv]; exact hprep)
    (by rw [hrunv, hcellv]; exact hchanged) (by rw [hrunv]; exact hnov), hstep, Lot.closedHeld, hblocked, if_pos rfl,
    hrunv, hcellv, hlotv, hv, withHold_eq]
  simp only [setLot_work, queueRemove_work, work_work, work_lots, work_runs, work_cells, work_queue, work_seqCounter,
    work_timer, vset_vset, postNotice_lots, postNotice_runs, postNotice_cells, postNotice_queue, postNotice_seqCounter,
    postNotice_timer]
  rfl

/-! ## RUN_COUNTS (R147, R148) -/

/-- The state in which the counts of the current run are judged. -/
def countsTaken (c : CellIx) (r : RunIx) (fed : Nat) (u : State) : State :=
  (u.setCell c { u.cell c with deadline := none }).setRun r { u.run r with handlerFed := some fed }

theorem judgeCounts_eq {c : CellIx} {r : RunIx} {fed : Nat} {trays : Vector (BitVec 24) 8} {u : State}
    (hprep : (u.cell c).prep = none) (hdeadline : ∀ d ∈ (u.cell c).deadline, d.kind = .counts) :
    judgeCounts c r fed trays u =
      closeRun r (if failsReconciliation (limitsOf u (lotOfRun u r)) { u.run r with handlerFed := some fed } fed trays then
        raiseOnLot (u.run r).lot .recon none (countsTaken c r fed u) else countsTaken c r fed u) := by
  have hrun : (countsTaken c r fed u).run r = { u.run r with handlerFed := some fed } := setRun_run ..
  have hlot : lotOfRun (countsTaken c r fed u) r = lotOfRun u r := by
    rw [lotOfRun, hrun]
    rfl
  rw [judgeCounts, cancelRunDeadline, State.modCell, Cell.cancelRun_spends hprep hdeadline]
  show closeRun r (if failsReconciliation (limitsOf (countsTaken c r fed u) (lotOfRun (countsTaken c r fed u) r))
    ((countsTaken c r fed u).run r) fed trays then
      raiseOnLot ((countsTaken c r fed u).run r).lot .recon none (countsTaken c r fed u) else countsTaken c r fed u) = _
  rw [hrun, hlot]
  rfl

/-- RUN_COUNTS of the handler of a cell whose current run is ENDING. -/
theorem exec_runCounts {e : Envelope} {fed : BitVec 24} {trays : Vector (BitVec 24) 8} {c : CellIx} {r : RunIx} {s : State}
    (h : fromStation (.runCounts e fed trays) e c .handler s) :
    let u := metBy (.runCounts e fed trays) e c .handler s
    (u.cell c).current = some r → (s.run r).state = .ending →
    exec (.runCounts e fed trays) s = .next (judgeCounts c r fed.toNat trays u) := by
  intro u hcur hending
  have hrun : u.run r = s.run r := metBy_run (.runCounts e fed trays) e c .handler s r
  rw [exec_fromStation rfl h]
  show Host.Outcome.next (onRunCounts fed.toNat trays c .handler u) = _
  unfold onRunCounts
  rw [hcur]
  exact congrArg Host.Outcome.next (if_pos (by rw [hrun]; exact hending))

theorem exec_runCounts_unheard {e : Envelope} {fed : BitVec 24} {trays : Vector (BitVec 24) 8} {c : CellIx} {s : State}
    (h : fromStation (.runCounts e fed trays) e c .handler s) :
    let u := metBy (.runCounts e fed trays) e c .handler s
    (∀ r ∈ (u.cell c).current, (s.run r).state ≠ .ending) → exec (.runCounts e fed trays) s = .next u := by
  intro u hnot
  rw [exec_fromStation rfl h]
  show Host.Outcome.next (onRunCounts fed.toNat trays c .handler u) = _
  unfold onRunCounts
  cases hcur : (u.cell c).current with
  | none => rfl
  | some r =>
    have hrun : u.run r = s.run r := metBy_run (.runCounts e fed trays) e c .handler s r
    exact congrArg Host.Outcome.next (if_neg (by rw [hrun]; exact hnot r (by simp [hcur])))

/-! ### The state in which they are judged -/

section
variable (e : Envelope) (fed : BitVec 24) (trays : Vector (BitVec 24) 8) (c : CellIx) (r : RunIx) (s : State)

/-- The state in which the counts of a report are judged. -/
def countsHeard : State := countsTaken c r fed.toNat (metBy (.runCounts e fed trays) e c .handler s)

theorem countsHeard_run : (countsHeard e fed trays c r s).run r = { s.run r with handlerFed := some fed.toNat } := by
  rw [countsHeard, countsTaken, setRun_run, metBy_run]

theorem countsHeard_lot (l : LotSlot) : (countsHeard e fed trays c r s).lot l = s.lot l := by
  rw [countsHeard, countsTaken, setRun_lot, setCell_lot, metBy_lot]

theorem countsHeard_cell : (countsHeard e fed trays c r s).cell c =
    { (metBy (.runCounts e fed trays) e c .handler s).cell c with deadline := none } := by
  rw [countsHeard, countsTaken, setRun_cell, setCell_cell]

theorem countsHeard_routes : (countsHeard e fed trays c r s).routes = s.routes :=
  metBy_routes (.runCounts e fed trays) e c .handler s

theorem countsHeard_stepOf (x : Lot) : stepOf (countsHeard e fed trays c r s) x = stepOf s x :=
  stepOf_congr (countsHeard_routes e fed trays c r s) rfl rfl

theorem countsHeard_onlyRun {l : LotSlot} {p : RunPlace} (h : onlyRun l p r s) :
    onlyRun l p r (countsHeard e fed trays c r s) := by
  rw [onlyRun, countsHeard_lot, countsHeard_run]
  exact h

theorem countsHeard_nothingFor (h : nothingFor c s) : nothingFor c (countsHeard e fed trays c r s) := by
  refine nothingFor_congr (s := s) ?_ ?_ (fun m hm => ?_) (countsHeard_routes e fed trays c r s) (fun m => ?_) h
  · rw [countsHeard_cell, metBy_cell, hearing_draining]
  · rw [countsHeard_cell, metBy_cell, hearing_cls]
  · simpa [countsHeard, countsTaken] using hm
  · rw [countsHeard_lot]
    exact ⟨rfl, rfl⟩
end

/-- The counts of an ENDING run, judged in their state. -/
theorem exec_runCounts_judged {e : Envelope} {fed : BitVec 24} {trays : Vector (BitVec 24) 8} {c : CellIx} {r : RunIx}
    {l : LotSlot} {s : State} (h : fromStation (.runCounts e fed trays) e c .handler s) :
    let u := metBy (.runCounts e fed trays) e c .handler s
    let v := countsHeard e fed trays c r s
    (u.cell c).current = some r → (s.run r).state = .ending → (s.run r).lot = l → (u.cell c).prep = none →
    (∀ d ∈ (u.cell c).deadline, d.kind = .counts) →
    (countsAgree (limitsOf s (s.lot l)) (s.run r) fed.toNat trays →
      exec (.runCounts e fed trays) s = .next (closeRun r v))
    ∧ (¬ countsAgree (limitsOf s (s.lot l)) (s.run r) fed.toNat trays →
      exec (.runCounts e fed trays) s = .next (closeRun r (raiseOnLot l .recon none v))) := by
  intro u v hcur hending hlot hprep hdeadline
  subst hlot
  have hrun : u.run r = s.run r := metBy_run (.runCounts e fed trays) e c .handler s r
  have hlim : limitsOf u (lotOfRun u r) = limitsOf s (s.lot (s.run r).lot) := by
    rw [show lotOfRun u r = lotOfRun s r from metBy_lotOfRun (.runCounts e fed trays) e c .handler s r]
    exact metBy_limitsOf (.runCounts e fed trays) e c .handler s _
  have hexec : exec (.runCounts e fed trays) s = .next (closeRun r
      (if failsReconciliation (limitsOf s (s.lot (s.run r).lot)) { s.run r with handlerFed := some fed.toNat } fed.toNat trays
       then raiseOnLot (s.run r).lot .recon none v else v)) := by
    rw [exec_runCounts h hcur hending, judgeCounts_eq hprep hdeadline, hlim, hrun]
    rfl
  rw [hexec]
  refine ⟨fun hagree => ?_, fun hdiffer => ?_⟩
  · exact congrArg (fun t => Host.Outcome.next (closeRun r t)) (if_neg fun hf => failsReconciliation_iff.1 hf hagree)
  · exact congrArg (fun t => Host.Outcome.next (closeRun r t)) (if_pos (failsReconciliation_iff.2 hdiffer))

/-- The counts of the one open run of a lot with further positions, on a cell with nothing to pop or match. -/
theorem exec_runCounts_closes {e : Envelope} {fed : BitVec 24} {trays : Vector (BitVec 24) 8} {c : CellIx} {l : LotSlot}
    {p : RunPlace} {r : RunIx} {s : State} (h : fromStation (.runCounts e fed trays) e c .handler s) :
    let u := metBy (.runCounts e fed trays) e c .handler s
    let k := u.cell c
    let x := s.lot l
    let run := { s.run r with handlerFed := some fed.toNat }
    onlyRun l p r s → (s.run r).state = .ending → (s.run r).cell = c → x.state = .running → x.lotBlocked = false →
    x.closedRuns + 1 < x.runsPerStep → k.state = .running → k.current = some r → k.stack = [] → k.prep = none →
    (∀ d ∈ k.deadline, d.kind = .counts) → k.changed = false → nothingFor c s →
    (countsAgree (limitsOf s x) (s.run r) fed.toNat trays → exec (.runCounts e fed trays) s = .next
      (u.work (vset s.lots l (x.withClosed (stepOf s x) run)) (vset s.runs r .free)
        (vset u.cells c { (k.idleAt s.timer).without r with deadline := none }) u.queue u.seqCounter))
    ∧ (¬ countsAgree (limitsOf s x) (s.run r) fed.toNat trays → x.holdsKind .recon none = false →
      exec (.runCounts e fed trays) s = .next
        ((postNotice (.holdRaised x.tag .recon none .finish none) u).work
          (vset s.lots l { x.withClosed (stepOf s x) run with
            state := .held, holds := x.holds ++ [newHold s l .recon none .finish none] })
          (vset s.runs r .free) (vset u.cells c { (k.idleAt s.timer).without r with deadline := none })
          (s.queue.filter (· ≠ l)) u.seqCounter)) := by
  intro u k x run honly hending hcell hstate hfree hmore hrunning hcur hstack hprep hdeadline hchanged hno
  obtain ⟨hagree, hdiffer⟩ := exec_runCounts_judged (l := l) h hcur hending honly.2.1 hprep hdeadline
  set v := countsHeard e fed trays c r s with hv
  have hvrun : v.run r = run := countsHeard_run ..
  have hvlot : v.lot l = x := countsHeard_lot ..
  have hvcell : v.cell c = { k with deadline := none } := countsHeard_cell ..
  have hvstep : stepOf v x = stepOf s x := countsHeard_stepOf ..
  have hvonly : onlyRun l p r v := countsHeard_onlyRun _ _ _ _ _ _ honly
  have hvno : nothingFor c v := countsHeard_nothingFor _ _ _ _ _ _ hno
  have hrcell : run.cell = c := hcell
  have htimer : u.timer = s.timer := metBy_timer (.runCounts e fed trays) e c .handler s
  have hvtimer : v.timer = s.timer := htimer
  have hlots : u.lots = s.lots := metBy_lots (.runCounts e fed trays) e c .handler s
  have hruns : u.runs = s.runs := metBy_runs (.runCounts e fed trays) e c .handler s
  have hqueue : u.queue = s.queue := metBy_queue (.runCounts e fed trays) e c .handler s
  have hvform : v = u.work u.lots (vset u.runs r run) (vset u.cells c { k with deadline := none }) u.queue u.seqCounter := by
    rw [hv, countsHeard, countsTaken, setRun_work, setCell_work, work_work,
      show (metBy (.runCounts e fed trays) e c .handler s).run r = s.run r from
        metBy_run (.runCounts e fed trays) e c .handler s r]
    rfl
  refine ⟨fun ha => ?_, fun hd hnew => ?_⟩
  · rw [hagree ha, closeRun_of_further hvonly (by rw [hvlot]; exact .inr hstate) (by rw [hvlot]; exact hmore)
      (by rw [hvrun, hrcell, hvcell]; exact hcur) (by rw [hvrun, hrcell, hvcell]; exact hrunning)
      (by rw [hvrun, hrcell, hvcell]; exact hstack) (by rw [hvrun, hrcell, hvcell]; simp [runDeadline])
      (by rw [hvrun, hrcell, hvcell]; exact hprep) (by rw [hvrun, hrcell, hvcell]; exact hchanged)
      (by rw [hvrun, hrcell]; exact hvno), hvrun, hrcell, hvlot, hvcell, hvstep, hvtimer, Lot.closedHeld, hfree, if_neg (by simp),
      hvform]
    simp only [work_work, work_lots, work_runs, work_cells, work_queue, work_seqCounter, vset_vset, hlots, hruns]
    rfl
  · have hnewHold : newHold v l .recon none .finish none = newHold s l .recon none .finish none := by
      rw [newHold, newHold, hvlot]
      exact congrArg (fun t => (⟨.recon, none, .finish, x.step, t, none⟩ : Hold))
        (metBy_floorClock (.runCounts e fed trays) e c .handler s)
    rw [hdiffer hd, closeRun_of_recon hvonly (by rw [hvrun]; exact hending) (by rw [hvlot]; exact hstate)
      (by rw [hvlot]; exact hnew) (by rw [hvlot]; exact hmore)
      (by rw [hvrun, hrcell, hvcell]; exact hcur) (by rw [hvrun, hrcell, hvcell]; exact hrunning)
      (by rw [hvrun, hrcell, hvcell]; exact hstack) (by rw [hvrun, hrcell, hvcell]; simp [runDeadline])
      (by rw [hvrun, hrcell, hvcell]; exact hprep) (by rw [hvrun, hrcell, hvcell]; exact hchanged)
      (by rw [hvrun, hrcell]; exact hvno), hvrun, hrcell, hvlot, hvcell, hvstep, hvtimer, hnewHold, hvform, postNotice_work]
    simp only [work_work, work_lots, work_runs, work_cells, work_queue, work_seqCounter, vset_vset, hlots, hruns, hqueue]
    rfl

/-! ## The COUNTS deadline (R150) -/

theorem exec_countsExpiry {c : CellIx} {d : Deadline} {l : LotSlot} {p : RunPlace} {r : RunIx} {s : State}
    (hdeadline : (s.cell c).deadline = some d) (hkind : d.kind = .counts) (hdue : d.expiry ≤ s.timer)
    (hcur : (s.cell c).current = some r) (honly : onlyRun l p r s) (hrun : (s.run r).state = .ending)
    (hcell : (s.run r).cell = c) (hstate : (s.lot l).state = .running) (hnew : (s.lot l).holdsKind .recon none = false)
    (hmore : (s.lot l).closedRuns + 1 < (s.lot l).runsPerStep) (hrunning : (s.cell c).state = .running)
    (hstack : (s.cell c).stack = []) (hprep : (s.cell c).prep = none) (hchanged : (s.cell c).changed = false)
    (hno : nothingFor c s) :
    exec (.countsDeadlineExpiry c) s = .next
      ((postNotice (.holdRaised (s.lot l).tag .recon none .finish none) s).work
        (vset s.lots l { (s.lot l).withClosed (stepOf s (s.lot l)) (s.run r) with
          state := .held, holds := (s.lot l).holds ++ [newHold s l .recon none .finish none] })
        (vset s.runs r .free) (vset s.cells c { ((s.cell c).idleAt s.timer).without r with deadline := none })
        (s.queue.filter (· ≠ l)) s.seqCounter) := by
  set v := s.setCell c { s.cell c with deadline := none } with hv
  have hvcell : v.cell c = { s.cell c with deadline := none } := setCell_cell ..
  have hspent : onCurrent c countsExpired (spendDeadline c s) = countsExpired r v := by
    show onCurrent c countsExpired v = _
    rw [onCurrent, hvcell]
    dsimp only
    rw [hcur]
  have hexec : exec (.countsDeadlineExpiry c) s = .next (closeRun r (raiseOnLot l .recon none v)) := by
    refine congrArg Host.Outcome.next ((if_pos (deadlineDue_eq_true hdeadline (by rw [hkind]; rfl) hdue)).trans ?_)
    rw [hspent, countsExpired, if_pos (by exact hrun)]
    exact congrArg (fun m => closeRun r (raiseOnLot m .recon none v)) honly.2.1
  have hvrcell : (v.run r).cell = c := hcell
  have hno' : nothingFor c v :=
    nothingFor_congr (s := s) (by rw [hvcell]) (by rw [hvcell]) (fun _ h => h) rfl (fun _ => ⟨rfl, rfl⟩) hno
  rw [hexec, closeRun_of_recon (s := v) (by exact honly) (by exact hrun) (by exact hstate) (by exact hnew) (by exact hmore)
    (by rw [hvrcell, hvcell]; exact hcur) (by rw [hvrcell, hvcell]; exact hrunning) (by rw [hvrcell, hvcell]; exact hstack)
    (by rw [hvrcell, hvcell]; simp [runDeadline]) (by rw [hvrcell, hvcell]; exact hprep)
    (by rw [hvrcell, hvcell]; exact hchanged) (by rw [hvrcell]; exact hno'), hvrcell, hvcell, hv, setCell_work, postNotice_work]
  simp only [work_work, work_lots, work_runs, work_cells, work_queue, work_seqCounter, vset_vset]
  rfl

/-- Settles O50. -/
theorem countsCloseTheRun : Obligations.CountsCloseTheRun := by
  refine ⟨fun e fed trays c s => ?_, fun c d l p r s => ?_⟩
  · intro i
    refine ⟨fun h => exec_fromStation rfl h, fun h => ?_⟩
    intro u k
    refine ⟨exec_runCounts_unheard h, fun l p r => ?_⟩
    intro x run lim near agrees closed freed honly hending hcell hstate hfree hmore hrunning hcur hstack hprep hdeadline
      hchanged hno
    obtain ⟨hagree, hdiffer⟩ := exec_runCounts_closes h honly hending hcell hstate hfree hmore hrunning hcur hstack hprep
      hdeadline hchanged hno
    have hclosed : x.withClosed (stepOf s x) run = closed := by
      rw [Lot.withClosed, show run.pos = p from honly.2.2]
    have hseq : (postNotice (.holdRaised x.tag .recon none .finish none) u).seqCounter = u.seqCounter := by simp
    refine ⟨fun ha => (hagree ha).trans ?_, fun hd hnew => (hdiffer hd hnew).trans ?_⟩
    · rw [hclosed]
      rfl
    · rw [hclosed, ← hseq]
      rfl
  · intro k x hdeadline hkind hdue hcur honly hrun hcell hstate hnew hmore hrunning hstack hprep hchanged hno
    have hclosed : x.withClosed (stepOf s x) (s.run r) = { x with
        figures := x.figures.withRun (stepOf s x) (s.run r), runs := vset x.runs p .closed
        closedRuns := x.closedRuns + 1 } := by rw [Lot.withClosed, honly.2.2]
    have hseq : (postNotice (.holdRaised x.tag .recon none .finish none) s).seqCounter = s.seqCounter := by simp
    rw [exec_countsExpiry hdeadline hkind hdue hcur honly hrun hcell hstate hnew hmore hrunning hstack hprep hchanged hno,
      hclosed, ← hseq]
    rfl

end Sys2Proof.Machine
end

section
/-! PROOF. O53 and O54: the keys of dispatch and the order of the queue (R96, R114 to R120, R125). -/

set_option Elab.async false

namespace Sys2Proof.Machine

/-! ## The order of the queue (R114) -/

theorem queueBefore_iff {s : State} {a b : LotSlot} : queueBefore s a b = true ↔
    (s.lot a).cls < (s.lot b).cls ∨ ((s.lot a).cls = (s.lot b).cls ∧
      ((s.lot a).queueSeq < (s.lot b).queueSeq ∨ ((s.lot a).queueSeq = (s.lot b).queueSeq ∧ a < b))) := by
  simp [queueBefore]

theorem queueBefore_trans {s : State} {a b d : LotSlot} (hab : queueBefore s a b = true) (hbd : queueBefore s b d = true) :
    queueBefore s a d = true := by
  rw [queueBefore_iff, Fin.lt_def] at *
  omega

theorem queueBefore_of_not {s : State} {a b : LotSlot} (hne : a ≠ b) (h : ¬ queueBefore s a b = true) :
    queueBefore s b a = true := by
  rw [ne_eq, Fin.ext_iff] at hne
  rw [queueBefore_iff, Fin.lt_def] at *
  omega

/-- An entry placed in an ordered queue leaves it ordered (R116). -/
theorem placeIn_pairwise {s : State} {l : LotSlot} {q : List LotSlot} (hout : l ∉ q)
    (hq : q.Pairwise fun a b => queueBefore s a b = true) :
    (placeIn s l q).Pairwise fun a b => queueBefore s a b = true := by
  induction q with
  | nil => exact List.pairwise_singleton _ _
  | cons a q ih =>
    rw [List.pairwise_cons] at hq
    obtain ⟨hfirst, htail⟩ := hq
    rw [List.mem_cons, not_or] at hout
    obtain ⟨hla, hout⟩ := hout
    rw [placeIn]
    split
    case isTrue hbefore =>
      refine List.pairwise_cons.2 ⟨fun m hm => ?_, List.pairwise_cons.2 ⟨hfirst, htail⟩⟩
      rcases List.mem_cons.1 hm with rfl | hm
      · exact hbefore
      · exact queueBefore_trans hbefore (hfirst m hm)
    case isFalse hnot =>
      refine List.pairwise_cons.2 ⟨fun m hm => ?_, ih hout htail⟩
      rcases List.mem_cons.1 ((placeIn_perm s l q).mem_iff.1 hm) with rfl | hm
      · exact queueBefore_of_not hla hnot
      · exact hfirst m hm

/-! ## Sequences (R115) -/

theorem renumberFrom_of_not_mem {n : Nat} {q : List LotSlot} {s : State} {m : LotSlot} (h : m ∉ q) :
    (renumberFrom n q s).lot m = s.lot m := by
  induction q generalizing n s with
  | nil => rfl
  | cons a q ih =>
    rw [List.mem_cons, not_or] at h
    obtain ⟨hma, hout⟩ := h
    rw [renumberFrom, ih hout, modLot_lot_ne _ _ (Ne.symm hma)]

theorem renumberFrom_of_mem {n i : Nat} {q : List LotSlot} {s : State} {m : LotSlot} (hq : q.Nodup) (h : q[i]? = some m) :
    (renumberFrom n q s).lot m = { s.lot m with queueSeq := n + i } := by
  induction q generalizing n i s with
  | nil => simp at h
  | cons a q ih =>
    rw [List.nodup_cons] at hq
    obtain ⟨hout, hq⟩ := hq
    rw [renumberFrom]
    cases i with
    | zero =>
      obtain rfl : a = m := by simpa using h
      rw [renumberFrom_of_not_mem hout, State.modLot, setLot_lot]
      rfl
    | succ i =>
      rw [List.getElem?_cons_succ] at h
      have hne : a ≠ m := fun ham => hout (ham ▸ List.mem_of_getElem? h)
      rw [ih hq h, modLot_lot_ne _ _ hne, show n + 1 + i = n + (i + 1) by omega]

/-- Settles O54. -/
theorem queueKeepsItsOrder : Obligations.QueueKeepsItsOrder := by
  refine ⟨fun a b s => queueBefore_iff, fun l q s => ⟨placeIn_perm s l q, placeIn_pairwise⟩,
    fun l s h => takeSequence_of_lt h, fun l s hfull hq => ?_⟩
  intro t
  have ht : t = { (renumberQueue s).setLot l { (renumberQueue s).lot l with queueSeq := s.queue.length } with
      seqCounter := s.queue.length + 1 } := by
    have hnot : ¬ s.seqCounter < Config.maxSequence := by rw [hfull]; decide
    show takeSequence l s = _
    rw [takeSequence]
    simp only [hnot, if_false]
    rfl
  have hlot (m : LotSlot) : (renumberQueue s).lot m = (renumberFrom 0 s.queue s).lot m := rfl
  have htlot (m : LotSlot) (hm : m ≠ l) : t.lot m = (renumberFrom 0 s.queue s).lot m := by
    rw [ht]
    exact setLot_lot_ne _ _ (Ne.symm hm)
  refine ⟨?_, ?_, fun m hm hout => ?_, fun n m hm hn => ?_⟩
  · rw [ht, renumberQueue, renumberFrom_rest]
    rfl
  · have hl : t.lot l = { (renumberQueue s).lot l with queueSeq := s.queue.length } := by
      rw [ht]
      exact setLot_lot ..
    obtain ⟨n, hn, -⟩ := renumberFrom_lot _ 0 s.queue s (Nat.le_refl _) l
    rw [hl, hlot, hn]
  · rw [htlot m hm, renumberFrom_of_not_mem hout]
  · rw [htlot m hm, renumberFrom_of_mem hq hn, Nat.zero_add]

/-! ## The first least of a list (R119, R120, R125) -/

theorem firstLeast_eq_none {α : Type} {lt : α → α → Bool} {l : List α} : firstLeast lt l = none ↔ l = [] := by
  cases l with
  | nil => simp [firstLeast]
  | cons a l =>
    rw [firstLeast]
    split
    · simp
    · split <;> simp

theorem firstLeast_of_split {α : Type} {lt : α → α → Bool} {a : α} {before after : List α}
    (hbefore : ∀ m ∈ before, lt a m = true) (hafter : ∀ m ∈ after, lt m a = false) :
    firstLeast lt (before ++ a :: after) = some a := by
  induction before with
  | nil =>
    rw [List.nil_append, firstLeast]
    split
    · rfl
    · next b hb => rw [if_neg (by simp [hafter b (mem_of_firstLeast hb)])]
  | cons m before ih =>
    rw [List.cons_append, firstLeast, ih fun x hx => hbefore x (List.mem_cons_of_mem _ hx)]
    exact if_pos (hbefore m List.mem_cons_self)

/-- Under an order by keys, what `firstLeast` finds comes strictly before those ahead of it and not after those behind. -/
theorem split_of_firstLeast {α κ : Type} [LinearOrder κ] (key : α → κ) {lt : α → α → Bool}
    (hlt : ∀ a b, lt a b = true ↔ key a < key b) {l : List α} {a : α} (h : firstLeast lt l = some a) :
    ∃ before after, l = before ++ a :: after ∧ (∀ m ∈ before, key a < key m) ∧ ∀ m ∈ after, key a ≤ key m := by
  induction l generalizing a with
  | nil => simp [firstLeast] at h
  | cons x l ih =>
    rw [firstLeast] at h
    cases hl : firstLeast lt l with
    | none =>
      rw [hl] at h
      obtain rfl : x = a := Option.some.inj h
      obtain rfl := firstLeast_eq_none.1 hl
      exact ⟨[], [], rfl, by simp, by simp⟩
    | some b =>
      rw [hl] at h
      dsimp only at h
      obtain ⟨before, after, rfl, hbefore, hafter⟩ := ih hl
      by_cases hbx : lt b x = true
      · rw [if_pos hbx] at h
        obtain rfl : b = a := Option.some.inj h
        exact ⟨x :: before, after, rfl, List.forall_mem_cons.2 ⟨(hlt _ _).1 hbx, hbefore⟩, hafter⟩
      · rw [if_neg hbx] at h
        obtain rfl : x = a := Option.some.inj h
        have hxb : key x ≤ key b := not_lt.1 fun hlt' => hbx ((hlt _ _).2 hlt')
        refine ⟨[], before ++ b :: after, rfl, by simp, fun m hm => ?_⟩
        rcases List.mem_append.1 hm with hm | hm
        · exact hxb.trans (hbefore m hm).le
        · rcases List.mem_cons.1 hm with rfl | hm
          · exact hxb
          · exact hxb.trans (hafter m hm)

/-- The first least of the indices with a property, by a key, ties to the lower index. -/
theorem firstLeast_finRange {n : Nat} {κ : Type} [LinearOrder κ] (key : Fin n → κ) {lt : Fin n → Fin n → Bool}
    (hlt : ∀ a b, lt a b = true ↔ key a < key b) (p : Fin n → Bool) (c : Fin n) :
    firstLeast lt ((List.finRange n).filter p) = some c ↔
      p c = true ∧ ∀ d, p d = true → d ≠ c → key c < key d ∨ (key c = key d ∧ c < d) := by
  have hmem (d : Fin n) : d ∈ (List.finRange n).filter p ↔ p d = true := by simp
  have hsorted : ((List.finRange n).filter p).Pairwise (· < ·) := (List.pairwise_lt_finRange n).filter p
  constructor
  · intro h
    obtain ⟨before, after, hl, hbefore, hafter⟩ := split_of_firstLeast key hlt h
    rw [hl, List.pairwise_append, List.pairwise_cons] at hsorted
    obtain ⟨-, ⟨hlater, -⟩, -⟩ := hsorted
    refine ⟨(hmem c).1 (by rw [hl]; simp), fun d hd hne => ?_⟩
    have hd := (hmem d).2 hd
    rw [hl] at hd
    rcases List.mem_append.1 hd with hd | hd
    · exact .inl (hbefore d hd)
    · have hd := (List.mem_cons.1 hd).resolve_left hne
      exact (hafter d hd).lt_or_eq.imp_right fun he => ⟨he, hlater d hd⟩
  · rintro ⟨hc, hall⟩
    obtain ⟨before, after, hl⟩ := List.append_of_mem ((hmem c).2 hc)
    have hin (d : Fin n) (hd : d ∈ before ∨ d ∈ after) : p d = true :=
      (hmem d).1 (by rw [hl]; rcases hd with hd | hd <;> simp [hd])
    rw [hl, List.pairwise_append, List.pairwise_cons] at hsorted
    obtain ⟨-, ⟨hlater, -⟩, hearlier⟩ := hsorted
    rw [hl]
    refine firstLeast_of_split (fun d hd => (hlt _ _).2 ?_) fun d hd => Bool.eq_false_iff.2 fun h => ?_
    · have hdc : d < c := hearlier d hd c List.mem_cons_self
      exact (hall d (hin d (.inl hd)) hdc.ne).resolve_right fun ⟨_, hcd⟩ => absurd hdc hcd.asymm
    · have hcd : c < d := hlater d hd
      rcases hall d (hin d (.inr hd)) hcd.ne' with hk | ⟨hk, -⟩
      · exact absurd ((hlt _ _).1 h) hk.asymm
      · exact absurd ((hlt _ _).1 h) (by rw [hk]; exact lt_irrefl _)

/-! ## The setup cost (R96) -/

theorem kitDiffers_iff {k : Cell} {st : Step} :
    kitDiffers k st = true ↔ k.kit = none ∨ ∃ x, k.kit = some x ∧ x ≠ st.kit := by
  rw [kitDiffers]
  cases k.kit <;> simp

theorem tempDiffers_iff {k : Cell} {st : Step} :
    tempDiffers k st = true ↔ k.temp = none ∨ ∃ x, k.temp = some x ∧ x ≠ st.setpoint := by
  rw [tempDiffers]
  cases k.temp <;> simp

theorem programDiffers_iff {k : Cell} {st : Step} : programDiffers k st = true ↔
    k.program = none ∨ ∃ x, k.program = some x ∧ (x.id ≠ st.programId ∨ x.revision ≠ st.revision) := by
  rw [programDiffers]
  cases k.program <;> simp

theorem setupCost_matches {k : Cell} {st : Step} : setupCost k st = 0 ↔ k.kit = some st.kit ∧ k.temp = some st.setpoint
    ∧ ∃ x, k.program = some x ∧ x.id = st.programId ∧ x.revision = st.revision := by
  rw [setupCost_eq_zero]
  refine and_congr (by simp [kitDiffers]) (and_congr (by simp [tempDiffers]) ?_)
  rw [programDiffers]
  cases k.program <;> simp

theorem setupCost_rule (k : Cell) (st : Step) :
    let one : Prop → Nat → Nat := fun p n => @ite Nat p (Classical.propDecidable p) n 0
    let kit : Prop := k.kit = none ∨ ∃ x, k.kit = some x ∧ x ≠ st.kit
    let temp : Prop := k.temp = none ∨ ∃ x, k.temp = some x ∧ x ≠ st.setpoint
    let program : Prop :=
      k.program = none ∨ ∃ x, k.program = some x ∧ (x.id ≠ st.programId ∨ x.revision ≠ st.revision)
    setupCost k st = one kit 4 + one temp 2 + one program 1 ∧ setupCost k st ≤ 7
      ∧ (setupCost k st = 0 ↔ k.kit = some st.kit ∧ k.temp = some st.setpoint
        ∧ ∃ x, k.program = some x ∧ x.id = st.programId ∧ x.revision = st.revision)
      ∧ (k.kit = none → k.temp = none → k.program = none → setupCost k st = 7) := by
  intro one kit temp program
  have hone {b : Bool} {p : Prop} (n : Nat) (h : b = true ↔ p) : (if b then n else 0) = one p n :=
    @if_congr _ _ _ _ (Classical.propDecidable p) _ _ _ _ h rfl rfl
  refine ⟨?_, ?_, setupCost_matches, fun hk ht hp => ?_⟩
  · rw [setupCost, hone 4 kitDiffers_iff, hone 2 tempDiffers_iff, hone 1 programDiffers_iff]
  · rw [setupCost]
    split <;> split <;> split <;> omega
  · simp [setupCost, kitDiffers, tempDiffers, programDiffers, hk, ht, hp]

/-! ## The choices (R118 to R120, R125) -/

theorem chooseLot_rule (c : CellIx) (l : LotSlot) (s : State) :
    let fits : LotSlot → Prop := fun m => compatible (s.cell c) (stepOf s (s.lot m)) = true
    let hot : LotSlot → Prop := fun m => fits m ∧ (s.lot m).cls = 0
    let cost : LotSlot → Nat := fun m => setupCost (s.cell c) (stepOf s (s.lot m))
    let first := (s.queue.filter fun m => compatible (s.cell c) (stepOf s (s.lot m))).take s.profile.lookahead
    (∀ before after, s.queue = before ++ l :: after → hot l → (∀ m ∈ before, ¬ hot m) → chooseLot s c = some l)
    ∧ (∀ before after, (∀ m ∈ s.queue, ¬ hot m) → first = before ++ l :: after → (∀ m ∈ before, cost l < cost m) →
      (∀ m ∈ after, cost l ≤ cost m) → chooseLot s c = some l)
    ∧ ((∀ m ∈ s.queue, ¬ fits m) → chooseLot s c = none) := by
  intro fits hot cost first
  have hfind : (s.queue.filter fun m => compatible (s.cell c) (stepOf s (s.lot m))).find? (fun m => (s.lot m).cls == 0) =
      s.queue.find? fun m => compatible (s.cell c) (stepOf s (s.lot m)) && (s.lot m).cls == 0 := by
    rw [List.find?_filter]
    refine congrArg (fun p => s.queue.find? p) (funext fun m => ?_)
    rw [Bool.decide_and, Bool.decide_eq_true, Bool.decide_eq_true]
  refine ⟨fun before after hq hl hbefore => ?_, fun before after hnone hfirst hbefore hafter => ?_, fun hnone => ?_⟩
  · have hfound : s.queue.find? (fun m => compatible (s.cell c) (stepOf s (s.lot m)) && (s.lot m).cls == 0) = some l := by
      rw [List.find?_eq_some_iff_append]
      refine ⟨by simpa using hl, before, after, hq, fun m hm => ?_⟩
      have hm := hbefore m hm
      rw [Bool.not_eq_true', Bool.eq_false_iff]
      exact fun h => hm (by simpa [hot, fits] using h)
    rw [chooseLot]
    rw [hfind, hfound]
  · have hfound : s.queue.find? (fun m => compatible (s.cell c) (stepOf s (s.lot m)) && (s.lot m).cls == 0) = none := by
      rw [List.find?_eq_none]
      intro m hm
      exact fun h => hnone m hm (by simpa [hot, fits] using h)
    rw [chooseLot]
    rw [hfind, hfound]
    refine (congrArg (firstLeast _) hfirst).trans (firstLeast_of_split (fun m hm => ?_) fun m hm => ?_)
    · exact decide_eq_true (hbefore m hm)
    · exact decide_eq_false (Nat.not_lt.2 (hafter m hm))
  · exact chooseLot_of_nothing fun m hm => by simpa [fits] using hnone m hm

theorem eligible_iff {k : Cell} : eligible k = true ↔ k.state = .idle ∧ k.draining = false ∧ k.stack = [] := by
  simp [eligible, and_assoc]

theorem bestCell_rule (l : LotSlot) (c : CellIx) (s : State) :
    let takes : CellIx → Prop := fun d => eligible (s.cell d) = true ∧ compatible (s.cell d) (stepOf s (s.lot l)) = true
    let cost : CellIx → Nat := fun d => setupCost (s.cell d) (stepOf s (s.lot l))
    let time : CellIx → Nat := fun d => ((s.cell d).accNow s.timer).productive
    (bestCell s l = some c ↔ takes c ∧ ∀ d, takes d → d ≠ c →
      cost c < cost d ∨ (cost c = cost d ∧ (time c < time d ∨ (time c = time d ∧ c < d))))
    ∧ (bestCell s l = none ↔ ∀ d, ¬ takes d) := by
  intro takes cost time
  have hlt (a b : CellIx) : (costOn s l a < costOn s l b
      || (costOn s l a == costOn s l b && productiveNow s a < productiveNow s b)) = true ↔
      toLex (cost a, time a) < toLex (cost b, time b) := by
    rw [Prod.Lex.toLex_lt_toLex, Bool.or_eq_true, Bool.and_eq_true, decide_eq_true_iff, decide_eq_true_iff, beq_iff_eq]
    rfl
  have htakes (d : CellIx) : (eligible (s.cell d) && compatible (s.cell d) (stepOf s (s.lot l))) = true ↔ takes d :=
    Bool.and_eq_true_iff
  refine ⟨?_, ?_⟩
  · rw [bestCell, firstLeast_finRange (fun d => toLex (cost d, time d)) hlt]
    simp only [htakes, Prod.Lex.toLex_lt_toLex, toLex_inj, Prod.mk.injEq]
    exact and_congr_right fun _ => forall_congr' fun d => imp_congr_right fun _ => imp_congr_right fun _ => by tauto
  · rw [bestCell, firstLeast_eq_none, List.filter_eq_nil_iff]
    simp only [List.mem_finRange, htakes, true_imp_iff]

theorem preemptable_iff {s : State} {st : Step} {d : CellIx} : preemptable s st d = true ↔
    (s.cell d).state = .running ∧ (s.cell d).draining = false ∧ (s.cell d).stack.length < 2
      ∧ compatible (s.cell d) st = true
      ∧ ∃ r, (s.cell d).current = some r ∧ (s.run r).state = .testing
        ∧ ((lotOfRun s r).cls = 2 ∨ (lotOfRun s r).cls = 3) := by
  rw [preemptable]
  cases (s.cell d).current <;> simp [and_assoc]

theorem bestCandidate_rule (l : LotSlot) (c : CellIx) (s : State) :
    let st := stepOf s (s.lot l)
    let takes : CellIx → Prop := fun d =>
      (s.cell d).state = .running ∧ (s.cell d).draining = false ∧ (s.cell d).stack.length < 2
        ∧ compatible (s.cell d) st = true
        ∧ ∃ r, (s.cell d).current = some r ∧ (s.run r).state = .testing
          ∧ ((lotOfRun s r).cls = 2 ∨ (lotOfRun s r).cls = 3)
    let cost : CellIx → Nat := fun d => setupCost (s.cell d) st
    (bestCandidate s l = some c ↔ takes c ∧ ∀ d, takes d → d ≠ c →
      cost c < cost d ∨ (cost c = cost d ∧
        (currentClass s d < currentClass s c ∨ (currentClass s c = currentClass s d ∧ c < d))))
    ∧ (bestCandidate s l = none ↔ ∀ d, ¬ takes d) := by
  intro st takes cost
  have hlt (a b : CellIx) : (costOn s l a < costOn s l b
      || (costOn s l a == costOn s l b && currentClass s b < currentClass s a)) = true ↔
      toLex (cost a, OrderDual.toDual (currentClass s a)) < toLex (cost b, OrderDual.toDual (currentClass s b)) := by
    rw [Prod.Lex.toLex_lt_toLex, Bool.or_eq_true, Bool.and_eq_true, decide_eq_true_iff, decide_eq_true_iff, beq_iff_eq]
    rfl
  have htakes (d : CellIx) : preemptable s st d = true ↔ takes d := preemptable_iff
  refine ⟨?_, ?_⟩
  · rw [bestCandidate, firstLeast_finRange (fun d => toLex (cost d, OrderDual.toDual (currentClass s d))) hlt]
    simp only [st, htakes, Prod.Lex.toLex_lt_toLex, toLex_inj, Prod.mk.injEq, OrderDual.toDual_lt_toDual,
      OrderDual.toDual_inj]
    exact and_congr_right fun _ => forall_congr' fun d => imp_congr_right fun _ => imp_congr_right fun _ => by tauto
  · rw [bestCandidate, firstLeast_eq_none, List.filter_eq_nil_iff]
    simp only [List.mem_finRange, st, htakes, true_imp_iff]

/-- Settles O53. -/
theorem dispatchChoosesByItsKeys : Obligations.DispatchChoosesByItsKeys := by
  refine ⟨setupCost_rule, fun k st => ⟨eligible_iff, rfl⟩, chooseLot_rule, bestCell_rule, bestCandidate_rule,
    fun h cell c l s ho hc hin => ?_⟩
  intro t hstate hstack hchoose
  have hown : ownCellDrain cell 0 s = ok (matchCell c t) := by
    simp only [ownCellDrain, cellInUse_of_index hc hin]
    rfl
  have hcell : t.cell c = { s.cell c with draining := false } := setCell_cell ..
  have helig : eligible (t.cell c) = true := by
    rw [eligible_iff, hcell]
    exact ⟨hstate, rfl, hstack⟩
  rw [exec_inOperate (kind := 0x0322) (own := ownCellDrain cell 0) ho rfl rfl, hown, matchCell, if_pos helig, hchoose]

end Sys2Proof.Machine
end

section
/-! PROOF. O55: assignments, reservations and withdrawals (R120 to R126, R134). -/

set_option Elab.async false

namespace Sys2Proof.Machine

/-! ## The binding of a run (R121) -/

/-- A new ASSIGNED run of a lot on a cell (R121). -/
def Run.bound (l : LotSlot) (p : RunPlace) (c : CellIx) : Run :=
  { Run.free with lot := l, pos := p, cell := c, state := .assigned }

/-- A lot with one run more (R121). -/
def Lot.bound (x : Lot) (r : RunIx) (p : RunPlace) : Lot :=
  { x with toAssign := x.toAssign - 1, runs := vset x.runs p (.run r) }

/-- A cell with a run bound to it, as its reserved run or its current one (R121, R126). -/
def Cell.bound (k : Cell) (r : RunIx) (reserve : Bool) : Cell :=
  if reserve then { k with reserved := some r } else { k with current := some r }

/-- The queue without a lot whose last run is bound (R6, R121). -/
def boundQueue (s : State) (l : LotSlot) : List LotSlot :=
  if (s.lot l).toAssign ≤ 1 then s.queue.filter (· ≠ l) else s.queue

theorem bindRun_eq (l : LotSlot) (c : CellIx) (r : RunIx) (p : RunPlace) (reserve : Bool) (s : State) :
    bindRun l c r p reserve s =
      (postNotice (.dispatched (s.lot l).tag (s.lot l).step p c (setupCost (s.cell c) (stepOf s (s.lot l)))) s).work
        (vset s.lots l ((s.lot l).bound r p)) (vset s.runs r (Run.bound l p c)) (vset s.cells c ((s.cell c).bound r reserve))
        (boundQueue s l) s.seqCounter := by
  set v := ((s.setRun r (Run.bound l p c)).setLot l ((s.lot l).bound r p)).setCell c ((s.cell c).bound r reserve) with hv
  set n : Notice := .dispatched (s.lot l).tag (s.lot l).step p c (setupCost (s.cell c) (stepOf s (s.lot l))) with hn
  have hvlot : v.lot l = (s.lot l).bound r p := setLot_lot ..
  have hbind : bindRun l c r p reserve s =
      if ((s.lot l).bound r p).toAssign = 0 then queueRemove l (postNotice n v) else postNotice n v := by
    have hnotice : (postNotice (.dispatched (v.lot l).tag (v.lot l).step p c (setupCost (s.cell c) (stepOf s (s.lot l)))) v) =
        postNotice n v := by rw [hvlot]; rfl
    have hdef : bindRun l c r p reserve s =
        if ((postNotice (.dispatched (v.lot l).tag (v.lot l).step p c
            (setupCost (s.cell c) (stepOf s (s.lot l)))) v).lot l).toAssign = 0 then
          queueRemove l (postNotice (.dispatched (v.lot l).tag (v.lot l).step p c
            (setupCost (s.cell c) (stepOf s (s.lot l)))) v)
        else postNotice (.dispatched (v.lot l).tag (v.lot l).step p c
          (setupCost (s.cell c) (stepOf s (s.lot l)))) v := rfl
    rw [hdef, hnotice, postNotice_lot, hvlot]
  have hzero : ((s.lot l).bound r p).toAssign = 0 ↔ (s.lot l).toAssign ≤ 1 := by
    show (s.lot l).toAssign - 1 = 0 ↔ _
    omega
  have hform : postNotice n v = (postNotice n s).work (vset s.lots l ((s.lot l).bound r p)) (vset s.runs r (Run.bound l p c))
      (vset s.cells c ((s.cell c).bound r reserve)) s.queue s.seqCounter := by
    rw [hv, setCell_work, setLot_work, setRun_work, work_work, work_work, postNotice_work]
    simp only [work_lots, work_runs, work_cells, work_queue, work_seqCounter]
  rw [hbind, hform, boundQueue]
  simp only [hzero]
  split
  · rw [queueRemove_work, work_work]
    rfl
  · rfl

section
variable {l : LotSlot} {c : CellIx} {r : RunIx} {p : RunPlace} {reserve : Bool} {s : State}

theorem bindRun_lot : (bindRun l c r p reserve s).lot l = (s.lot l).bound r p := by
  rw [bindRun_eq, work_lot, vset_get_same]

theorem bindRun_run : (bindRun l c r p reserve s).run r = Run.bound l p c := by
  rw [bindRun_eq, work_run, vset_get_same]

theorem bindRun_cell : (bindRun l c r p reserve s).cell c = (s.cell c).bound r reserve := by
  rw [bindRun_eq, work_cell, vset_get_same]

theorem bindRun_stepOfRun : stepOfRun (bindRun l c r p reserve s) r = stepOf s (s.lot l) := by
  have hlot : lotOfRun (bindRun l c r p reserve s) r = (s.lot l).bound r p := by
    rw [lotOfRun, bindRun_run]
    exact bindRun_lot
  rw [stepOfRun, hlot]
  exact stepOf_congr (by rw [bindRun_eq]; exact postNotice_routes ..) rfl rfl

/-- The record and the position that an assignment takes (R121). -/
theorem freeRunIx_eq (hfree : (s.run r).state = .free) (hlow : ∀ q, q < r → (s.run q).state ≠ .free) :
    freeRunIx s = some r :=
  find?_finRange_eq_some (by simp [hfree]) fun q hq => by simpa using hlow q hq

theorem places_eq : places = List.finRange 4 := by decide

theorem absentPlace_eq {x : Lot} (habsent : x.runs[p] = .absent) (hlow : ∀ q : RunPlace, q < p → x.runs[q] ≠ .absent) :
    absentPlace x = some p := by
  rw [absentPlace, places_eq]
  exact find?_finRange_eq_some (by simp [habsent]) fun q hq => by simpa using hlow q hq

theorem assignRun_eq (hr : freeRunIx s = some r) (hp : absentPlace (s.lot l) = some p) :
    assignRun l c s = prepBegin c r .assignment (bindRun l c r p false s) := by
  rw [assignRun, hr, hp]

theorem reserveRun_eq (hr : freeRunIx s = some r) (hp : absentPlace (s.lot l) = some p) :
    reserveRun l c s = enterCell c .pausing none (sendOrder c .handler .pause (bindRun l c r p true s)) := by
  rw [reserveRun, hr, hp]

end

/-! ## An assignment and a reservation (R121, R126) -/

section
variable {l : LotSlot} {c : CellIx} {r : RunIx} {p : RunPlace} {reserve : Bool} {s : State}

theorem bindRun_timer : (bindRun l c r p reserve s).timer = s.timer := by
  rw [bindRun_eq]
  exact postNotice_timer ..
theorem bindRun_floorClock : (bindRun l c r p reserve s).floorClock = s.floorClock := by
  rw [bindRun_eq]
  exact postNotice_floorClock ..

theorem Cell.bound_station (k : Cell) (r : RunIx) (reserve : Bool) (role : Role) :
    (k.bound r reserve).station role = k.station role := by
  cases reserve <;> cases role <;> rfl

/-- The notice of a dispatch (R93, R121). -/
def dispatchNotice (l : LotSlot) (p : RunPlace) (c : CellIx) (s : State) : Notice :=
  .dispatched (s.lot l).tag (s.lot l).step p c (setupCost (s.cell c) (stepOf s (s.lot l)))

theorem sendOrder_bindRun (role : Role) (o : Order) : sendOrder c role o (bindRun l c r p reserve s) =
    (sendOrder c role o (postNotice (dispatchNotice l p c s) s)).work (vset s.lots l ((s.lot l).bound r p))
      (vset s.runs r (Run.bound l p c)) (vset s.cells c ((s.cell c).bound r reserve)) (boundQueue s l) s.seqCounter := by
  rw [bindRun_eq]
  exact sendOrder_work _ _ _ _ _ _ _ _ _ (by rw [vset_get_same, postNotice_cell, Cell.bound_station])

theorem sendBoth_bindRun (o : Order) : sendBoth c o (bindRun l c r p reserve s) =
    (sendBoth c o (postNotice (dispatchNotice l p c s) s)).work (vset s.lots l ((s.lot l).bound r p))
      (vset s.runs r (Run.bound l p c)) (vset s.cells c ((s.cell c).bound r reserve)) (boundQueue s l) s.seqCounter := by
  rw [bindRun_eq]
  exact sendBoth_work _ _ _ _ _ _ _ _ fun role => by rw [vset_get_same, postNotice_cell, Cell.bound_station]

/-- An assignment that begins with a changeover (R97, R99, R121). -/
theorem assignRun_changes (hr : freeRunIx s = some r) (hp : absentPlace (s.lot l) = some p)
    (hstate : (s.cell c).state = .idle) (hdeadline : (s.cell c).deadline = none)
    (hdiffers : (s.cell c).kit ≠ some (stepOf s (s.lot l)).kit ∨ (s.cell c).temp ≠ some (stepOf s (s.lot l)).setpoint) :
    assignRun l c s =
      (sendOrder c .handler (.setup (stepOf s (s.lot l)).kit (stepOf s (s.lot l)).setpoint)
        (postNotice (dispatchNotice l p c s) s)).work (vset s.lots l ((s.lot l).bound r p))
        (vset s.runs r (Run.bound l p c))
        (vset s.cells c { s.cell c with
          current := some r
          prep := some (firstContext r .new .assignment .changeover
            (goldenPlanned s.profile (s.cell c) (stepOf s (s.lot l)) .assignment) (stepOf s (s.lot l)) (s.cell c) s)
          deadline := some ⟨.changeover, s.timer + 1000 * (stepOf s (s.lot l)).changeoverLimit⟩
          state := .changeover, cause := none, since := s.timer, acc := (s.cell c).accNow s.timer })
        (boundQueue s l) s.seqCounter := by
  set b := bindRun l c r p false s with hb
  have hbcell : b.cell c = (s.cell c).bound r false := bindRun_cell
  have hbstep : stepOfRun b r = stepOf s (s.lot l) := bindRun_stepOfRun
  have hcontext : firstContext r .new .assignment .changeover
      (goldenPlanned b.profile ((s.cell c).bound r false) (stepOf s (s.lot l)) .assignment) (stepOf s (s.lot l))
      ((s.cell c).bound r false) b = firstContext r .new .assignment .changeover
      (goldenPlanned s.profile (s.cell c) (stepOf s (s.lot l)) .assignment) (stepOf s (s.lot l)) (s.cell c) s := by
    simp only [firstContext, setAsideOf, bindRun_timer, hb]
    rfl
  rw [assignRun_eq hr hp, ← hb, prepBegin_changeover (by simp [Origin.purpose]) (by rw [hbcell, hbstep]; exact hdiffers)
    (by rw [hbcell]; simp [runDeadline, Cell.bound, hdeadline]) (by rw [hbcell]; simp [Cell.bound, hstate]), hbstep, hbcell,
    show Origin.assignment.purpose = Purpose.new from rfl, hcontext, hb, sendOrder_bindRun, bindRun_timer, setCell_work,
    work_work]
  simp only [work_lots, work_runs, work_cells, work_queue, work_seqCounter, vset_vset]
  rfl

/-- An assignment that needs nothing starts its run at once (R98, R109, R121). -/
theorem assignRun_starts (hr : freeRunIx s = some r) (hp : absentPlace (s.lot l) = some p)
    (hstate : (s.cell c).state = .idle) (hsetup : setupCost (s.cell c) (stepOf s (s.lot l)) = 0)
    (hvalid : (s.cell c).goldenValid = true) (hsites : tooFewSites (s.cell c) (stepOf s (s.lot l)) = false) :
    assignRun l c s =
      (sendBoth c (.start (s.lot l).tag p (usableSites (s.cell c) (stepOf s (s.lot l))) (stepOf s (s.lot l)).map)
        (postNotice (dispatchNotice l p c s) s)).work
        (vset s.lots l { (s.lot l).bound r p with
          state := if (s.lot l).state = .waiting then .running else (s.lot l).state, stepStarted := true })
        (vset s.runs r { Run.bound l p c with state := .testing, startTime := some s.floorClock })
        (vset s.cells c { s.cell c with
          current := some r, prep := none, state := .running, cause := none, since := s.timer
          acc := (s.cell c).accNow s.timer })
        (boundQueue s l) s.seqCounter := by
  set b := bindRun l c r p false s with hb
  have hbcell : b.cell c = (s.cell c).bound r false := bindRun_cell
  have hbrun : b.run r = Run.bound l p c := bindRun_run
  have hblot : b.lot l = (s.lot l).bound r p := bindRun_lot
  have hblotOf : lotOfRun b r = (s.lot l).bound r p := by
    rw [lotOfRun, hbrun]
    exact hblot
  have hbstep : stepOfRun b r = stepOf s (s.lot l) := bindRun_stepOfRun
  have hplanned : goldenPlanned b.profile (b.cell c) (stepOfRun b r) .assignment = false := by
    rw [hbcell, hbstep]
    show (!(s.cell c).goldenValid || tooFewSites (s.cell c) (stepOf s (s.lot l))) = false
    rw [hvalid, hsites]
    rfl
  have hassigned : (b.run r).state = .assigned := by rw [hbrun]; rfl
  rw [assignRun_eq hr hp, ← hb, prepBegin_nothing (by rw [hbcell, hbstep]; exact hsetup) hplanned, endForTarget_starts (by exact hassigned)]
  simp only [setCell_cell, setCell_setCell, setCell_timer]
  rw [dropPrep_of_fresh]
  set k : Cell := { b.cell c with prep := none } with hk
  have hcell : (b.setCell c k).cell c = k := setCell_cell ..
  have hbtimer : b.timer = s.timer := bindRun_timer
  have hentered : k.entered s.timer .running none = { s.cell c with
      current := some r, prep := none, state := .running, cause := none, since := s.timer
      acc := (s.cell c).accNow s.timer } := by
    rw [Cell.entered_of_ne (by rw [hk, hbcell]; simp [Cell.bound, hstate]), hk, hbcell]
    rfl
  rw [startRun_eq (s := b.setCell c k), hcell, sendBoth_setCell _ _ _ _ fun role => by cases role <;> rfl]
  simp only [setCell_run, setCell_lot, setCell_timer, setCell_floorClock, setCell_setCell, hbrun]
  rw [show lotOfRun (b.setCell c k) r = (s.lot l).bound r p from hblotOf,
    show stepOfRun (b.setCell c k) r = stepOf s (s.lot l) from hbstep, hbtimer, hentered,
    show (Run.bound l p c).lot = l from rfl, hblot, hb, sendBoth_bindRun, bindRun_floorClock, setLot_work, setRun_work,
    setCell_work]
  simp only [work_work, work_lots, work_runs, work_cells, work_queue, work_seqCounter, vset_vset]
  rw [show usableSites k (stepOf s (s.lot l)) = usableSites (s.cell c) (stepOf s (s.lot l)) by rw [hk, hbcell]; rfl]
  rfl

/-- A reservation (R126). -/
theorem reserveRun_pauses (hr : freeRunIx s = some r) (hp : absentPlace (s.lot l) = some p)
    (hstate : (s.cell c).state = .running) :
    reserveRun l c s =
      (sendOrder c .handler .pause (postNotice (dispatchNotice l p c s) s)).work (vset s.lots l ((s.lot l).bound r p))
        (vset s.runs r (Run.bound l p c))
        (vset s.cells c { s.cell c with
          reserved := some r, state := .pausing, cause := none, since := s.timer, acc := (s.cell c).accNow s.timer })
        (boundQueue s l) s.seqCounter := by
  have hbcell : (sendOrder c .handler .pause (bindRun l c r p true s)).cell c = (s.cell c).bound r true := by
    rw [sendOrder_cell, bindRun_cell]
  rw [reserveRun_eq hr hp, enterCell_of_ne (by rw [hbcell]; simp [Cell.bound, hstate]), hbcell, sendOrder_timer, bindRun_timer,
    sendOrder_bindRun, setCell_work, work_work]
  simp only [work_lots, work_runs, work_cells, work_queue, work_seqCounter, vset_vset]
  rfl

end

/-! ## The rounds of a match and of a search (R120, R124) -/

theorem chooseStage_toAssign {c : CellIx} {r : RunIx} {s : State} (h : (s.run r).state = .assigned) (m : LotSlot) :
    ((chooseStage c r s).lot m).toAssign = (s.lot m).toAssign := by
  rw [chooseStage]
  cases (s.cell c).prep with
  | none => rfl
  | some j =>
    dsimp only
    split
    · rw [beginChangeover_eq, setCell_lot, sendOrder_lot]
    · split
      · rw [beginLoading_eq, setCell_lot, sendOrder_lot]
      · split
        · rw [beginGolden_eq, setCell_lot, sendBoth_lot]
        · rw [endForTarget_starts h, startRun_eq]
          by_cases hm : (s.run r).lot = m
          · subst hm
            rw [setCell_run, setLot_lot]
            rfl
          · rw [setCell_run, setLot_lot_ne _ _ hm, setRun_lot, setCell_lot, sendBoth_lot, setCell_lot]

section
variable {l : LotSlot} {c : CellIx} {r : RunIx} {p : RunPlace} {s : State}

theorem assignRun_toAssign (hr : freeRunIx s = some r) (hp : absentPlace (s.lot l) = some p) :
    ((assignRun l c s).lot l).toAssign = (s.lot l).toAssign - 1 := by
  have hrun : ((bindRun l c r p false s).run r).state = .assigned := by rw [bindRun_run]; rfl
  rw [assignRun_eq hr hp, prepBegin_eq, chooseStage_toAssign (by exact hrun), setCell_lot, bindRun_lot]
  rfl

theorem reserveRun_toAssign (hr : freeRunIx s = some r) (hp : absentPlace (s.lot l) = some p) :
    ((reserveRun l c s).lot l).toAssign = (s.lot l).toAssign - 1 := by
  rw [reserveRun_eq hr hp, enterCell, State.modCell, setCell_lot, sendOrder_lot, bindRun_lot]
  rfl

theorem matchLot_of_done (h : (s.lot l).toAssign = 0 ∨ bestCell s l = none) : matchLot l s = s := by
  rw [matchLot]
  cases hn : (s.lot l).toAssign with
  | zero => rfl
  | succ n =>
    rw [matchRounds, if_neg (by rw [hn]; simp), h.resolve_left (by rw [hn]; simp)]

theorem matchLot_of_round (hr : freeRunIx s = some r) (hp : absentPlace (s.lot l) = some p) (h : 0 < (s.lot l).toAssign)
    (hbest : bestCell s l = some c) : matchLot l s = matchLot l (assignRun l c s) := by
  obtain ⟨n, hn⟩ := Nat.exists_eq_succ_of_ne_zero (Nat.ne_of_gt h)
  rw [matchLot, matchLot, assignRun_toAssign hr hp, hn, matchRounds, if_neg (Nat.ne_of_gt h), hbest]
  rfl

theorem preemptSearch_of_done
    (h : (s.lot l).cls ≠ 0 ∨ (s.lot l).preempt = false ∨ (s.lot l).toAssign = 0 ∨ bestCandidate s l = none) :
    preemptSearch l s = s := by
  rw [preemptSearch]
  split
  case isFalse => rfl
  case isTrue hhot =>
    obtain ⟨hcls, hpreempt⟩ := hhot
    have h := (h.resolve_left (by simp [hcls])).resolve_left (by simp [hpreempt])
    cases hn : (s.lot l).toAssign with
    | zero => rfl
    | succ n =>
      rw [searchRounds, if_neg (by rw [hn]; simp), h.resolve_left (by rw [hn]; simp)]

theorem preemptSearch_of_round (hr : freeRunIx s = some r) (hp : absentPlace (s.lot l) = some p) (hcls : (s.lot l).cls = 0)
    (hpreempt : (s.lot l).preempt = true) (h : 0 < (s.lot l).toAssign) (hbest : bestCandidate s l = some c) :
    preemptSearch l s = preemptSearch l (reserveRun l c s) := by
  obtain ⟨n, hn⟩ := Nat.exists_eq_succ_of_ne_zero (Nat.ne_of_gt h)
  have hlot : (reserveRun l c s).lot l = (s.lot l).bound r p := by
    rw [reserveRun_eq hr hp, enterCell, State.modCell, setCell_lot, sendOrder_lot, bindRun_lot]
  have hstill : ((reserveRun l c s).lot l).cls = 0 ∧ ((reserveRun l c s).lot l).preempt = true := by
    rw [hlot]
    exact ⟨hcls, hpreempt⟩
  rw [preemptSearch, if_pos ⟨hcls, hpreempt⟩, preemptSearch, if_pos hstill, reserveRun_toAssign hr hp, hn, searchRounds,
    if_neg (Nat.ne_of_gt h), hbest]
  rfl

/-! ## A withdrawal (R123) -/

/-- A cell that forgets a run which its stack does not hold. -/
theorem forget_eq {k : Cell} (hstack : r ∉ k.stack) : k.forget r = { k with
    current := if k.current = some r then none else k.current
    reserved := if k.reserved = some r then none else k.reserved
    prep := k.prep.map fun j => { j with target := if j.target = some r then none else j.target } } := by
  have hfilter : k.stack.filter (· ≠ r) = k.stack :=
    List.filter_eq_self.2 fun m hm => by simpa using fun hmr : m = r => hstack (hmr ▸ hm)
  rw [Cell.forget, hfilter]

theorem withdrawn_cell_ne {d : CellIx} (h : (s.run r).cell ≠ d) : (withdrawn r s).cell d = s.cell d := by
  rw [withdrawn, setLot_cell, setCell_cell_ne _ _ h, setRun_cell]

theorem withdrawn_cell : (withdrawn r s).cell (s.run r).cell = (s.cell (s.run r).cell).forget r := by
  rw [withdrawn, setLot_cell, setCell_cell]

/-- No cell becomes free for a step by a withdrawal. -/
theorem noCellFor_withdrawn {st : Step} (hstack : r ∉ (s.cell (s.run r).cell).stack) (h : noCellFor st s) :
    noCellFor st (withdrawn r s) := by
  intro d
  by_cases hd : (s.run r).cell = d
  · subst hd
    rw [withdrawn_cell, forget_eq hstack]
    exact h _
  · rw [withdrawn_cell_ne hd]
    exact h d

theorem withdrawn_cls (m : LotSlot) : ((withdrawn r s).lot m).cls = (s.lot m).cls := by
  by_cases hm : (s.run r).lot = m
  · subst hm
    rw [withdrawn_lot]
    rfl
  · rw [withdrawn, setLot_lot_ne _ _ hm, setCell_lot, setRun_lot]

/-- No cell becomes a candidate by a withdrawal. -/
theorem noCandidateFor_withdrawn {cls : Nat} {preempt : Bool} {st : Step} (hstack : r ∉ (s.cell (s.run r).cell).stack)
    (h : noCandidateFor cls preempt st s) : noCandidateFor cls preempt st (withdrawn r s) := by
  intro h0 hp d
  have hd := h h0 hp d
  rw [Bool.eq_false_iff] at hd ⊢
  refine fun ht => hd ?_
  rw [preemptable_iff] at ht ⊢
  obtain ⟨hstate, hdrain, hlen, hcompat, q, hcur, htesting, hclass⟩ := ht
  have hq : (withdrawn r s).run q = s.run q := (withdrawn_run r s q).resolve_right fun hne => hne htesting
  have hlotOf : (lotOfRun (withdrawn r s) q).cls = (lotOfRun s q).cls := by
    rw [lotOfRun, hq, withdrawn_cls, lotOfRun]
  rw [hq] at htesting
  rw [hlotOf] at hclass
  by_cases hdc : (s.run r).cell = d
  · subst hdc
    rw [withdrawn_cell, forget_eq hstack] at hstate hdrain hlen hcompat hcur
    have hcur' : (s.cell (s.run r).cell).current = some q := by
      dsimp only at hcur
      split at hcur
      · exact absurd hcur (by simp)
      · exact hcur
    exact ⟨hstate, hdrain, hlen, hcompat, q, hcur', htesting, hclass⟩
  · rw [withdrawn_cell_ne hdc] at hstate hdrain hlen hcompat hcur
    exact ⟨hstate, hdrain, hlen, hcompat, q, hcur, htesting, hclass⟩

/-- A withdrawal leaves a queued lot, which no hold holds, in its place (R6). -/
theorem withdraw_inPlace (hstate : (s.lot (s.run r).lot).state = .waiting ∨ (s.lot (s.run r).lot).state = .running)
    (hfree : (s.lot (s.run r).lot).lotBlocked = false) (hin : (s.run r).lot ∈ s.queue) :
    withdraw r s = withdrawn r s := by
  have hlot : (withdrawn r s).lot (s.run r).lot = (s.lot (s.run r).lot).returned (s.run r).pos := withdrawn_lot ..
  rw [withdraw_eq, heldTest_keeps (.inr (.inl (by rw [hlot]; exact hfree))), queueTest_inPlace]
  have hbelongs : belongsInQueue ((withdrawn r s).lot (s.run r).lot) = true := by
    rw [belongsInQueue_iff, hlot]
    exact ⟨hstate, Nat.succ_pos _, hfree⟩
  rw [hbelongs]
  exact List.contains_iff_mem.2 hin

end

/-- Settles O55. -/
theorem assignmentsBindARun : Obligations.AssignmentsBindARun := by
  refine ⟨fun l p r c s hfree hlowRun habsent hlowPlace => ?_, fun r s => ?_⟩
  · intro x k st new y u queue
    have hr : freeRunIx s = some r := freeRunIx_eq hfree hlowRun
    have hp : absentPlace (s.lot l) = some p := absentPlace_eq habsent hlowPlace
    have hsites (h : st.minSites ≤ siteNumber (usableSites k st)) : tooFewSites k st = false :=
      decide_eq_false (Nat.not_lt.2 h)
    refine ⟨fun hstate hdeadline hdiffers => ?_, fun hstate hsetup hvalid hmin => ?_, fun hstate => ?_, matchLot_of_done,
      matchLot_of_round hr hp, preemptSearch_of_done, preemptSearch_of_round hr hp⟩
    · have hseq : (sendOrder c .handler (.setup st.kit st.setpoint) u).seqCounter = s.seqCounter := by simp [u]
      have haside : setAsideOf k s = none := by rw [setAsideOf, hdeadline]; rfl
      rw [assignRun_changes hr hp hstate hdeadline hdiffers, firstContext, haside, ← hseq]
      rfl
    · have hseq : (sendBoth c (.start x.tag p (usableSites k st) st.map) u).seqCounter = s.seqCounter := by simp [u]
      rw [assignRun_starts hr hp hstate hsetup hvalid (hsites hmin), ← hseq]
      rfl
    · have hseq : (sendOrder c .handler .pause u).seqCounter = s.seqCounter := by simp [u]
      rw [reserveRun_pauses hr hp hstate, ← hseq]
      rfl
  · intro l p c x k y freed t hstate hfree hstack
    have ht : withdrawn r s = t := by
      rw [withdrawn, forget_eq hstack]
      rfl
    refine ⟨fun hin => (withdraw_inPlace hstate hfree hin).trans ht, fun hout hage hno hhot => ?_⟩
    rw [withdraw_enters rfl rfl hstate hfree hout hage (noCellFor_withdrawn hstack hno)
      (noCandidateFor_withdrawn hstack hhot), ht]
    rfl

end Sys2Proof.Machine
end

section
/-! SUPPORT. How a hold is released, and what a release frees of a lot at work (R15 to R17). -/

set_option Elab.async false

namespace Sys2Proof.Machine

/-! ## The removal of a hold (R15) -/

/-- A lot without a hold record, with the release's effect (R15). -/
def Lot.freed (x : Lot) (k : HoldKind) (pos : Option RunPlace) : Lot :=
  { x with holds := x.holds.filter fun h => !h.is k pos }.released k

theorem released_runs (x : Lot) (k : HoldKind) : (x.released k).runs = x.runs := by cases k <;> rfl
theorem freed_openAt (x : Lot) (k : HoldKind) (pos : Option RunPlace) (q : RunPlace) :
    (x.freed k pos).openAt q = x.openAt q := by
  rw [Lot.openAt, Lot.openAt, Lot.freed, released_runs]

theorem setRun_self {s : State} {r : RunIx} : s.setRun r (s.run r) = s :=
  congrArg (fun v => { s with runs := v }) (vset_self s.runs r)

theorem setLot_self {s : State} {l : LotSlot} : s.setLot l (s.lot l) = s :=
  congrArg (fun v => { s with lots := v }) (vset_self s.lots l)

theorem setLot_setLot (l : LotSlot) (x y : Lot) (s : State) : (s.setLot l x).setLot l y = s.setLot l y :=
  congrArg (fun v => { s with lots := v }) (vset_vset s.lots l x y)

/-- The lot's part of a removal. -/
theorem removeHold_lotPart (l : LotSlot) (k : HoldKind) (pos : Option RunPlace) (s : State) :
    ((postNotice (.holdReleased ((s.modLot l fun x => { x with holds := x.holds.filter fun h => !(h.is k pos) }).lot l).tag
      k pos) (s.modLot l fun x => { x with holds := x.holds.filter fun h => !(h.is k pos) })).modLot l
        fun x => x.released k) =
      (postNotice (.holdReleased (s.lot l).tag k pos) s).setLot l ((s.lot l).freed k pos) := by
  rw [State.modLot, State.modLot, setLot_lot, postNotice_setLot, setLot_lot, setLot_setLot]
  rfl

theorem removeHold_lotScope (l : LotSlot) (k : HoldKind) (s : State) :
    removeHold l k none s = (postNotice (.holdReleased (s.lot l).tag k none) s).setLot l ((s.lot l).freed k none) :=
  removeHold_lotPart l k none s

/-- A removal at a position whose run is open. -/
theorem removeHold_open {l : LotSlot} {k : HoldKind} {p : RunPlace} {r : RunIx} {s : State}
    (hopen : (s.lot l).openAt p = some r) :
    removeHold l k (some p) s =
      ((postNotice (.holdReleased (s.lot l).tag k (some p)) s).setLot l ((s.lot l).freed k (some p))).setRun r
        ((s.run r).released k) := by
  set v := (postNotice (.holdReleased (s.lot l).tag k (some p)) s).setLot l ((s.lot l).freed k (some p)) with hv
  have hvopen : (v.lot l).openAt p = some r := by rw [hv, setLot_lot, freed_openAt, hopen]
  have hdef : removeHold l k (some p) s = match (v.lot l).openAt p with
      | some r => v.modRun r fun x => x.released k
      | none => v := by
    rw [hv, ← removeHold_lotPart]
    rfl
  rw [hdef, hvopen]
  show v.setRun r ((v.run r).released k) = _
  rw [hv, setLot_run, postNotice_run]

/-- A removal at a position whose run is closed. -/
theorem removeHold_closed {l : LotSlot} {k : HoldKind} {p : RunPlace} {s : State} (hopen : (s.lot l).openAt p = none) :
    removeHold l k (some p) s =
      (postNotice (.holdReleased (s.lot l).tag k (some p)) s).setLot l ((s.lot l).freed k (some p)) := by
  set v := (postNotice (.holdReleased (s.lot l).tag k (some p)) s).setLot l ((s.lot l).freed k (some p)) with hv
  have hvopen : (v.lot l).openAt p = none := by rw [hv, setLot_lot, freed_openAt, hopen]
  have hdef : removeHold l k (some p) s = match (v.lot l).openAt p with
      | some r => v.modRun r fun x => x.released k
      | none => v := by
    rw [hv, ← removeHold_lotPart]
    rfl
  rw [hdef, hvopen]

/-! ## What a release frees of a lot at work (R17) -/

theorem leaveRouteEnd_of_working {l : LotSlot} {s : State} (h : (s.lot l).state ≠ .held) : leaveRouteEnd l s = s :=
  if_neg fun hh => h hh.1

/-- A lot that is not HELD, and stands in or out of the queue as it should, has only its runs freed. -/
theorem freeing_of_working {l : LotSlot} {s t : State} (hopen : eachOpen l none freeOpen s = t)
    (hstate : (t.lot l).state ≠ .held) (hplace : inPlace l t) : freeing l s = t := by
  rw [freeing, hopen, leaveHeld_keeps (.inl hstate), queueTest_inPlace hplace, leaveStepClose_keeps (.inl hstate),
    leaveRouteEnd_of_working hstate]

theorem freeOpen_of_busy {r : RunIx} {s : State} (h : (s.cell (s.run r).cell).state ≠ .stopped) : freeOpen r s = s :=
  if_pos h

/-- A lot whose one open run stands on a cell that is not STOPPED has nothing freed. -/
theorem freeing_of_busy {l : LotSlot} {p : RunPlace} {r : RunIx} {s : State} (honly : onlyRun l p r s)
    (hcell : (s.cell (s.run r).cell).state ≠ .stopped) (hstate : (s.lot l).state ≠ .held) (hplace : inPlace l s) :
    freeing l s = s := by
  have hfree : freeOpen r s = s := freeOpen_of_busy hcell
  have hopen : eachOpen l none freeOpen s = freeOpen r s := eachOpen_of_onlyRun honly fun q hq => by
    rw [hfree, honly.1 q, if_neg hq]
  exact freeing_of_working (hopen.trans hfree) hstate hplace

theorem is_positioned {h : Hold} {k : HoldKind} {p : RunPlace} (his : h.is k (some p) = true) : h.pos.isNone = false := by
  rw [Hold.is, Bool.and_eq_true, beq_iff_eq, beq_iff_eq] at his
  rw [his.2]
  rfl

/-- A record of run scope blocks no lot (R6, R14). -/
theorem lotBlocked_filter (x : Lot) (k : HoldKind) (p : RunPlace) :
    { x with holds := x.holds.filter fun h => !h.is k (some p) : Lot }.lotBlocked = x.lotBlocked := by
  rw [Lot.lotBlocked, Lot.lotBlocked, List.any_filter]
  refine congrArg (fun f => x.holds.any f) (funext fun h => ?_)
  cases his : h.is k (some p) with
  | false => simp
  | true => rw [is_positioned his]; simp

theorem filter_of_absent {x : Lot} {k : HoldKind} {pos : Option RunPlace} (h : x.holdsKind k pos = false) :
    x.holds.filter (fun g => !g.is k pos) = x.holds := by
  refine List.filter_eq_self.2 fun g hg => ?_
  rw [Lot.holdsKind, List.any_eq_false] at h
  simpa using h g hg

/-! ## The release that follows a golden PASS (R16) -/

/-- The notice of a release, if the record is there. -/
def releaseNotice (x : Lot) (k : HoldKind) (p : RunPlace) (s : State) : State :=
  if x.holdsKind k (some p) then postNotice (.holdReleased x.tag k (some p)) s else s

/-- The site figures after a release. -/
def sitesFreed (released : Bool) (x : Run) : Run :=
  { x with sites := if released then Vector.replicate 16 ⟨0, 0, 0⟩ else x.sites }

theorem removeIfPresent_open {l : LotSlot} {k : HoldKind} {p : RunPlace} {r : RunIx} {s : State} (hk : k = .site ∨ k = .consec)
    (hopen : (s.lot l).openAt p = some r) :
    removeIfPresent l k p s =
      ((releaseNotice (s.lot l) k p s).setLot l
        { s.lot l with holds := (s.lot l).holds.filter fun h => !h.is k (some p) }).setRun r
        (sitesFreed ((s.lot l).holdsKind k (some p)) (s.run r)) := by
  have hlot : (s.lot l).freed k (some p) = { s.lot l with holds := (s.lot l).holds.filter fun h => !h.is k (some p) } := by
    rcases hk with rfl | rfl <;> rfl
  have hrun : (s.run r).released k = sitesFreed true (s.run r) := by
    rcases hk with rfl | rfl <;> rfl
  rw [removeIfPresent, releaseNotice]
  cases hheld : (s.lot l).holdsKind k (some p) with
  | true =>
    rw [if_pos rfl, if_pos rfl, removeHold_open hopen, hlot, hrun]
  | false =>
    rw [if_neg (by simp), if_neg (by simp), filter_of_absent hheld]
    exact (setRun_self.trans setLot_self).symm

/-! ### The notices of a release before the records -/

theorem releaseNotice_setRun (x : Lot) (k : HoldKind) (p : RunPlace) (r : RunIx) (y : Run) (s : State) :
    releaseNotice x k p (s.setRun r y) = (releaseNotice x k p s).setRun r y := by
  rw [releaseNotice, releaseNotice]
  split
  · exact postNotice_setRun ..
  · rfl

theorem releaseNotice_setLot (x : Lot) (k : HoldKind) (p : RunPlace) (l : LotSlot) (y : Lot) (s : State) :
    releaseNotice x k p (s.setLot l y) = (releaseNotice x k p s).setLot l y := by
  rw [releaseNotice, releaseNotice]
  split
  · exact postNotice_setLot ..
  · rfl

theorem releaseNotice_setCell (x : Lot) (k : HoldKind) (p : RunPlace) (c : CellIx) (y : Cell) (s : State) :
    releaseNotice x k p (s.setCell c y) = (releaseNotice x k p s).setCell c y := by
  rw [releaseNotice, releaseNotice]
  split
  · exact postNotice_setCell ..
  · rfl

section
variable (x : Lot) (k : HoldKind) (p : RunPlace) (s : State)

@[simp] theorem releaseNotice_lots : (releaseNotice x k p s).lots = s.lots := by rw [releaseNotice]; split <;> simp
@[simp] theorem releaseNotice_runs : (releaseNotice x k p s).runs = s.runs := by rw [releaseNotice]; split <;> simp
@[simp] theorem releaseNotice_cells : (releaseNotice x k p s).cells = s.cells := by rw [releaseNotice]; split <;> simp
@[simp] theorem releaseNotice_queue : (releaseNotice x k p s).queue = s.queue := by rw [releaseNotice]; split <;> simp
@[simp] theorem releaseNotice_seqCounter : (releaseNotice x k p s).seqCounter = s.seqCounter := by
  rw [releaseNotice]; split <;> simp
@[simp] theorem releaseNotice_lot (l : LotSlot) : (releaseNotice x k p s).lot l = s.lot l := by
  rw [State.lot, releaseNotice_lots]; rfl
@[simp] theorem releaseNotice_run (r : RunIx) : (releaseNotice x k p s).run r = s.run r := by
  rw [State.run, releaseNotice_runs]; rfl
@[simp] theorem releaseNotice_cell (c : CellIx) : (releaseNotice x k p s).cell c = s.cell c := by
  rw [State.cell, releaseNotice_cells]; rfl
@[simp] theorem releaseNotice_timer : (releaseNotice x k p s).timer = s.timer := by rw [releaseNotice]; split <;> simp
@[simp] theorem releaseNotice_floorClock : (releaseNotice x k p s).floorClock = s.floorClock := by
  rw [releaseNotice]; split <;> simp
@[simp] theorem releaseNotice_routes : (releaseNotice x k p s).routes = s.routes := by rw [releaseNotice]; split <;> simp
end

/-- The records that a golden PASS takes from a list (R16). -/
def sitesReleased (x : Lot) (p : RunPlace) : Lot :=
  { x with holds := x.holds.filter fun g => !(g.is .site (some p)) && !(g.is .consec (some p)) }

/-- A release of both kinds at the position of the run of a lot that is not HELD, on a cell that is not STOPPED (R16). -/
theorem goldenRelease_eq {l : LotSlot} {p : RunPlace} {r : RunIx} {s : State} (honly : onlyRun l p r s)
    (hcell : (s.cell (s.run r).cell).state ≠ .stopped) (hstate : (s.lot l).state ≠ .held) (hplace : inPlace l s) :
    goldenRelease r s =
      ((releaseNotice (s.lot l) .consec p (releaseNotice (s.lot l) .site p s)).setLot l
        (sitesReleased (s.lot l) p)).setRun r
        (sitesFreed ((s.lot l).holdsKind .site (some p) || (s.lot l).holdsKind .consec (some p)) (s.run r)) := by
  obtain ⟨hopen, hlot, hpos⟩ := honly
  set x := s.lot l with hx
  set y : Lot := { x with holds := x.holds.filter fun h => !h.is .site (some p) } with hy
  set t := ((releaseNotice x .site p s).setLot l y).setRun r (sitesFreed (x.holdsKind .site (some p)) (s.run r)) with ht
  have hopenx : x.openAt p = some r := by rw [hopen p, if_pos rfl]
  have hfirst : removeIfPresent l .site p s = t := removeIfPresent_open (.inl rfl) hopenx
  have htlot : t.lot l = y := by rw [ht, setRun_lot, setLot_lot]
  have htrun : t.run r = sitesFreed (x.holdsKind .site (some p)) (s.run r) := setRun_run ..
  have hyconsec : y.holdsKind .consec (some p) = x.holdsKind .consec (some p) := by
    rw [Lot.holdsKind, Lot.holdsKind, hy, List.any_filter]
    refine congrArg (fun f => x.holds.any f) (funext fun h => ?_)
    cases hc : h.is .consec (some p) with
    | false => simp
    | true =>
      have hkind : h.kind = .consec := by
        rw [Hold.is, Bool.and_eq_true, beq_iff_eq] at hc
        exact hc.1
      simp [Hold.is, hkind]
  have hnotice (v : State) : releaseNotice y .consec p v = releaseNotice x .consec p v := by
    rw [releaseNotice, releaseNotice, hyconsec]
  have hz : { y with holds := y.holds.filter fun h => !h.is .consec (some p) } = sitesReleased x p := by
    rw [sitesReleased, hy, List.filter_filter]
    simp only [Bool.and_comm]
  have hsecond : removeIfPresent l .consec p t =
      ((releaseNotice x .consec p (releaseNotice x .site p s)).setLot l (sitesReleased x p)).setRun r
        (sitesFreed (x.holdsKind .site (some p) || x.holdsKind .consec (some p)) (s.run r)) := by
    have hsites : sitesFreed (x.holdsKind .consec (some p)) (sitesFreed (x.holdsKind .site (some p)) (s.run r)) =
        sitesFreed (x.holdsKind .site (some p) || x.holdsKind .consec (some p)) (s.run r) := by
      cases x.holdsKind .site (some p) <;> cases x.holdsKind .consec (some p) <;> rfl
    rw [removeIfPresent_open (.inr rfl) (by rw [htlot]; exact hopenx), htlot, htrun, hyconsec, hnotice, hz, hsites, ht,
      releaseNotice_setRun, releaseNotice_setLot, setLot_work, setRun_work, setLot_work, setRun_work]
    simp only [work_work, work_lots, work_runs, work_cells, work_queue, work_seqCounter, vset_vset, setLot_work, setRun_work]
  set v := ((releaseNotice x .consec p (releaseNotice x .site p s)).setLot l (sitesReleased x p)).setRun r
    (sitesFreed (x.holdsKind .site (some p) || x.holdsKind .consec (some p)) (s.run r)) with hv
  have hvlot : v.lot l = sitesReleased x p := by rw [hv, setRun_lot, setLot_lot]
  have hvrun : v.run r = sitesFreed (x.holdsKind .site (some p) || x.holdsKind .consec (some p)) (s.run r) := setRun_run ..
  have hvcell (d : CellIx) : v.cell d = s.cell d := by simp [hv]
  have hblocked : (sitesReleased x p).lotBlocked = x.lotBlocked := by
    rw [← hz, lotBlocked_filter, hy, lotBlocked_filter]
  rw [goldenRelease, hlot, hpos]
  show freeing l (removeIfPresent l .consec p (removeIfPresent l .site p s)) = v
  rw [hfirst, hsecond]
  refine freeing_of_busy (p := p) (r := r) ⟨fun q => ?_, ?_, ?_⟩ ?_ ?_ ?_
  · rw [hvlot]
    exact hopen q
  · rw [hvrun]
    exact hlot
  · rw [hvrun]
    exact hpos
  · rw [hvrun, hvcell]
    exact hcell
  · rw [hvlot]
    exact hstate
  · have hbelongs : belongsInQueue (v.lot l) = belongsInQueue x := by
      rw [hvlot, belongsInQueue, belongsInQueue, hblocked]
      rfl
    rw [inPlace, hbelongs, ← hplace]
    simp [hv]

end Sys2Proof.Machine
end

section
/-! PROOF. O44: the results of golden checks (R104 to R106, R109). -/

set_option Elab.async false

namespace Sys2Proof.Machine

/-! ## The result recorded (R104) -/

/-- A cell with the result of its golden check, the stage's deadline cancelled (R104). -/
def Cell.checked (k : Cell) (mask enabled : SiteMask) (o : GoldenOutcome) (clock : FloorTime) : Cell :=
  { k with deadline := none, golden := ⟨mask, o, clock⟩, enabled := enabled }

theorem recordGolden_eq {c : CellIx} {mask enabled : SiteMask} {o : GoldenOutcome} {s : State}
    (hdeadline : ∀ d ∈ (s.cell c).deadline, d.kind.isStage = true) :
    recordGolden c mask enabled o s = (postNotice (.goldenDone c mask enabled o) s).setCell c
      ((s.cell c).checked mask enabled o s.floorClock) := by
  rw [recordGolden, State.modCell, Cell.cancelStage_of_stage hdeadline, postNotice_setCell]
  rfl

section
variable {mask : SiteMask} {c : CellIx} {p : Prep} {sites least : Nat} {l : LotSlot} {place : RunPlace} {r : RunIx}
  {u : State} (hstate : (u.cell c).state = .golden) (hprep : (u.cell c).prep = some p)
  (hsites : p.goldenSites = some sites) (hleast : p.goldenMin = some least)
include hstate hprep hsites hleast

theorem onGoldenDone_passes (hpass : least ≤ siteNumber (mask &&& BitVec.ofNat 16 (2 ^ sites - 1))) :
    onGoldenDone mask c .tester u =
      goldenPass c (recordGolden c mask (mask &&& BitVec.ofNat 16 (2 ^ sites - 1)) .pass u) := by
  unfold onGoldenDone
  rw [hstate, hprep]
  show (if siteNumber (mask &&& sitesBelow (p.goldenSites.getD 0)) < p.goldenMin.getD 0 then _ else
    goldenPass c (recordGolden c mask (mask &&& sitesBelow (p.goldenSites.getD 0)) .pass u)) = _
  rw [hsites, hleast]
  exact if_neg (Nat.not_lt.2 hpass)

theorem onGoldenDone_fails (hfail : siteNumber (mask &&& BitVec.ofNat 16 (2 ^ sites - 1)) < least) :
    onGoldenDone mask c .tester u =
      goldenFail c (mask &&& BitVec.ofNat 16 (2 ^ sites - 1))
        (recordGolden c mask (mask &&& BitVec.ofNat 16 (2 ^ sites - 1)) .fail u) := by
  unfold onGoldenDone
  rw [hstate, hprep]
  show (if siteNumber (mask &&& sitesBelow (p.goldenSites.getD 0)) < p.goldenMin.getD 0 then
    goldenFail c (mask &&& sitesBelow (p.goldenSites.getD 0))
      (recordGolden c mask (mask &&& sitesBelow (p.goldenSites.getD 0)) .fail u) else _) = _
  rw [hsites, hleast]
  exact if_pos hfail

end

theorem onGoldenDone_of_ne {mask : SiteMask} {c : CellIx} {role : Role} {u : State} (h : (u.cell c).state ≠ .golden) :
    onGoldenDone mask c role u = u := by
  unfold onGoldenDone
  split
  · next hs _ => exact absurd hs h
  · rfl

/-! ## A PASS (R105) -/

/-- The cell that passed its check, its preparation at its end (R105). -/
def Cell.passed (k : Cell) (p : Prep) : Cell :=
  { k with goldenValid := true, downCount := 0, prep := some { p with goldenTaken := true } }

/-- The run whose check passed (R70, R105). -/
def Run.rechecked (x : Run) (released : Bool) : Run := sitesFreed released { x with sinceGolden := 0 }

theorem rechecked_pos (x : Run) (released : Bool) : (x.rechecked released).pos = x.pos := rfl
theorem rechecked_pass (x : Run) (released : Bool) : (x.rechecked released).pass = x.pass := rfl

theorem usableSites_passed (k : Cell) (mask enabled : SiteMask) (o : GoldenOutcome) (clock : FloorTime) (p : Prep) (st : Step) :
    usableSites ((k.checked mask enabled o clock).passed p) st = enabled &&& BitVec.ofNat 16 (2 ^ st.siteCount - 1) := by
  rw [usableSites, sitesBelow]
  rfl

/-- The notices of the holds that a PASS releases (R16). -/
def sitesNoticed (x : Lot) (place : RunPlace) (s : State) : State :=
  releaseNotice x .consec place (releaseNotice x .site place s)

/-- A PASS for the one open run of a lot that is not HELD: the stage choice that follows is made on this state (R105). -/
theorem goldenPass_eq {c : CellIx} {p : Prep} {l : LotSlot} {place : RunPlace} {r : RunIx} {s : State}
    (hprep : (s.cell c).prep = some p) (htarget : p.target = some r) (hcur : (s.cell c).current = some r)
    (hcell : (s.run r).cell = c) (hstate : (s.cell c).state ≠ .stopped) (honly : onlyRun l place r s)
    (hlot : (s.lot l).state ≠ .held) (hplace : inPlace l s) :
    goldenPass c s = chooseStage c r ((((sitesNoticed (s.lot l) place s).setLot l (sitesReleased (s.lot l) place)).setRun r
      ((s.run r).rechecked ((s.lot l).holdsKind .site (some place) || (s.lot l).holdsKind .consec (some place)))).setCell c
      ((s.cell c).passed p)) := by
  set k : Cell := { s.cell c with goldenValid := true, downCount := 0 } with hk
  set v := (s.setCell c k).setRun r { s.run r with sinceGolden := 0 } with hv
  have hvcell : v.cell c = k := setCell_cell ..
  have hvrun : v.run r = { s.run r with sinceGolden := 0 } := setRun_run ..
  have hrelease := goldenRelease_eq (l := l) (p := place) (r := r) (s := v)
    (by rw [onlyRun, hvrun]; exact honly) (by rw [hvrun]; show (v.cell (s.run r).cell).state ≠ _; rw [hcell, hvcell]; exact hstate) (by exact hlot) (by exact hplace)
  have hpass : goldenPass c s = nextStage c ((goldenRelease r v).modCell c fun k => k.modPrep fun p =>
      { p with goldenTaken := true }) := by
    simp only [goldenPass, modCell_cell, hcur]
    rfl
  have hmod : (goldenRelease r v).modCell c (fun k => k.modPrep fun p => { p with goldenTaken := true }) =
      (((sitesNoticed (s.lot l) place s).setLot l (sitesReleased (s.lot l) place)).setRun r
      ((s.run r).rechecked ((s.lot l).holdsKind .site (some place) || (s.lot l).holdsKind .consec (some place)))).setCell c
      ((s.cell c).passed p) := by
    have hmodPrep : (k.modPrep fun p => { p with goldenTaken := true }) = (s.cell c).passed p := by
      rw [Cell.modPrep, hk]
      simp only [hprep, Option.map_some]
      rfl
    have hlotv : v.lot l = s.lot l := rfl
    rw [hrelease, hlotv, State.modCell, setRun_cell, setLot_cell, releaseNotice_cell, releaseNotice_cell, hvcell, hmodPrep,
      hvrun, hv, releaseNotice_setRun, releaseNotice_setCell, releaseNotice_setRun, releaseNotice_setCell]
    simp only [setLot_work, setRun_work, setCell_work, work_work, work_lots, work_runs, work_cells, work_queue,
      work_seqCounter, vset_vset, releaseNotice_runs, releaseNotice_cells, sitesNoticed]
    rfl
  rw [hpass, hmod, nextStage, setCell_cell]
  show (match p.target with | some r => _ | none => _) = _
  rw [htarget]

/-- A PASS for a run whose preparation needs no setup and no further check comes to its end (R98, R105). -/
theorem goldenPass_ends {c : CellIx} {p : Prep} {l : LotSlot} {place : RunPlace} {r : RunIx} {s : State}
    (hprep : (s.cell c).prep = some p) (htarget : p.target = some r) (hcur : (s.cell c).current = some r)
    (hcell : (s.run r).cell = c) (hstate : (s.cell c).state ≠ .stopped) (honly : onlyRun l place r s)
    (hlot : (s.lot l).state ≠ .held) (hplace : inPlace l s)
    (hsetup : p.purpose = .periodic ∨ setupCost (s.cell c) (stepOf s (s.lot l)) = 0) :
    goldenPass c s = endForTarget c r ((((sitesNoticed (s.lot l) place s).setLot l (sitesReleased (s.lot l) place)).setRun r
      ((s.run r).rechecked ((s.lot l).holdsKind .site (some place) || (s.lot l).holdsKind .consec (some place)))).setCell c
      ((s.cell c).passed p)) := by
  rw [goldenPass_eq hprep htarget hcur hcell hstate honly hlot hplace]
  set v := (((sitesNoticed (s.lot l) place s).setLot l (sitesReleased (s.lot l) place)).setRun r
      ((s.run r).rechecked ((s.lot l).holdsKind .site (some place) || (s.lot l).holdsKind .consec (some place)))).setCell c
      ((s.cell c).passed p) with hv
  have hvcell : v.cell c = (s.cell c).passed p := setCell_cell ..
  have hstep : stepOfRun v r = stepOf s (s.lot l) := by
    have hrun : (v.run r).lot = l := by
      rw [hv, setCell_run, setRun_run]
      exact honly.2.1
    have hlotv : v.lot l = sitesReleased (s.lot l) place := by rw [hv, setCell_lot, setRun_lot, setLot_lot]
    rw [stepOfRun, lotOfRun, hrun, hlotv]
    exact stepOf_congr (by simp [hv, sitesNoticed]) rfl rfl
  rw [chooseStage_setUp (p := { p with goldenTaken := true }) (by rw [hvcell]; rfl)
    (hsetup.imp_right fun h => by rw [hvcell, hstep]; exact h), if_neg (by simp)]

/-! ## A FAIL (R106) -/

/-- A cell quarantined by its failed check (R85, R106). -/
def Cell.failedCheck (k : Cell) (mask enabled : SiteMask) (clock : FloorTime) (now : Nat) : Cell :=
  { k with
    golden := ⟨mask, .fail, clock⟩, enabled := enabled, goldenValid := false, deadline := none
    prep := none, state := .quarantined, cause := some .sites, since := now, acc := k.accNow now, changed := true }

/-- A FAIL of a check with no deadline set aside and no run to withdraw, up to the hold it raises (R106). -/
theorem goldenFail_eq {c : CellIx} {mask enabled : SiteMask} {p : Prep} {s : State} (hstate : (s.cell c).state = .golden)
    (hprep : (s.cell c).prep = some p) (hset : p.setAside = none)
    (hdeadline : ∀ d ∈ (s.cell c).deadline, d.kind.isStage = true) (hw : noWithdrawal (s.cell c) s) :
    goldenFail c enabled (recordGolden c mask enabled .fail s) =
      raiseOnCurrent c .golden (some (siteNumber enabled))
        ((postNotice (.cellChanged c .quarantined (some .sites)) (postNotice (.goldenDone c mask enabled .fail) s)).setCell c
          ((s.cell c).failedCheck mask enabled s.floorClock s.timer)) := by
  rw [recordGolden_eq hdeadline]
  set u := postNotice (.goldenDone c mask enabled .fail) s with hu
  set k := (s.cell c).checked mask enabled .fail s.floorClock with hk
  have hucell : (u.setCell c k).cell c = k := setCell_cell ..
  have htimer : (u.setCell c k).timer = s.timer := by simp [hu]
  have hkprep : (k.marked s.timer .quarantined (some .sites)).prep = some p := hprep
  have hmarked : enterMarked c .quarantined (some .sites) (u.setCell c k) =
      u.setCell c (k.marked s.timer .quarantined (some .sites)) := by
    rw [enterMarked_eq (by rw [hucell]; show (s.cell c).state ≠ _; simp [hstate]), hucell, htimer, setCell_setCell]
  have hcellm : (u.setCell c (k.marked s.timer .quarantined (some .sites))).cell c =
      k.marked s.timer .quarantined (some .sites) := setCell_cell ..
  have hdiscarded (t : State) : ((k.marked s.timer .quarantined (some .sites)).discarded t).invalid =
      (s.cell c).failedCheck mask enabled s.floorClock s.timer := by
    have hleft : deadlineLeft (k.marked s.timer .quarantined (some .sites)) t = none := by
      rw [deadlineLeft, hkprep, Option.bind_some, hset]
      rfl
    rw [Cell.discarded, hleft]
    rfl
  rw [goldenFail, enterQuarantined, hmarked, interrupt_plain (j := p) (by rw [hcellm]; exact hkprep) (.inr rfl)
    (by rw [hcellm]; exact noWithdrawal_congr (s := s) rfl rfl (by simp [hu]) hw), hcellm, setCell_setCell, hdiscarded,
    postNotice_setCell]

/-- Settles the FAIL of a periodic check of O44 (R12, R106, R138). -/
theorem goldenCheckFails (e : Envelope) (mask : SiteMask) (c : CellIx) (p : Prep) (sites least : Nat) (l : LotSlot)
    (place : RunPlace) (r : RunIx) (s : State) (h : fromStation (.goldenDone e mask) e c .tester s) :
    let u := metBy (.goldenDone e mask) e c .tester s
    let k := u.cell c
    let x := s.lot l
    let enabled := mask &&& BitVec.ofNat 16 (2 ^ sites - 1)
    let n := siteNumber enabled
    k.state = .golden → k.prep = some p → p.goldenSites = some sites → p.goldenMin = some least → n < least →
    k.current = some r → k.reserved = none → p.setAside = none → (∀ d ∈ k.deadline, d.kind = .golden) →
    onlyRun l place r s → (s.run r).state = .testing → (s.run r).cell = c → x.state = .running →
    x.holdsKind .golden (some place) = false → x.lotBlocked = false → inPlace l s →
    exec (.goldenDone e mask) s = .next
      { sendOrder c .handler .stop
          (postNotice (.holdRaised x.tag .golden (some place) .stop (some n))
            (postNotice (.cellChanged c .quarantined (some .sites))
              (postNotice (.goldenDone c mask enabled .fail) u))) with
        lots := vset s.lots l { x with holds := x.holds ++ [newHold s l .golden (some place) .stop (some n)] }
        runs := vset s.runs r { s.run r with state := .stopped, stoppedFrom := some .testing }
        cells := vset u.cells c { k with
          golden := ⟨mask, .fail, s.floorClock⟩, enabled := enabled, goldenValid := false, deadline := none
          prep := none, state := .quarantined, cause := some .sites, since := s.timer, acc := k.accNow s.timer
          changed := true } } := by
  intro u k x enabled n hstate hprep hsites hleast hfail hcur hreserved hset hdeadline honly hrun hrcell hlot hnew hfree hplace
  have hexec : exec (.goldenDone e mask) s = .next (onGoldenDone mask c .tester u) := exec_fromStation rfl h
  have hruns : u.runs = s.runs := metBy_runs (.goldenDone e mask) e c .tester s
  have hlots : u.lots = s.lots := metBy_lots (.goldenDone e mask) e c .tester s
  have hurun : u.run r = s.run r := metBy_run (.goldenDone e mask) e c .tester s r
  have hulot : u.lot l = s.lot l := metBy_lot (.goldenDone e mask) e c .tester s l
  have htimer : u.timer = s.timer := metBy_timer (.goldenDone e mask) e c .tester s
  have hclock : u.floorClock = s.floorClock := metBy_floorClock (.goldenDone e mask) e c .tester s
  have hqueue : u.queue = s.queue := metBy_queue (.goldenDone e mask) e c .tester s
  have hw : noWithdrawal (u.cell c) u := ⟨hreserved, fun r' hr' => by
    obtain rfl := Option.some.inj (hcur.symm.trans hr')
    rw [hurun, hrun]
    simp⟩
  rw [hexec, onGoldenDone_fails hstate hprep hsites hleast hfail,
    goldenFail_eq hstate hprep hset (fun d hd => by rw [hdeadline d hd]; rfl) hw, hclock, htimer]
  set v := postNotice (.cellChanged c .quarantined (some .sites)) (postNotice (.goldenDone c mask enabled .fail) u) with hv
  have hvrun : v.run r = s.run r := by rw [hv, postNotice_run, postNotice_run, hurun]
  have hvlot : v.lot l = s.lot l := by rw [hv, postNotice_lot, postNotice_lot, hulot]
  have hnewHold : newHold v l .golden (some place) .stop (some n) = newHold s l .golden (some place) .stop (some n) := by
    rw [newHold, newHold, hvlot]
    simp [hv, hclock]
  set y := (u.cell c).failedCheck mask enabled s.floorClock s.timer with hy
  have hystate : y.state = .quarantined := rfl
  rw [raiseOnCurrent_stops (u := v) (y := y) (k := .golden) (r := r) (l := l) (p := place) trivial
    (by rw [hv, postNotice_cell, postNotice_cell]; rfl) hcur (by rw [onlyRun, hvlot, hvrun]; exact honly)
    (by rw [hvrun]; exact hrcell) (by rw [hvrun]; exact hrun) (by rw [hystate]; simp) (by rw [hystate]; simp)
    (by rw [hvlot]; exact hlot) (by rw [hvlot]; exact hnew) (by rw [hvlot]; exact hfree)
    (by rw [inPlace, hvlot, hv, postNotice_queue, postNotice_queue, hqueue]; exact hplace), hvlot, hvrun, hnewHold]
  have hlotsv : v.lots = s.lots := by rw [hv, postNotice_lots, postNotice_lots, hlots]
  have hrunsv : v.runs = s.runs := by rw [hv, postNotice_runs, postNotice_runs, hruns]
  have hcellsv : v.cells = u.cells := by rw [hv, postNotice_cells, postNotice_cells]
  set t := sendOrder c .handler .stop (postNotice (.holdRaised x.tag .golden (some place) .stop (some n)) v) with ht
  have hseqt : t.seqCounter = v.seqCounter := by rw [ht, sendOrder_seqCounter, postNotice_seqCounter]
  have hqueuet : t.queue = v.queue := by rw [ht, sendOrder_queue, postNotice_queue]
  rw [hlotsv, hrunsv, hcellsv]
  show Host.Outcome.next (t.work _ _ _ v.queue v.seqCounter) = .next (t.work _ _ _ t.queue t.seqCounter)
  rw [hseqt, hqueuet]
  rfl

/-! ## The end of a preparation whose check passed (R109) -/

section
variable {c : CellIx} {l : LotSlot} {r : RunIx} {x : Lot} {y : Run} {k : Cell} {p : Prep} {s : State}

/-- A cell at work again with its preparation over, a deadline set aside armed again (R107, R109). -/
def Cell.finished (k : Cell) (p : Prep) (now : Nat) : Cell :=
  { k with
    deadline := (p.setAside.map fun a => ⟨a.kind, now + a.remaining⟩).or k.deadline
    prep := none, state := .running, cause := none, since := now, acc := k.accNow now }

theorem dropPrep_entered {now : Nat} (hprep : k.prep = some p) (hstate : k.state ≠ .running) :
    (k.dropPrep now).entered now .running none = k.finished p now := by
  have hdrop : k.dropPrep now =
      { k with prep := none, deadline := (p.setAside.map fun a => ⟨a.kind, now + a.remaining⟩).or k.deadline } := by
    rw [Cell.dropPrep, hprep]
    cases hset : p.setAside <;> simp [hset]
  rw [hdrop, Cell.entered_of_ne (by exact hstate)]
  rfl

theorem dropPrep_station (now : Nat) (role : Role) : (k.dropPrep now).station role = k.station role := by
  rw [Cell.dropPrep]
  split <;> cases role <;> rfl

theorem dropPrep_enabled (now : Nat) : (k.dropPrep now).enabled = k.enabled := by
  rw [Cell.dropPrep]
  split <;> rfl

/-- The end of a preparation for its ASSIGNED run, on records just written (R109, R137). -/
theorem endForTarget_starts_written (hlot : y.lot = l) (hrun : y.state = .assigned) (hprep : k.prep = some p)
    (hstate : k.state ≠ .running) (hstation : ∀ role, k.station role = (s.cell c).station role) :
    endForTarget c r (((s.setLot l x).setRun r y).setCell c k) =
      (sendBoth c (.start x.tag y.pos (usableSites k (stepOf s x)) (stepOf s x).map) s).work
        (vset s.lots l { x with state := if x.state = .waiting then .running else x.state, stepStarted := true })
        (vset s.runs r { y with state := .testing, startTime := some s.floorClock })
        (vset s.cells c (k.finished p s.timer)) s.queue s.seqCounter := by
  set v := ((s.setLot l x).setRun r y).setCell c k with hv
  set k' := k.dropPrep s.timer with hk'
  set w := v.setCell c k' with hw
  have hvrun : v.run r = y := by rw [hv, setCell_run, setRun_run]
  have hvcell : v.cell c = k := setCell_cell ..
  have hwcell : w.cell c = k' := setCell_cell ..
  have hwrun : w.run r = y := hvrun
  have hwlot : w.lot l = x := by
    rw [hw, hv, setCell_lot, setCell_lot, setRun_lot, setLot_lot]
  have hlotOf : lotOfRun w r = x := by rw [lotOfRun, hwrun, hlot, hwlot]
  have hstep : stepOfRun w r = stepOf s x := by
    rw [stepOfRun, hlotOf]
    rfl
  have husable : usableSites k' (stepOf s x) = usableSites k (stepOf s x) := by
    rw [usableSites, usableSites, hk', dropPrep_enabled]
  have hports (o : Order) : sendBoth c o w = (((sendBoth c o s).setLot l x).setRun r y).setCell c k' := by
    rw [hw, hv, setCell_setCell, sendBoth_setCell _ _ _ _ fun role => by
        rw [hk', dropPrep_station, hstation]
        rfl, sendBoth_setRun, sendBoth_setLot]
  have hend : endForTarget c r v = startRun c r w := by
    rw [endForTarget_starts (by rw [hvrun]; exact hrun), hvcell]
    rfl
  rw [hend, startRun_eq, hlotOf, hstep, hwcell, hwrun, hlot, hwlot, husable, hports]
  show ((_ : State).setRun r { y with state := .testing, startTime := some s.floorClock }).setLot l _ = _
  simp only [setLot_work, setRun_work, setCell_work, work_work, work_lots, work_runs, work_cells, work_queue,
    work_seqCounter, vset_vset, sendBoth_lots, sendBoth_runs, sendBoth_cells, sendBoth_queue, sendBoth_seqCounter]
  rw [show w.timer = s.timer from rfl, hk', dropPrep_entered hprep hstate, ← hlot]

/-- The end of a preparation for a run that is TESTING, or CLOSING under the deadline set aside (R107, R109). -/
theorem endForTarget_resumes_written (hlot : y.lot = l) (hprep : k.prep = some p) (hstate : k.state ≠ .running)
    (hrun : y.state = .testing ∨ y.state = .closing ∧ y.cell = c ∧ y.targetReached = false
      ∧ p.setAside.map (·.kind) = some .closing)
    (hstation : ∀ role, k.station role = (s.cell c).station role) :
    endForTarget c r (((s.setLot l x).setRun r y).setCell c k) =
      (sendBoth c (.resume x.tag y.pos y.pass (usableSites k (stepOf s x))) s).work (vset s.lots l x)
        (vset s.runs r { y with stoppedFrom := none, suspendedFrom := none })
        (vset s.cells c (k.finished p s.timer)) s.queue s.seqCounter := by
  set v := ((s.setLot l x).setRun r y).setCell c k with hv
  set k' := k.dropPrep s.timer with hk'
  set w := v.setCell c k' with hw
  have hvrun : v.run r = y := by rw [hv, setCell_run, setRun_run]
  have hvcell : v.cell c = k := setCell_cell ..
  have hwcell : w.cell c = k' := setCell_cell ..
  have hwrun : w.run r = y := hvrun
  have hwlot : w.lot l = x := by
    rw [hw, hv, setCell_lot, setCell_lot, setRun_lot, setLot_lot]
  have hlotOf : lotOfRun w r = x := by rw [lotOfRun, hwrun, hlot, hwlot]
  have hstep : stepOfRun w r = stepOf s x := by
    rw [stepOfRun, hlotOf]
    rfl
  have husable : usableSites k' (stepOf s x) = usableSites k (stepOf s x) := by
    rw [usableSites, usableSites, hk', dropPrep_enabled]
  have hports (o : Order) : sendBoth c o w = (((sendBoth c o s).setLot l x).setRun r y).setCell c k' := by
    rw [hw, hv, setCell_setCell, sendBoth_setCell _ _ _ _ fun role => by
        rw [hk', dropPrep_station, hstation]
        rfl, sendBoth_setRun, sendBoth_setLot]
  have hend : endForTarget c r v = resumeRun c r w := by
    rw [endForTarget_resumes (by rw [hvrun]; exact hrun.imp_right fun h => .inl h.1), hvcell]
    rfl
  have hinto : y.resumesInto = y.state := by
    rcases hrun with h | ⟨h, -⟩ <;> rw [Run.resumesInto, h]
  have hgoing : y.goingOn y.resumesInto = { y with stoppedFrom := none, suspendedFrom := none } := by
    rw [hinto]
    rfl
  have hcloses : y.resumesInto ≠ .closing
      ∨ (y.cell = c ∧ y.targetReached = false ∧ k'.deadline.map (·.kind) = some .closing) := by
    rcases hrun with h | ⟨-, hcell, htarget, hset⟩
    · exact .inl (by rw [hinto, h]; simp)
    · refine .inr ⟨hcell, htarget, ?_⟩
      rw [hk', Cell.dropPrep, hprep]
      cases ha : p.setAside with
      | none => simp [ha] at hset
      | some a => simpa [ha] using hset
  rw [hend, resumeRun_eq (by rw [hwrun, hwcell]; exact hcloses), hlotOf, hstep, hwcell, hwrun, husable, hports, hgoing]
  simp only [setLot_work, setRun_work, setCell_work, work_work, work_lots, work_runs, work_cells, work_queue,
    work_seqCounter, vset_vset, sendBoth_lots, sendBoth_runs, sendBoth_cells, sendBoth_queue, sendBoth_seqCounter]
  rw [show w.timer = s.timer from rfl, hk', dropPrep_entered hprep hstate]

end

theorem passed_finished (k : Cell) (mask enabled : SiteMask) (o : GoldenOutcome) (clock : FloorTime) (p : Prep) (now : Nat) :
    ((k.checked mask enabled o clock).passed p).finished { p with goldenTaken := true } now = { k with
      golden := ⟨mask, o, clock⟩, enabled := enabled, goldenValid := true, downCount := 0
      deadline := p.setAside.map fun a => ⟨a.kind, now + a.remaining⟩
      prep := none, state := .running, cause := none, since := now, acc := k.accNow now } := by
  have hkdeadline : ((k.checked mask enabled o clock).passed p).deadline = none := rfl
  rw [Cell.finished, hkdeadline, Option.or_none]
  rfl

/-! ## The results, as they arrive (R104) -/

/-- A PASS on the state that `metBy` gives: the end of the preparation is reached with these records. -/
theorem exec_goldenPass {e : Envelope} {mask : SiteMask} {c : CellIx} {p : Prep} {sites least : Nat} {l : LotSlot}
    {place : RunPlace} {r : RunIx} {s u : State} (hu : u = metBy (.goldenDone e mask) e c .tester s) {enabled : SiteMask}
    (henabled : enabled = mask &&& BitVec.ofNat 16 (2 ^ sites - 1)) (h : fromStation (.goldenDone e mask) e c .tester s)
    (hstate : (u.cell c).state = .golden) (hprep : (u.cell c).prep = some p) (hsites : p.goldenSites = some sites)
    (hleast : p.goldenMin = some least) (hpass : least ≤ siteNumber enabled) (htarget : p.target = some r)
    (hcur : (u.cell c).current = some r) (hdeadline : ∀ d ∈ (u.cell c).deadline, d.kind = .golden)
    (honly : onlyRun l place r s) (hrcell : (s.run r).cell = c) (hlot : (s.lot l).state ≠ .held) (hplace : inPlace l s)
    (hsetup : p.purpose = .periodic ∨ setupCost (u.cell c) (stepOf s (s.lot l)) = 0) :
    exec (.goldenDone e mask) s = .next (endForTarget c r
      ((((sitesNoticed (s.lot l) place (postNotice (.goldenDone c mask enabled .pass) u)).setLot l
        (sitesReleased (s.lot l) place)).setRun r ((s.run r).rechecked
          ((s.lot l).holdsKind .site (some place) || (s.lot l).holdsKind .consec (some place)))).setCell c
        (((u.cell c).checked mask enabled .pass s.floorClock).passed p))) := by
  subst henabled
  have hexec : exec (.goldenDone e mask) s = .next (onGoldenDone mask c .tester u) := by
    rw [hu]
    exact exec_fromStation rfl h
  have hurun : u.run r = s.run r := by rw [hu]; exact metBy_run ..
  have hulot : u.lot l = s.lot l := by rw [hu]; exact metBy_lot ..
  have huqueue : u.queue = s.queue := by rw [hu]; exact metBy_queue ..
  have hclock : u.floorClock = s.floorClock := by rw [hu]; exact metBy_floorClock ..
  have huroutes : u.routes = s.routes := by rw [hu]; exact metBy_routes ..
  rw [hexec, onGoldenDone_passes hstate hprep hsites hleast hpass,
    recordGolden_eq fun d hd => by rw [hdeadline d hd]; rfl, hclock]
  set n := postNotice (.goldenDone c mask (mask &&& BitVec.ofNat 16 (2 ^ sites - 1)) .pass) u with hn
  set k := (u.cell c).checked mask (mask &&& BitVec.ofNat 16 (2 ^ sites - 1)) .pass s.floorClock with hk
  set w := n.setCell c k with hw
  have hwcell : w.cell c = k := setCell_cell ..
  have hwrun : w.run r = s.run r := by rw [hw, setCell_run, hn, postNotice_run, hurun]
  have hwlot : w.lot l = s.lot l := by rw [hw, setCell_lot, hn, postNotice_lot, hulot]
  have hwroutes : w.routes = s.routes := by rw [hw, setCell_routes, hn, postNotice_routes, huroutes]
  have hwqueue : w.queue = s.queue := by rw [hw, setCell_queue, hn, postNotice_queue, huqueue]
  rw [goldenPass_ends (s := w) (p := p) (l := l) (place := place) (by rw [hwcell]; exact hprep) htarget
    (by rw [hwcell]; exact hcur) (by rw [hwrun]; exact hrcell) (by rw [hwcell]; show (u.cell c).state ≠ _; simp [hstate])
    (by rw [onlyRun, hwrun, hwlot]; exact honly) (by rw [hwlot]; exact hlot)
    (by rw [inPlace, hwlot, hwqueue]; exact hplace)
    (by rw [hwcell, hwlot, stepOf_congr hwroutes rfl rfl]; exact hsetup), hwcell, hwlot, hwrun, hw]
  refine congrArg (fun t => Host.Outcome.next (endForTarget c r t)) ?_
  rw [sitesNoticed, releaseNotice_setCell, releaseNotice_setCell]
  simp only [setLot_work, setRun_work, setCell_work, work_work, work_lots, work_runs, work_cells, work_queue,
    work_seqCounter, vset_vset, sitesNoticed]

theorem sitesReleased_of_none {x : Lot} {place : RunPlace} (hsite : x.holdsKind .site (some place) = false)
    (hconsec : x.holdsKind .consec (some place) = false) : sitesReleased x place = x := by
  have hholds : (x.holds.filter fun g => !(g.is .site (some place)) && !(g.is .consec (some place))) = x.holds := by
    rw [← List.filter_filter, filter_of_absent hconsec, filter_of_absent hsite]
  rw [sitesReleased, hholds]

theorem sitesNoticed_of_none {x : Lot} {place : RunPlace} {s : State} (hsite : x.holdsKind .site (some place) = false)
    (hconsec : x.holdsKind .consec (some place) = false) : sitesNoticed x place s = s := by
  simp [sitesNoticed, releaseNotice, hsite, hconsec]

/-- Settles the PASS of a preparation for an ASSIGNED run of O44 (R4, R105, R109, R137). -/
theorem goldenCheckStarts (e : Envelope) (mask : SiteMask) (c : CellIx) (s : State) (p : Prep) (sites least : Nat)
    (l : LotSlot) (place : RunPlace) (r : RunIx) (h : fromStation (.goldenDone e mask) e c .tester s) :
    let u := metBy (.goldenDone e mask) e c .tester s
    let k := u.cell c
    let x := s.lot l
    let st := stepOf s x
    let enabled := mask &&& BitVec.ofNat 16 (2 ^ sites - 1)
    k.state = .golden → k.prep = some p → p.goldenSites = some sites → p.goldenMin = some least →
    least ≤ siteNumber enabled → p.target = some r → k.current = some r → p.setAside = none →
    (∀ d ∈ k.deadline, d.kind = .golden) → setupCost k st = 0 →
    onlyRun l place r s → (s.run r).cell = c → (s.run r).state = .assigned → x.state = .waiting → inPlace l s →
    x.holdsKind .site (some place) = false → x.holdsKind .consec (some place) = false →
    exec (.goldenDone e mask) s = .next
      { sendBoth c (.start x.tag place (enabled &&& BitVec.ofNat 16 (2 ^ st.siteCount - 1)) st.map)
          (postNotice (.goldenDone c mask enabled .pass) u) with
        lots := vset s.lots l { x with state := .running, stepStarted := true }
        runs := vset s.runs r { s.run r with state := .testing, startTime := some s.floorClock, sinceGolden := 0 }
        cells := vset u.cells c { k with
          golden := ⟨mask, .pass, s.floorClock⟩, enabled := enabled, goldenValid := true, downCount := 0
          deadline := none, prep := none, state := .running, cause := none, since := s.timer
          acc := k.accNow s.timer } } := by
  intro u k x st enabled hstate hprep hsites hleast hpass htarget hcur hset hdeadline hsetup honly hrcell hrun hlot hplace
    hsite hconsec
  have htimer : u.timer = s.timer := metBy_timer (.goldenDone e mask) e c .tester s
  have hclock : u.floorClock = s.floorClock := metBy_floorClock (.goldenDone e mask) e c .tester s
  have hlots : u.lots = s.lots := metBy_lots (.goldenDone e mask) e c .tester s
  have hruns : u.runs = s.runs := metBy_runs (.goldenDone e mask) e c .tester s
  have hroutes : u.routes = s.routes := metBy_routes (.goldenDone e mask) e c .tester s
  set n := postNotice (.goldenDone c mask enabled .pass) u with hn
  have hstep : stepOf n x = st := stepOf_congr (by rw [hn, postNotice_routes, hroutes]) rfl rfl
  rw [exec_goldenPass (u := u) (enabled := enabled) rfl rfl h hstate hprep hsites hleast hpass htarget hcur hdeadline honly
    hrcell (by rw [hlot]; simp) hplace (.inr hsetup), sitesReleased_of_none hsite hconsec, sitesNoticed_of_none hsite hconsec,
    endForTarget_starts_written (p := { p with goldenTaken := true }) (by exact honly.2.1) (by exact hrun) rfl
      (by show k.state ≠ _; simp [hstate]) (fun role => by rw [postNotice_cell]; cases role <;> rfl), ← hn, hstep]
  set t := sendBoth c (.start x.tag place (enabled &&& BitVec.ofNat 16 (2 ^ st.siteCount - 1)) st.map) n with ht
  have hseq : n.seqCounter = t.seqCounter := by rw [ht, sendBoth_seqCounter]
  have hqueue : n.queue = t.queue := by rw [ht, sendBoth_queue]
  have hordered : sendBoth c (.start x.tag ((s.run r).rechecked (x.holdsKind .site (some place) || x.holdsKind .consec
      (some place))).pos (usableSites (((u.cell c).checked mask enabled .pass s.floorClock).passed p) st) st.map) n = t := by
    rw [rechecked_pos, usableSites_passed, honly.2.2, ht]
  have hxrun : (if x.state = .waiting then LotState.running else x.state) = .running := if_pos hlot
  have hyrun : ((s.run r).rechecked (x.holdsKind .site (some place) || x.holdsKind .consec (some place))) =
      { s.run r with sinceGolden := 0 } := by
    rw [hsite, hconsec]
    rfl
  have hfinished : ((k.checked mask enabled .pass s.floorClock).passed p).finished { p with goldenTaken := true } s.timer =
      { k with
          golden := ⟨mask, .pass, s.floorClock⟩, enabled := enabled, goldenValid := true, downCount := 0
          deadline := none, prep := none, state := .running, cause := none, since := s.timer
          acc := k.accNow s.timer } := by
    rw [passed_finished, hset]
    rfl
  rw [hordered, hyrun, hqueue, hseq, hxrun, show n.timer = s.timer by rw [hn, postNotice_timer, htimer],
    show n.floorClock = s.floorClock by rw [hn, postNotice_floorClock, hclock], hfinished,
    show n.lots = s.lots by rw [hn, postNotice_lots, hlots], show n.runs = s.runs by rw [hn, postNotice_runs, hruns],
    show n.cells = u.cells by rw [hn, postNotice_cells]]
  rfl

/-- Settles the PASS of a periodic check of O44 (R16, R70, R107, R109, R113). -/
theorem goldenCheckResumes (e : Envelope) (mask : SiteMask) (c : CellIx) (p : Prep) (sites least : Nat) (l : LotSlot)
    (place : RunPlace) (r : RunIx) (s : State) (h : fromStation (.goldenDone e mask) e c .tester s) :
    let u := metBy (.goldenDone e mask) e c .tester s
    let k := u.cell c
    let x := s.lot l
    let run := s.run r
    let enabled := mask &&& BitVec.ofNat 16 (2 ^ sites - 1)
    let freed : HoldKind → State → State := fun kind v =>
      if x.holdsKind kind (some place) then postNotice (.holdReleased x.tag kind (some place)) v else v
    k.state = .golden → k.prep = some p → p.goldenSites = some sites → p.goldenMin = some least →
    least ≤ siteNumber enabled → p.purpose = .periodic → p.target = some r → k.current = some r →
    (∀ d ∈ k.deadline, d.kind = .golden) → onlyRun l place r s → run.cell = c → x.state = .running → inPlace l s →
    (run.state = .testing ∧ p.setAside = none
      ∨ run.state = .closing ∧ run.targetReached = false ∧ p.setAside.map (·.kind) = some .closing) →
    exec (.goldenDone e mask) s = .next
      { sendBoth c
          (.resume x.tag place run.pass (enabled &&& BitVec.ofNat 16 (2 ^ (stepOf s x).siteCount - 1)))
          (freed .consec (freed .site (postNotice (.goldenDone c mask enabled .pass) u))) with
        lots := vset s.lots l { x with
          holds := x.holds.filter fun g => !(g.is .site (some place)) && !(g.is .consec (some place)) }
        runs := vset s.runs r { run with
          stoppedFrom := none, suspendedFrom := none, sinceGolden := 0
          sites := if x.holdsKind .site (some place) || x.holdsKind .consec (some place) then
            Vector.replicate 16 ⟨0, 0, 0⟩ else run.sites }
        cells := vset u.cells c { k with
          golden := ⟨mask, .pass, s.floorClock⟩, enabled := enabled, goldenValid := true, downCount := 0
          deadline := p.setAside.map fun a => ⟨a.kind, s.timer + a.remaining⟩
          prep := none, state := .running, cause := none, since := s.timer, acc := k.accNow s.timer } } := by
  intro u k x run enabled freed hstate hprep hsites hleast hpass hpurpose htarget hcur hdeadline honly hrcell hlot hplace hgoes
  have htimer : u.timer = s.timer := metBy_timer (.goldenDone e mask) e c .tester s
  have hlots : u.lots = s.lots := metBy_lots (.goldenDone e mask) e c .tester s
  have hruns : u.runs = s.runs := metBy_runs (.goldenDone e mask) e c .tester s
  have hroutes : u.routes = s.routes := metBy_routes (.goldenDone e mask) e c .tester s
  have hfreed : freed .consec (freed .site (postNotice (.goldenDone c mask enabled .pass) u)) =
      sitesNoticed x place (postNotice (.goldenDone c mask enabled .pass) u) := rfl
  set n := sitesNoticed x place (postNotice (.goldenDone c mask enabled .pass) u) with hn
  have hncells : n.cells = u.cells := by simp [hn, sitesNoticed]
  have hncell : n.cell c = u.cell c := by
    rw [State.cell, hncells]
    rfl
  have hstep : stepOf n (sitesReleased x place) = stepOf s x :=
    stepOf_congr (by simp [hn, sitesNoticed, hroutes]) rfl rfl
  rw [hfreed, exec_goldenPass (u := u) (enabled := enabled) rfl rfl h hstate hprep hsites hleast hpass htarget hcur hdeadline
    honly hrcell (by rw [hlot]; simp) hplace (.inl hpurpose),
    endForTarget_resumes_written (p := { p with goldenTaken := true }) (by exact honly.2.1) rfl
      (by show k.state ≠ _; simp [hstate]) (by exact hgoes.imp And.left fun hc => ⟨hc.1, hrcell, hc.2⟩)
      (fun role => by rw [← hn, hncell]; cases role <;> rfl), ← hn, hstep]
  set t := sendBoth c (.resume x.tag place run.pass (enabled &&& BitVec.ofNat 16 (2 ^ (stepOf s x).siteCount - 1))) n with ht
  have hseq : n.seqCounter = t.seqCounter := by rw [ht, sendBoth_seqCounter]
  have hqueue : n.queue = t.queue := by rw [ht, sendBoth_queue]
  have hordered : sendBoth c (.resume (sitesReleased x place).tag ((s.run r).rechecked (x.holdsKind .site (some place)
      || x.holdsKind .consec (some place))).pos ((s.run r).rechecked (x.holdsKind .site (some place)
      || x.holdsKind .consec (some place))).pass
      (usableSites (((u.cell c).checked mask enabled .pass s.floorClock).passed p) (stepOf s x))) n = t := by
    rw [rechecked_pos, rechecked_pass, usableSites_passed, honly.2.2, ht]
    rfl
  have hfinished : ((k.checked mask enabled .pass s.floorClock).passed p).finished { p with goldenTaken := true } s.timer =
      { k with
          golden := ⟨mask, .pass, s.floorClock⟩, enabled := enabled, goldenValid := true, downCount := 0
          deadline := p.setAside.map fun a => ⟨a.kind, s.timer + a.remaining⟩
          prep := none, state := .running, cause := none, since := s.timer, acc := k.accNow s.timer } := by
    rw [passed_finished]
  rw [hordered, hqueue, hseq, show n.timer = s.timer by simp [hn, sitesNoticed, htimer], hfinished,
    show n.lots = s.lots by simp [hn, sitesNoticed, hlots], show n.runs = s.runs by simp [hn, sitesNoticed, hruns], hncells]
  rfl

/-- Settles O44. -/
theorem goldenChecksPassAndFail : Obligations.GoldenChecksPassAndFail := by
  refine ⟨fun e mask c s => ⟨fun h => exec_fromStation rfl h, fun h hstate => ?_,
    fun p sites least l place r h => goldenCheckStarts e mask c s p sites least l place r h⟩,
    fun e mask c p sites least l place r s h => goldenCheckFails e mask c p sites least l place r s h,
    fun e mask c p sites least l place r s h => goldenCheckResumes e mask c p sites least l place r s h⟩
  have hexec : exec (.goldenDone e mask) s = .next (onGoldenDone mask c .tester (metBy (.goldenDone e mask) e c .tester s)) :=
    exec_fromStation rfl h
  have hcell : ((metBy (.goldenDone e mask) e c .tester s).cell c).state = (s.cell c).state := by
    rw [metBy_cell]
    rfl
  rw [hexec, onGoldenDone_of_ne (by rw [hcell]; exact hstate)]

end Sys2Proof.Machine
end

section
/-! PROOF. O41: preemptions (R127, R128) and the next run of a stack (R132, R133). -/

set_option Elab.async false

namespace Sys2Proof.Machine

/-! ## PAUSED (R127, R128) -/

/-- A run suspended from TESTING (R127). -/
def Run.suspendedAt (x : Run) : Run := { x with state := .suspended, suspendedFrom := some .testing }

/-- A cell whose current run is pushed, the reserved one made current (R127). -/
def Cell.pushed (k : Cell) (r h : RunIx) : Cell := { k with stack := r :: k.stack, current := some h, reserved := none }

theorem suspendRun_of_testing {c : CellIx} {r h : RunIx} {s : State} (hrun : (s.run r).state = .testing) :
    suspendRun c r h s = (s.setRun r (s.run r).suspendedAt).setCell c ((s.cell c).pushed r h) := by
  simp only [suspendRun, hrun]
  rfl

section
variable {c : CellIx} {r h : RunIx} {s : State}

/-- A PAUSED with a run reserved: the TESTING run goes onto the stack, and a changeover for the reserved run begins
(R97, R99, R127). -/
theorem pausedReport_preempts (hcur : (s.cell c).current = some r) (hreserved : (s.cell c).reserved = some h) (hne : h ≠ r)
    (hrun : (s.run r).state = .testing) (hfree : (lotOfRun s r).lotBlocked = false) (hdeadline : (s.cell c).deadline = none)
    (hkit : kitDiffers (s.cell c) (stepOfRun s h) = true) (hstate : (s.cell c).state ≠ .changeover) :
    pausedReport c s =
      ((sendOrder c .handler (.setup (stepOfRun s h).kit (stepOfRun s h).setpoint) s).setRun r (s.run r).suspendedAt).setCell c
        { (s.cell c).pushed r h with
          prep := some (firstContext h .new .assignment .changeover
            (!(s.cell c).goldenValid || tooFewSites (s.cell c) (stepOfRun s h)) (stepOfRun s h) (s.cell c) s)
          deadline := some ⟨.changeover, s.timer + 1000 * (stepOfRun s h).changeoverLimit⟩
          state := .changeover, cause := none, since := s.timer, acc := (s.cell c).accNow s.timer } := by
  set v := (s.setRun r (s.run r).suspendedAt).setCell c ((s.cell c).pushed r h) with hv
  have hvcell : v.cell c = (s.cell c).pushed r h := setCell_cell ..
  have hvrun : v.run h = s.run h := by rw [hv, setCell_run, setRun_run_ne _ _ hne.symm]
  have hstep : stepOfRun v h = stepOfRun s h := by
    rw [stepOfRun, lotOfRun, hvrun]
    rfl
  have hheld : heldTest (s.run r).lot v = v := heldTest_keeps (.inr (.inl (by exact hfree)))
  have hpaused : pausedReport c s = prepBegin c h .assignment v := by
    simp only [pausedReport, hcur, hreserved, hrun]
    rw [suspendRun_of_testing hrun, hheld]
  rw [hpaused, prepBegin_changeover (by simp [Origin.purpose])
    (.inl (by rw [hvcell, hstep]; simpa [kitDiffers, Cell.pushed] using hkit)) (by rw [hvcell]; simp [runDeadline, Cell.pushed, hdeadline])
    (by rw [hvcell]; exact hstate), hstep, hvcell, hv, sendOrder_setCell _ _ _ _ _ (by rfl), sendOrder_setRun, setCell_setCell]
  rfl

/-- A PAUSED with no run reserved: the TESTING run goes on (R128). -/
theorem pausedReport_resumes (hcur : (s.cell c).current = some r) (hreserved : (s.cell c).reserved = none)
    (hrun : (s.run r).state = .testing) (hstate : (s.cell c).state ≠ .running) :
    pausedReport c s =
      ((sendBoth c (.resume (lotOfRun s r).tag (s.run r).pos (s.run r).pass
        (usableSites (s.cell c) (stepOfRun s r))) s).setCell c { s.cell c with
          state := .running, cause := none, since := s.timer, acc := (s.cell c).accNow s.timer }).setRun r
        ((s.run r).goingOn .testing) := by
  have hinto : (s.run r).resumesInto = .testing := by rw [Run.resumesInto, hrun]
  have hpaused : pausedReport c s = resumeRun c r s := by
    simp only [pausedReport, hcur, hreserved, hrun]
  rw [hpaused, resumeRun_eq (.inl (by rw [hinto]; simp)), hinto, Cell.entered_of_ne hstate]

/-- A PAUSED with no run reserved leaves an ENDING run waiting (R128). -/
theorem pausedReport_waits (hcur : (s.cell c).current = some r) (hreserved : (s.cell c).reserved = none)
    (hrun : (s.run r).state = .ending) : pausedReport c s = enterCell c .running none s := by
  simp only [pausedReport, hcur, hreserved, hrun]

end

/-! ## The next run of a stack (R132, R133) -/

section
variable {c : CellIx} {r : RunIx} {rest : List RunIx} {s : State}

theorem popOrIdle_of_blocked (hstack : (s.cell c).stack = r :: rest) (hblocked : runBlocked s r = true) :
    popOrIdle c s = enterCell c .stopped none s := by
  rw [popOrIdle, hstack]
  exact if_pos hblocked

/-- The top of a stack that no hold holds back is resumed at once where the equipment matches (R97, R109, R132). -/
theorem popOrIdle_resumes (hstack : (s.cell c).stack = r :: rest) (hfree : runBlocked s r = false)
    (hrun : (s.run r).state = .suspended) (hfrom : (s.run r).suspendedFrom = some .testing)
    (hsetup : setupCost (s.cell c) (stepOfRun s r) = 0) (hvalid : (s.cell c).goldenValid = true)
    (hsites : (stepOfRun s r).minSites ≤ siteNumber (usableSites (s.cell c) (stepOfRun s r))) :
    popOrIdle c s =
      ((sendBoth c (.resume (lotOfRun s r).tag (s.run r).pos (s.run r).pass
          (usableSites (s.cell c) (stepOfRun s r))) s).setCell c
        ({ s.cell c with stack := rest, current := some r, prep := none }.entered s.timer .running none)).setRun r
        ((s.run r).goingOn .testing) := by
  set k : Cell := { s.cell c with stack := rest, current := some r } with hk
  set v := s.setCell c k with hv
  have hvcell : v.cell c = k := setCell_cell ..
  have hstep : stepOfRun v r = stepOfRun s r := rfl
  have hinto : (v.run r).resumesInto = .testing := by
    rw [Run.resumesInto, show (v.run r).state = .suspended from hrun, show (v.run r).suspendedFrom = some .testing from hfrom]
  have hfew : tooFewSites (s.cell c) (stepOfRun s r) = false := by
    rw [tooFewSites]
    exact decide_eq_false (by omega)
  have hplanned : goldenPlanned v.profile (v.cell c) (stepOfRun v r) .pop = false := by
    rw [hvcell, hstep]
    show (!(s.cell c).goldenValid || tooFewSites (s.cell c) (stepOfRun s r)) = false
    rw [hvalid, hfew]
    rfl
  have hpop : popOrIdle c s = prepBegin c r .pop v := by
    rw [popOrIdle, hstack]
    exact if_neg (by rw [hfree]; simp)
  rw [hpop, prepBegin_resumes (by rw [hvcell, hstep]; exact hsetup) hplanned (.inr (.inr (.inr ⟨hrun, by exact hfree⟩)))
    (.inl (by rw [hinto]; simp)), hinto, hstep, hvcell, hv, sendBoth_setCell _ _ _ _ fun role => by cases role <;> rfl,
    setCell_setCell]
  rfl

end

/-- What the rules of a parked run read of the floor (R97, R132, R133). -/
theorem parked_congr {r : RunIx} {s t : State} (hroutes : t.routes = s.routes) (hrun : t.run r = s.run r)
    (hlot : t.lot (s.run r).lot = s.lot (s.run r).lot) :
    lotOfRun t r = lotOfRun s r ∧ stepOfRun t r = stepOfRun s r ∧ runBlocked t r = runBlocked s r := by
  have hlotOf : lotOfRun t r = lotOfRun s r := by rw [lotOfRun, lotOfRun, hrun, hlot]
  refine ⟨hlotOf, ?_, ?_⟩
  · rw [stepOfRun, stepOfRun, hlotOf]
    exact stepOf_congr hroutes rfl rfl
  · rw [runBlocked, runBlocked, hlotOf, hrun]

/-! ## RUN_COUNTS on a cell with runs on its stack (R84, R149) -/

/-- The counts of the one open run of a lot with further positions: it leaves its cell, which goes to the stack. -/
theorem exec_runCounts_vacates {e : Envelope} {fed : BitVec 24} {trays : Vector (BitVec 24) 8} {c : CellIx} {l : LotSlot}
    {p : RunPlace} {r : RunIx} {s : State} (h : fromStation (.runCounts e fed trays) e c .handler s) :
    let u := metBy (.runCounts e fed trays) e c .handler s
    let k := u.cell c
    let x := s.lot l
    let run := { s.run r with handlerFed := some fed.toNat }
    countsAgree (limitsOf s x) (s.run r) fed.toNat trays → onlyRun l p r s → (s.run r).state = .ending →
    (s.run r).cell = c → x.state = .running → x.lotBlocked = false → x.closedRuns + 1 < x.runsPerStep →
    k.state = .running → k.current = some r → r ∉ k.stack → k.prep = none → (∀ d ∈ k.deadline, d.kind = .counts) →
    exec (.runCounts e fed trays) s = .next (popOrIdle c (u.work (vset s.lots l (x.withClosed (stepOf s x) run))
      (vset s.runs r .free) (vset u.cells c { k.without r with deadline := none }) u.queue u.seqCounter)) := by
  intro u k x run hagree honly hending hcell hstate hfree hmore hrunning hcur hstack hprep hdeadline
  set v := countsHeard e fed trays c r s with hv
  have hvrun : v.run r = run := countsHeard_run ..
  have hvlot : v.lot l = x := countsHeard_lot ..
  have hvcell : v.cell c = { k with deadline := none } := countsHeard_cell ..
  have hvonly : onlyRun l p r v := countsHeard_onlyRun _ _ _ _ _ _ honly
  have hrcell : run.cell = c := hcell
  have hlots : u.lots = s.lots := metBy_lots (.runCounts e fed trays) e c .handler s
  have hruns : u.runs = s.runs := metBy_runs (.runCounts e fed trays) e c .handler s
  have hvform : v = u.work u.lots (vset u.runs r run) (vset u.cells c { k with deadline := none }) u.queue u.seqCounter := by
    rw [hv, countsHeard, countsTaken, setRun_work, setCell_work, work_work,
      show (metBy (.runCounts e fed trays) e c .handler s).run r = s.run r from
        metBy_run (.runCounts e fed trays) e c .handler s r]
    rfl
  have hclosed : x.closedHeld (stepOf v x) run = x.withClosed (stepOf s x) run := by
    rw [countsHeard_stepOf, Lot.closedHeld, hfree, if_neg (by simp)]
    rfl
  set w := (v.setCell c { k with deadline := none }).setLot l (x.withClosed (stepOf s x) run) with hw
  have hwrun : w.run r = run := by rw [hw, setLot_run, setCell_run, hvrun]
  have hwcell : w.cell c = { k with deadline := none } := by rw [hw, setLot_cell, setCell_cell]
  have hclose : closeRun r v = vacate r w := by
    rw [closeRun_vacates hvonly (by rw [hvlot]; exact .inr hstate) (by rw [hvlot]; exact hmore)
      (by rw [hvrun, hrcell, hvcell]; exact hcur) (by rw [hvrun, hrcell, hvcell]; simp [runDeadline])
      (by rw [hvrun, hrcell, hvcell]; exact hprep), hvrun, hrcell, hvcell, hvlot, hclosed]
  rw [(exec_runCounts_judged h hcur hending honly.2.1 hprep hdeadline).1 hagree, ← hv, hclose,
    vacate_of_current (by rw [hwrun, hrcell, hwcell]; exact hcur) (by rw [hwrun, hrcell, hwcell]; exact .inl hrunning),
    freeRun_eq, hwrun, hrcell, hwcell, forget_of_bare (by exact hcur) (by exact hstack) (by exact hprep), hw, hvform]
  simp only [setRun_work, setCell_work, setLot_work, work_work, work_lots, work_runs, work_cells, work_queue,
    work_seqCounter, vset_vset, hlots, hruns]
  rfl

/-- Settles the clause of O41 on PAUSED. -/
theorem pausedSuspends (e : Envelope) (c : CellIx) (r : RunIx) (s : State) (hfrom : fromStation (.state e 4) e c .handler s) :
    let u := metBy (.state e 4) e c .handler s
    let k : Cell := { u.cell c with repHandler := some .paused }
    k.state = .pausing → k.current = some r →
    (∀ h : RunIx, k.reserved = some h → h ≠ r → (s.run r).state = .testing → (lotOfRun s r).lotBlocked = false →
      k.deadline = none → kitDiffers k (stepOfRun s h) = true →
      let st := stepOfRun s h
      exec (.state e 4) s = .next
        { sendOrder c .handler (.setup st.kit st.setpoint) u with
          runs := vset s.runs r { s.run r with state := .suspended, suspendedFrom := some .testing }
          cells := vset u.cells c { k with
            stack := r :: k.stack, current := some h, reserved := none
            prep := some
              { purpose := .new, origin := .assignment, target := some h, stage := .changeover
                goldenPlanned := !k.goldenValid || tooFewSites k st, goldenTaken := false
                orderedKit := some st.kit, orderedTemp := some st.setpoint, goldenSites := none, goldenMin := none
                setAside := none }
            deadline := some ⟨.changeover, s.timer + 1000 * st.changeoverLimit⟩
            state := .changeover, cause := none, since := s.timer, acc := k.accNow s.timer } })
    ∧ (k.reserved = none → (s.run r).state = .testing →
      exec (.state e 4) s = .next
        { sendBoth c (.resume (lotOfRun s r).tag (s.run r).pos (s.run r).pass (usableSites k (stepOfRun s r))) u with
          runs := vset s.runs r { s.run r with stoppedFrom := none, suspendedFrom := none }
          cells := vset u.cells c { k with
            state := .running, cause := none, since := s.timer, acc := k.accNow s.timer } })
    ∧ (k.reserved = none → (s.run r).state = .ending →
      exec (.state e 4) s = .next (u.setCell c { k with
        state := .running, cause := none, since := s.timer, acc := k.accNow s.timer })) := by
  intro u k hstate hcur
  set w := u.setCell c k with hw
  have hwcell : w.cell c = k := setCell_cell ..
  have hexec : exec (.state e 4) s = .next (pausedReport c w) := by
    rw [exec_state hfrom (rep := .paused) rfl]
    show Host.Outcome.next (actOnReport c .paused w) = _
    exact congrArg Host.Outcome.next (if_pos (by rw [hwcell]; exact hstate))
  have htimer : w.timer = s.timer := metBy_timer (.state e 4) e c .handler s
  have hruns : u.runs = s.runs := metBy_runs (.state e 4) e c .handler s
  have hwrun (q : RunIx) : w.run q = s.run q := metBy_run (.state e 4) e c .handler s q
  have hwlot (q : RunIx) : lotOfRun w q = lotOfRun s q := metBy_lotOfRun (.state e 4) e c .handler s q
  have hwstep (q : RunIx) : stepOfRun w q = stepOfRun s q := metBy_stepOfRun (.state e 4) e c .handler s q
  have hpausing : k.state ≠ .running ∧ k.state ≠ .changeover := by rw [hstate]; simp
  rw [hexec]
  refine ⟨fun h hreserved hne hrun hfree hdeadline hkit => ?_, fun hreserved hrun => ?_, fun hreserved hrun => ?_⟩
  · intro st
    rw [pausedReport_preempts (by rw [hwcell]; exact hcur) (by rw [hwcell]; exact hreserved) hne (by rw [hwrun]; exact hrun)
      (by rw [hwlot]; exact hfree) (by rw [hwcell]; exact hdeadline) (by rw [hwcell, hwstep]; exact hkit)
      (by rw [hwcell]; exact hpausing.2), hwrun, hwstep, hwcell, htimer, hw, sendOrder_setCell _ _ _ _ _ (by rfl)]
    have hset : setAsideOf k (u.setCell c k) = none := by rw [setAsideOf, hdeadline]; rfl
    rw [firstContext, hset, setRun_work, setCell_work, setCell_work]
    simp only [work_work, work_lots, work_runs, work_cells, work_queue, work_seqCounter, vset_vset, sendOrder_runs,
      sendOrder_cells, hruns]
    rfl
  · rw [pausedReport_resumes (by rw [hwcell]; exact hcur) (by rw [hwcell]; exact hreserved) (by rw [hwrun]; exact hrun)
      (by rw [hwcell]; exact hpausing.1), hwrun, hwstep, hwlot, hwcell, htimer, hw,
      sendBoth_setCell _ _ _ _ fun role => by cases role <;> rfl]
    have hgoing : (s.run r).goingOn .testing = { s.run r with stoppedFrom := none, suspendedFrom := none } := by
      rw [Run.goingOn, ← hrun]
    rw [hgoing, setRun_work, setCell_work, setCell_work]
    simp only [work_work, work_lots, work_runs, work_cells, work_queue, work_seqCounter, vset_vset, sendBoth_runs,
      sendBoth_cells, hruns]
    rfl
  · rw [pausedReport_waits (by rw [hwcell]; exact hcur) (by rw [hwcell]; exact hreserved) (by rw [hwrun]; exact hrun),
      enterCell_of_ne (by rw [hwcell]; exact hpausing.1), hwcell, htimer, hw, setCell_setCell]

/-- Settles the clause of O41 on RUN_COUNTS. -/
theorem countsPopTheStack (e : Envelope) (fed : BitVec 24) (trays : Vector (BitVec 24) 8) (c : CellIx) (l : LotSlot)
    (p : RunPlace) (r next : RunIx) (rest : List RunIx) (s : State) :
    let i : Instr := .runCounts e fed trays
    fromStation i e c .handler s →
    let u := metBy i e c .handler s
    let k := u.cell c
    let x := s.lot l
    let run := { s.run r with handlerFed := some fed.toNat }
    let lim := limitsOf s x
    let st := stepOfRun s next
    let near : Nat → Nat → Nat → Prop := fun tol a b => a ≤ b + tol ∧ b ≤ a + tol
    let closed : Lot := { x with
      figures := x.figures.withRun (stepOf s x) run, runs := vset x.runs p .closed, closedRuns := x.closedRuns + 1 }
    let freed : Cell := { k with
      cause := none, current := none, deadline := none, reserved := if k.reserved = some r then none else k.reserved }
    near lim.inputTol fed.toNat run.tested → (∀ t : Fin 8, near lim.trayTol trays[t].toNat run.ledger[t]) →
    run.shortfall ≤ lim.trayTol → run.surplus ≤ lim.trayTol → onlyRun l p r s → (s.run r).state = .ending →
    (s.run r).cell = c → x.state = .running → x.lotBlocked = false → x.closedRuns + 1 < x.runsPerStep →
    k.state = .running → k.current = some r → k.stack = next :: rest → r ∉ k.stack → (s.run next).lot ≠ l →
    k.prep = none → (∀ d ∈ k.deadline, d.kind = .counts) →
    (runBlocked s next = true → exec i s = .next { u with
      lots := vset s.lots l closed, runs := vset s.runs r .free
      cells := vset u.cells c { freed with state := .stopped, since := s.timer, acc := k.accNow s.timer } })
    ∧ (runBlocked s next = false → (s.run next).state = .suspended → (s.run next).suspendedFrom = some .testing →
      setUpFor k st → k.goldenValid = true → exec i s = .next
        { sendBoth c (.resume (lotOfRun s next).tag (s.run next).pos (s.run next).pass (usableSites k st)) u with
          lots := vset s.lots l closed
          runs := vset (vset s.runs r .free) next
            { s.run next with state := .testing, stoppedFrom := none, suspendedFrom := none }
          cells := vset u.cells c { freed with stack := rest, current := some next } }) := by
  intro i h u k x run lim st near closed freed hfed htrays hshort hsurplus honly hending hcell hstate hfree hmore hrunning
    hcur hstack hnot hother hprep hdeadline
  have hne : r ≠ next := fun hrn => hnot (by rw [hstack, hrn]; exact List.mem_cons_self)
  have hclosed : x.withClosed (stepOf s x) run = closed := by rw [Lot.withClosed, show run.pos = p from honly.2.2]
  have hexec := exec_runCounts_vacates h ⟨hfed, htrays, hshort, hsurplus⟩ honly hending hcell hstate hfree hmore hrunning
    hcur hnot hprep hdeadline
  rw [hclosed] at hexec
  have htimer : u.timer = s.timer := metBy_timer i e c .handler s
  set y : Cell := { k.without r with deadline := none } with hy
  set w := u.work (vset s.lots l closed) (vset s.runs r .free) (vset u.cells c y) u.queue u.seqCounter with hw
  have hwcell : w.cell c = y := by rw [hw, work_cell, vset_get_same]
  have hwrun : w.run next = s.run next := by rw [hw, work_run, vset_get, if_neg hne]; rfl
  have hwlot : w.lot (s.run next).lot = s.lot (s.run next).lot := by
    rw [hw, work_lot, vset_get, if_neg fun h => hother h.symm]
    rfl
  have hwtimer : w.timer = s.timer := htimer
  obtain ⟨hlotOf, hstep, hblockedw⟩ := parked_congr (r := next) (s := s) (t := w)
    (metBy_routes i e c .handler s) hwrun hwlot
  have hystack : (w.cell c).stack = next :: rest := by rw [hwcell]; exact hstack
  rw [hexec]
  refine ⟨fun hblocked => ?_, fun hfreed hrun hfrom hsetup hvalid => ?_⟩
  · rw [popOrIdle_of_blocked hystack (by rw [hblockedw]; exact hblocked),
      enterCell_of_ne (by rw [hwcell]; show k.state ≠ _; rw [hrunning]; simp), hwcell, hwtimer, hw, setCell_work]
    simp only [work_work, work_lots, work_runs, work_cells, work_queue, work_seqCounter, vset_vset]
    rfl
  · obtain ⟨hcost, hsites⟩ := hsetup
    rw [popOrIdle_resumes hystack (by rw [hblockedw]; exact hfreed) (by rw [hwrun]; exact hrun) (by rw [hwrun]; exact hfrom)
      (by rw [hwcell, hstep]; exact hcost) (by rw [hwcell]; exact hvalid) (by rw [hwcell, hstep]; exact hsites), hwcell,
      hstep, hlotOf, hwrun]
    set o : Order := .resume (lotOfRun s next).tag (s.run next).pos (s.run next).pass (usableSites y st) with ho
    have hports : sendBoth c o w = (sendBoth c o u).work (vset s.lots l closed) (vset s.runs r .free) (vset u.cells c y)
        u.queue u.seqCounter :=
      sendBoth_work _ _ _ _ _ _ _ _ fun role => by rw [vset_get_same]; cases role <;> rfl
    have hentered : ({ y with stack := rest, current := some next, prep := none }.entered w.timer .running none) =
        { freed with stack := rest, current := some next } := by
      rw [Cell.entered, if_pos (by exact hrunning), ← hprep]
      rfl
    have hseq : (sendBoth c o u).seqCounter = u.seqCounter := sendBoth_seqCounter ..
    have hqueue : (sendBoth c o u).queue = u.queue := sendBoth_queue ..
    rw [hports, hentered, setRun_work, setCell_work]
    simp only [work_work, work_lots, work_runs, work_cells, work_queue, work_seqCounter, vset_vset]
    rw [← hseq, ← hqueue]
    rfl

/-- Settles O41. -/
theorem preemptionsSuspendAndPop : Obligations.PreemptionsSuspendAndPop := by
  refine ⟨fun e c r s h => pausedSuspends e c r s h, fun c r rest s => ?_,
    fun e fed trays c l p r next rest s => countsPopTheStack e fed trays c l p r next rest s⟩
  intro k st hstack
  refine ⟨fun hblocked hstate => ?_, fun hfree hrun hfrom hsetup hvalid hsites hstate => ?_⟩
  · rw [popOrIdle_of_blocked hstack hblocked, enterCell_of_ne hstate]
  · rw [popOrIdle_resumes hstack hfree hrun hfrom hsetup hvalid hsites, Cell.entered_of_ne (by exact hstate), setRun_work,
      setCell_work]
    simp only [work_work, work_lots, work_runs, work_cells, work_queue, work_seqCounter, sendBoth_runs, sendBoth_cells]
    rfl

end Sys2Proof.Machine
end

section
/-! SUPPORT. How a lot advances (R19 to R21), and what the close checks of a step leave (R152). -/

set_option Elab.async false

namespace Sys2Proof.Machine

/-! ## The advance of a lot (R20, R21) -/

/-- A lot at the start of its next step, with its new queue sequence (R20). -/
def Lot.advanced (x : Lot) (st : Step) (seq : Nat) : Lot := { x.nextStep st.maxRuns with queueSeq := seq }

theorem hasNextStep_of_step {s : State} {x : Lot} {st : Step} (hgood : 0 < x.figures.goodFinal)
    (hst : (s.route x.route).steps[x.step + 1]? = some st) : hasNextStep s x = true := by
  obtain ⟨hlt, -⟩ := List.getElem?_eq_some_iff.1 hst
  rw [hasNextStep, Bool.and_eq_true]
  exact ⟨decide_eq_true hgood, decide_eq_true hlt⟩

theorem hasNextStep_of_none {s : State} {x : Lot}
    (h : x.figures.goodFinal = 0 ∨ (s.route x.route).steps.length ≤ x.step + 1) : hasNextStep s x = false := by
  rw [hasNextStep, Bool.and_eq_false_iff]
  rcases h with h | h
  · exact .inl (decide_eq_false (by omega))
  · exact .inr (decide_eq_false (by omega))

/-- The advance to the next step of a lot that no cell can take (R20). -/
theorem advance_next {l : LotSlot} {s : State} {st : Step} (hgood : 0 < (s.lot l).figures.goodFinal)
    (hst : (s.route (s.lot l).route).steps[(s.lot l).step + 1]? = some st) (hout : l ∉ s.queue)
    (hseq : s.seqCounter < 4294967295) (hruns : 1 ≤ st.maxRuns) (hsplit : 1 ≤ (s.lot l).split)
    (hfree : (s.lot l).lotBlocked = false) (hage : notAging (s.lot l) s) (hcell : noCellFor st s)
    (hhot : noCandidateFor (s.lot l).cls (s.lot l).preempt st s) :
    advance l s =
      (postNotice (.stepDone (s.lot l).tag (s.lot l).step (s.lot l).figures.tested (s.lot l).figures.goodFinal) s).work
        (vset s.lots l ((s.lot l).advanced st s.seqCounter)) s.runs s.cells
        (placeIn (s.setLot l ((s.lot l).advanced st s.seqCounter)) l s.queue) (s.seqCounter + 1) := by
  set x := s.lot l with hx
  set v := postNotice (.stepDone x.tag x.step x.figures.tested x.figures.goodFinal) s with hv
  set y := x.advanced st s.seqCounter with hy
  have hvlot (m : LotSlot) : v.lot m = s.lot m := by rw [hv, postNotice_lot]
  have hnext : hasNextStep v x = true :=
    hasNextStep_of_step hgood (by rw [State.route, hv, postNotice_routes]; exact hst)
  have hsteps : (v.route x.route).steps.getD (x.step + 1) Step.none = st := by
    rw [State.route, hv, postNotice_routes, List.getD_eq_getElem?_getD]
    exact congrArg (fun o => Option.getD o Step.none) hst
  set w : State := { v.setLot l y with seqCounter := s.seqCounter + 1 } with hw
  have htake : takeSequence l (v.setLot l (x.nextStep st.maxRuns)) = w := by
    have hlt : (v.setLot l (x.nextStep st.maxRuns)).seqCounter < 4294967295 := by
      rw [setLot_seqCounter, hv, postNotice_seqCounter]
      exact hseq
    rw [takeSequence_of_lt hlt, setLot_lot, setLot_setLot, setLot_seqCounter,
      show v.seqCounter = s.seqCounter by rw [hv, postNotice_seqCounter]]
    rfl
  have hwlot : w.lot l = y := setLot_lot ..
  have hwcls (m : LotSlot) : (w.lot m).cls = (s.lot m).cls := by
    by_cases hm : l = m
    · subst hm
      rw [hwlot]
      rfl
    · show ((v.setLot l y).lot m).cls = _
      rw [setLot_lot_ne _ _ hm, hvlot]
  have hwcells : w.cells = s.cells := postNotice_cells ..
  have hstep : stepOf w y = st := hsteps
  have henter : queueTest l w = queueInsert l w := by
    refine queueTest_enters (by rw [show w.queue = s.queue from postNotice_queue ..]; exact hout) ?_ ?_ ?_ ?_
    · rw [hwlot, belongsInQueue_iff]
      exact ⟨.inl rfl, Nat.lt_min.2 ⟨hsplit, hruns⟩, hfree⟩
    · rw [hwlot, notAging, show w.profile = s.profile from postNotice_profile ..,
        show w.timer = s.timer from postNotice_timer ..]
      exact hage
    · rw [hwlot, hstep]
      exact noCellFor_congr hwcells hcell
    · rw [hwlot, hstep]
      exact noCandidateFor_congr (s := s) hwcells (postNotice_runs ..) hwcls hhot
  have hadvance : advance l s = queueTest l (takeSequence l (v.setLot l (x.nextStep st.maxRuns))) := by
    rw [advance, if_pos hnext, hsteps]
  have hplace : placeIn w l w.queue = placeIn (s.setLot l y) l s.queue := by
    rw [show w.queue = s.queue from postNotice_queue ..]
    have hsame (m : LotSlot) : w.lot m = (s.setLot l y).lot m := by
      by_cases hm : l = m
      · subst hm
        rw [hwlot, setLot_lot]
      · show (v.setLot l y).lot m = _
        rw [setLot_lot_ne _ _ hm, setLot_lot_ne _ _ hm, hvlot]
    exact placeIn_congr l _ (fun m => by rw [hsame]) (fun m => by rw [hsame])
  rw [hadvance, htake, henter, queueInsert, hplace, hw, setLot_work,
    show v.lots = s.lots from postNotice_lots .., show v.runs = s.runs from postNotice_runs ..,
    show v.cells = s.cells from postNotice_cells ..]
  rfl

/-- The advance past the end of the route (R21). -/
theorem advance_ends {l : LotSlot} {s : State}
    (h : (s.lot l).figures.goodFinal = 0 ∨ (s.route (s.lot l).route).steps.length ≤ (s.lot l).step + 1) :
    let v := postNotice (.stepDone (s.lot l).tag (s.lot l).step (s.lot l).figures.tested (s.lot l).figures.goodFinal) s
    advance l s =
      (if (s.lot l).holds = [] then postNotice (.lotFinished (s.lot l).tag (s.lot l).figures.finalGrades) v else v).setLot l
        (s.lot l).routeEnd := by
  intro v
  have hnext : hasNextStep v (s.lot l) = false :=
    hasNextStep_of_none (by rw [State.route, postNotice_routes]; exact h)
  rw [advance, if_neg (by rw [hnext]; simp)]
  by_cases hempty : (s.lot l).holds = []
  · rw [if_pos (by rw [hempty]; rfl), if_pos hempty, postNotice_setLot]
  · rw [if_neg (by rw [List.isEmpty_iff]; exact hempty), if_neg hempty]

/-! ## The close checks (R152) -/

/-- The final yield of a step is below its limit (R152). -/
def lowYield (x : Lot) (lim : LimitSet) : Prop :=
  0 < lim.yfinal ∧ 0 < x.figures.tested ∧ finalYield x.figures < lim.yfinal

/-- The lot with its step marked closed (R19). -/
def Lot.marked (x : Lot) : Lot := { x with stepClosed := true }

section
variable {l : LotSlot} {s : State}

theorem closeChecks_final (hlow : lowYield (s.lot l) (limitsOf s (s.lot l)))
    (hnear : nearby (limitsOf s (s.lot l)).inputTol (s.lot l).figures.fedSum (s.lot l).q) :
    closeChecks l s = stepOutcome l ((raiseOnLot l .final (some (finalYield (s.lot l).figures)) s).modLot l Lot.marked) := by
  rw [closeChecks]
  rw [if_neg (by rw [distance_lt_iff]; exact not_not.2 hnear), if_pos (by exact hlow)]
  rfl

theorem closeChecks_recon (hlow : ¬ lowYield (s.lot l) (limitsOf s (s.lot l)))
    (hnear : ¬ nearby (limitsOf s (s.lot l)).inputTol (s.lot l).figures.fedSum (s.lot l).q) :
    closeChecks l s = stepOutcome l ((raiseOnLot l .recon none s).modLot l Lot.marked) := by
  rw [closeChecks]
  rw [if_pos (by rw [distance_lt_iff]; exact hnear), if_neg (by exact hlow)]
  rfl

theorem closeChecks_both (hlow : lowYield (s.lot l) (limitsOf s (s.lot l)))
    (hnear : ¬ nearby (limitsOf s (s.lot l)).inputTol (s.lot l).figures.fedSum (s.lot l).q) :
    closeChecks l s = stepOutcome l
      ((raiseOnLot l .recon none (raiseOnLot l .final (some (finalYield (s.lot l).figures)) s)).modLot l Lot.marked) := by
  rw [closeChecks]
  rw [if_pos (by rw [distance_lt_iff]; exact hnear), if_pos (by exact hlow)]
  rfl

theorem closeChecks_passes (hlow : ¬ lowYield (s.lot l) (limitsOf s (s.lot l)))
    (hnear : nearby (limitsOf s (s.lot l)).inputTol (s.lot l).figures.fedSum (s.lot l).q) :
    closeChecks l s = stepOutcome l (s.setLot l (s.lot l).marked) := by
  rw [closeChecks]
  rw [if_neg (by rw [distance_lt_iff]; exact not_not.2 hnear), if_neg (by exact hlow)]
  rfl

/-! ### What they raise, and what a step comes to -/

theorem inWork_iff {st : LotState} : st.inWork = true ↔ st = .waiting ∨ st = .running ∨ st = .held := by
  cases st <;> simp [LotState.inWork]

theorem stepOutcome_holds (hstate : (s.lot l).state = .waiting ∨ (s.lot l).state = .running ∨ (s.lot l).state = .held)
    (hblocked : (s.lot l).anyBlocked = true) : stepOutcome l s = s.setLot l { s.lot l with state := .held } := by
  rw [stepOutcome, if_neg (by rw [inWork_iff.2 hstate]; simp), if_pos hblocked]
  rfl

theorem stepOutcome_advances (hstate : (s.lot l).state = .waiting ∨ (s.lot l).state = .running ∨ (s.lot l).state = .held)
    (hfree : (s.lot l).anyBlocked = false) : stepOutcome l s = advance l s := by
  rw [stepOutcome, if_neg (by rw [inWork_iff.2 hstate]; simp), if_neg (by rw [hfree]; simp)]

theorem anyBlocked_iff (x : Lot) : x.anyBlocked = true ↔ ∃ h ∈ x.holds, h.policy ≠ .mark := by
  rw [Lot.anyBlocked, List.any_eq_true]
  refine exists_congr fun h => and_congr_right fun _ => ?_
  cases h.policy <;> simp [Policy.restrains]

theorem lotBlocked_of_anyBlocked {x : Lot} (h : x.anyBlocked = false) : x.lotBlocked = false := by
  rw [Lot.anyBlocked, List.any_eq_false] at h
  rw [Lot.lotBlocked, List.any_eq_false]
  exact fun a ha => by
    have := h a ha
    simp_all

/-- A lot with no open run and a lot-scope FINISH hold more (R14). -/
def Lot.heldBy (x : Lot) (h : Hold) : Lot := { x with holds := x.holds ++ [h], state := .held }

/-- FINAL or RECON raised on a lot with no open run, out of the queue (R10, R14). -/
theorem raiseOnLot_closed {k : HoldKind} {value : Option Nat} (hk : k = .final ∨ k = .recon)
    (hstate : (s.lot l).state = .waiting ∨ (s.lot l).state = .running ∨ (s.lot l).state = .held)
    (hidle : (s.lot l).idle) (hout : l ∉ s.queue) (hnew : (s.lot l).holdsKind k none = false) :
    raiseOnLot l k value s =
      (postNotice (.holdRaised (s.lot l).tag k none .finish value) s).setLot l
        ((s.lot l).heldBy (newHold s l k none .finish value)) := by
  have hpolicy : policyFor (limitsOf s (s.lot l)) .stop k = .finish := by
    rcases hk with rfl | rfl <;> rfl
  set w := withHold l k none .finish value s with hw
  have hwidle : (w.lot l).idle := fun p => (withHold_openAt ..).trans (hidle p)
  have hwlot : w.lot l = { s.lot l with holds := (s.lot l).holds ++ [newHold s l k none .finish value] } := withHold_lot ..
  have heffect : policyEffect l none .finish none w = w := eachOpen_of_idle hwidle
  have hqueue : w.queue.filter (· ≠ l) = w.queue :=
    List.filter_eq_self.2 fun m hm => decide_eq_true fun hml => hout (hml ▸ by simpa [hw, withHold] using hm)
  have htakes : (s.lot l).state.takesHold k = true := by rcases hstate with h | h | h <;> rw [h] <;> rfl
  have hunfinished : (s.lot l).state ≠ .finished := by rcases hstate with h | h | h <;> simp [h]
  have hheld := heldTest_queueTest (l := l) (s := w) (by rw [hwlot]; exact hstate) (withHold_lotBlocked (by simp))
    (lotWorking_of_idle hwidle)
  rw [raiseOnLot, raiseHold_of_new htakes hnew, addHold_of_unfinished hunfinished, hpolicy, ← hw, heffect, hheld, hqueue,
    hwlot]
  show w.setLot l _ = _
  rw [hw, withHold, postNotice_setLot, setLot_setLot]
  rfl

end

end Sys2Proof.Machine
end

section
/-! PROOF. O51: the close of a step (R19 to R21, R152). -/

set_option Elab.async false

namespace Sys2Proof.Machine

/-! ## The outcomes of a step (R19, R152) -/

/-- A lot whose list a close check has added to is HELD at its step's close (R19). -/
theorem stepOutcome_heldBy {l : LotSlot} {x : Lot} {h : Hold} {v : State} (hpolicy : h.policy = .finish) :
    stepOutcome l ((v.setLot l (x.heldBy h)).modLot l Lot.marked) =
      v.setLot l { x with holds := x.holds ++ [h], stepClosed := true, state := .held } := by
  set w := (v.setLot l (x.heldBy h)).modLot l Lot.marked with hw
  have hwlot : w.lot l = (x.heldBy h).marked := by rw [hw, modLot_lot, setLot_lot]
  have hblocked : (w.lot l).anyBlocked = true := by
    rw [anyBlocked_iff, hwlot]
    exact ⟨h, List.mem_append_right _ List.mem_cons_self, by rw [hpolicy]; simp⟩
  rw [stepOutcome_holds (by rw [hwlot]; exact .inr (.inr rfl)) hblocked, hwlot, hw, State.modLot, setLot_setLot,
    setLot_setLot]
  rfl

section
variable {l : LotSlot} {s : State}

/-- Both checks raise their holds, the final-yield check's first (R152). -/
theorem raiseOnLot_twice {value : Option Nat}
    (hstate : (s.lot l).state = .waiting ∨ (s.lot l).state = .running ∨ (s.lot l).state = .held)
    (hidle : (s.lot l).idle) (hout : l ∉ s.queue) (hfinal : (s.lot l).holdsKind .final none = false)
    (hrecon : (s.lot l).holdsKind .recon none = false) :
    raiseOnLot l .recon none (raiseOnLot l .final value s) =
      (postNotice (.holdRaised (s.lot l).tag .recon none .finish none)
        (postNotice (.holdRaised (s.lot l).tag .final none .finish value) s)).setLot l
        (((s.lot l).heldBy (newHold s l .final none .finish value)).heldBy (newHold s l .recon none .finish none)) := by
  set x := (s.lot l).heldBy (newHold s l .final none .finish value) with hx
  set v := (postNotice (.holdRaised (s.lot l).tag .final none .finish value) s).setLot l x with hv
  have hvlot : v.lot l = x := setLot_lot ..
  have hnone : x.holdsKind .recon none = false := by
    rw [Lot.holdsKind, hx]
    show ((s.lot l).holds ++ [newHold s l .final none .finish value]).any _ = false
    rw [List.any_append, show (s.lot l).holds.any (fun h => h.is .recon none) = false from hrecon]
    rfl
  have hnewHold : newHold v l .recon none .finish none = newHold s l .recon none .finish none := by
    rw [newHold, newHold, hvlot, hv, setLot_floorClock, postNotice_floorClock]
    rfl
  rw [raiseOnLot_closed (.inl rfl) hstate hidle hout hfinal, ← hv,
    raiseOnLot_closed (.inr rfl) (by rw [hvlot]; exact .inr (.inr rfl)) (by rw [hvlot]; exact hidle)
      (by rw [hv, setLot_queue, postNotice_queue]; exact hout) (by rw [hvlot]; exact hnone), hvlot, hnewHold, hv,
    postNotice_setLot, setLot_setLot]
  rfl

/-- What a lot that goes on must be: free of STOP and FINISH holds, with its marker set (R19). -/
theorem closeChecks_advances (hlow : ¬ lowYield (s.lot l) (limitsOf s (s.lot l)))
    (hnear : nearby (limitsOf s (s.lot l)).inputTol (s.lot l).figures.fedSum (s.lot l).q)
    (hstate : (s.lot l).state = .waiting ∨ (s.lot l).state = .running ∨ (s.lot l).state = .held)
    (hfree : (s.lot l).anyBlocked = false) : closeChecks l s = advance l (s.setLot l (s.lot l).marked) := by
  rw [closeChecks_passes hlow hnear,
    stepOutcome_advances (by rw [setLot_lot]; exact hstate) (by rw [setLot_lot]; exact hfree)]

theorem anyBlocked_of_marks {x : Lot} (h : ∀ e ∈ x.holds, e.policy = .mark) : x.anyBlocked = false :=
  Bool.eq_false_iff.2 fun hb => by
    obtain ⟨e, he, hne⟩ := (anyBlocked_iff x).1 hb
    exact hne (h e he)

/-- The advance of a lot whose marker has just been set, to its next step (R20). -/
theorem advance_marked_next {st : Step} (hgood : 0 < (s.lot l).figures.goodFinal)
    (hst : (s.route (s.lot l).route).steps[(s.lot l).step + 1]? = some st) (hout : l ∉ s.queue)
    (hseq : s.seqCounter < 4294967295) (hruns : 1 ≤ st.maxRuns) (hsplit : 1 ≤ (s.lot l).split)
    (hfree : (s.lot l).lotBlocked = false) (hage : notAging (s.lot l) s) (hcell : noCellFor st s)
    (hhot : noCandidateFor (s.lot l).cls (s.lot l).preempt st s) :
    advance l (s.setLot l (s.lot l).marked) =
      (postNotice (.stepDone (s.lot l).tag (s.lot l).step (s.lot l).figures.tested (s.lot l).figures.goodFinal) s).work
        (vset s.lots l ((s.lot l).advanced st s.seqCounter)) s.runs s.cells
        (placeIn (s.setLot l ((s.lot l).advanced st s.seqCounter)) l s.queue) (s.seqCounter + 1) := by
  set v := s.setLot l (s.lot l).marked with hv
  have hvlot : v.lot l = (s.lot l).marked := setLot_lot ..
  have hvcls (m : LotSlot) : (v.lot m).cls = (s.lot m).cls := by
    by_cases hm : l = m
    · subst hm
      rw [hvlot]
      rfl
    · rw [hv, setLot_lot_ne _ _ hm]
  rw [advance_next (s := v) (st := st) (by rw [hvlot]; exact hgood) (by rw [hvlot]; exact hst) (by exact hout)
    (by exact hseq) hruns (by rw [hvlot]; exact hsplit) (by rw [hvlot]; exact hfree) (by rw [hvlot]; exact hage)
    (noCellFor_congr (s := s) rfl hcell)
    (by rw [hvlot]; exact noCandidateFor_congr (s := s) rfl rfl hvcls hhot), hvlot, hv, postNotice_setLot, setLot_work,
    setLot_setLot]
  show State.work (State.work _ _ _ _ _ _) (vset (vset s.lots l _) l _) s.runs s.cells
    (placeIn (s.setLot l _) l s.queue) (s.seqCounter + 1) = _
  rw [work_work, vset_vset]
  rfl

/-- The same past the end of its route (R21). -/
theorem advance_marked_ends
    (h : (s.lot l).figures.goodFinal = 0 ∨ (s.route (s.lot l).route).steps.length ≤ (s.lot l).step + 1) :
    let v := postNotice (.stepDone (s.lot l).tag (s.lot l).step (s.lot l).figures.tested (s.lot l).figures.goodFinal) s
    advance l (s.setLot l (s.lot l).marked) =
      (if (s.lot l).holds = [] then postNotice (.lotFinished (s.lot l).tag (s.lot l).figures.finalGrades) v else v).setLot l
        (s.lot l).marked.routeEnd := by
  intro v
  rw [advance_ends (s := s.setLot l (s.lot l).marked) (by rw [setLot_lot]; exact h)]
  simp only [setLot_lot]
  by_cases hempty : (s.lot l).holds = []
  · rw [if_pos (by exact hempty), if_pos hempty, postNotice_setLot, postNotice_setLot, setLot_setLot]
    rfl
  · rw [if_neg (by exact hempty), if_neg hempty, postNotice_setLot, setLot_setLot]
    rfl

end

/-- The record of a lot past the end of its route, as R21 writes it. -/
theorem routeEnd_eq (x : Lot) :
    x.routeEnd = { x with
      gradeQty := if x.figures.goodFinal = 0 then Vector.replicate 4 0 else x.figures.gradeSums
      marks := Vector.replicate 4 .free, routeComplete := true
      state := if x.holds = [] then .finished else .held } := by
  rw [Lot.routeEnd, StepFigures.finalGrades]
  by_cases hempty : x.holds = []
  · rw [if_pos (by rw [hempty]; rfl), if_pos hempty]
  · rw [if_neg (by rw [List.isEmpty_iff]; exact hempty), if_neg hempty]

/-! ## The close of the last run of a step (R18, R149) -/

theorem reportClose_of_last {r : RunIx} {s : State}
    (hlast : (s.lot (s.run r).lot).closedRuns + 1 = (s.lot (s.run r).lot).runsPerStep) :
    reportClose r s = heldTest (s.run r).lot (closeChecks (s.run r).lot
      (s.setLot (s.run r).lot ((s.lot (s.run r).lot).withClosed (stepOfRun s r) (s.run r)))) := by
  rw [reportClose, State.modLot]
  simp only [setLot_lot]
  rw [if_pos (by exact hlast)]

/-- The last run of the last step closes with every check passed and no hold: the lot is FINISHED, and the cell, with
nothing to pop or match, goes IDLE (R19, R21, R84). -/
theorem closeRun_finishes {l : LotSlot} {p : RunPlace} {r : RunIx} {s : State} {x : Lot} (honly : onlyRun l p r s)
    (hx : x = (s.lot l).withClosed (stepOf s (s.lot l)) (s.run r)) (hstate : (s.lot l).state = .running)
    (hholds : (s.lot l).holds = []) (hlast : (s.lot l).closedRuns + 1 = (s.lot l).runsPerStep)
    (hroute : (s.route (s.lot l).route).steps.length ≤ (s.lot l).step + 1)
    (hnear : nearby (limitsOf s (s.lot l)).inputTol x.figures.fedSum x.q) (hyield : (limitsOf s (s.lot l)).yfinal = 0)
    (hcur : (s.cell (s.run r).cell).current = some r) (hcell : (s.cell (s.run r).cell).state = .running)
    (hstack : (s.cell (s.run r).cell).stack = []) (hdeadline : runDeadline (s.cell (s.run r).cell))
    (hprep : (s.cell (s.run r).cell).prep = none) (hchanged : (s.cell (s.run r).cell).changed = false)
    (hno : nothingFor (s.run r).cell s) :
    closeRun r s =
      (postNotice (.lotFinished x.tag x.figures.finalGrades)
        (postNotice (.stepDone x.tag x.step x.figures.tested x.figures.goodFinal) s)).work
        (vset s.lots l x.marked.routeEnd) (vset s.runs r .free)
        (vset s.cells (s.run r).cell { ((s.cell (s.run r).cell).idleAt s.timer).without r with deadline := none }) s.queue
        s.seqCounter := by
  obtain ⟨hopen, hlot, hpos⟩ := honly
  set c := (s.run r).cell with hc
  set s1 := s.setCell c { s.cell c with deadline := none } with hs1
  have hcancel : cancelDeadlines r s = s1 := cancelDeadlines_of_current hcur hprep hdeadline
  have hxholds : x.holds = [] := by rw [hx]; exact hholds
  have hstep : stepOfRun s1 r = stepOf s (s.lot l) := by
    show stepOf s (s.lot (s.run r).lot) = _
    rw [hlot]
  set w := s1.setLot l x with hw
  have hwlot : w.lot l = x := setLot_lot ..
  have hlimits : limitsOf w (w.lot l) = limitsOf s (s.lot l) := by
    rw [hwlot, limitsOf, limitsOf, stepOf_congr (x := s.lot l) (s := s) (t := w) (y := x) rfl (by rw [hx]; rfl) (by rw [hx]; rfl)]
    rfl
  set v := postNotice (.lotFinished x.tag x.figures.finalGrades)
    (postNotice (.stepDone x.tag x.step x.figures.tested x.figures.goodFinal) w) with hv
  have hchecks : closeChecks l w = v.setLot l x.marked.routeEnd := by
    rw [closeChecks_advances (by rw [hlimits]; exact fun hlow => absurd hlow.1 (by omega))
      (by rw [hlimits, hwlot]; exact hnear) (by rw [hwlot, hx]; exact .inr (.inl hstate))
      (by rw [hwlot]; exact anyBlocked_of_marks (by simp [hxholds])),
      advance_marked_ends (by rw [hwlot]; exact .inr (by rw [hx]; exact hroute)), hwlot, if_pos hxholds]
  have hend : x.marked.routeEnd.state = .finished := by
    rw [routeEnd_eq]
    exact if_pos hxholds
  have hheld : heldTest l (v.setLot l x.marked.routeEnd) = v.setLot l x.marked.routeEnd :=
    heldTest_keeps (.inl (by rw [setLot_lot, hend]; simp))
  have hreport : reportClose r s1 = v.setLot l x.marked.routeEnd := by
    have hlast' : (s1.lot (s1.run r).lot).closedRuns + 1 = (s1.lot (s1.run r).lot).runsPerStep := by
      show (s.lot (s.run r).lot).closedRuns + 1 = (s.lot (s.run r).lot).runsPerStep
      rw [hlot]
      exact hlast
    rw [reportClose_of_last hlast', hstep]
    show heldTest (s.run r).lot (closeChecks (s.run r).lot (s1.setLot (s.run r).lot
      ((s.lot (s.run r).lot).withClosed _ (s.run r)))) = _
    rw [hlot, ← hx, ← hw, hchecks, hheld]
  set t := v.setLot l x.marked.routeEnd with ht
  have htrun : t.run r = s.run r := by
    rw [ht, setLot_run, hv, postNotice_run, postNotice_run]
    rfl
  have htcell : t.cell c = { s.cell c with deadline := none } := by
    rw [ht, setLot_cell, hv, postNotice_cell, postNotice_cell, hw, setLot_cell, hs1, setCell_cell]
  have htroutes : t.routes = s.routes := by
    rw [ht, setLot_routes, hv, postNotice_routes, postNotice_routes]
    rfl
  have htqueue : t.queue = s.queue := by
    rw [ht, setLot_queue, hv, postNotice_queue, postNotice_queue]
    rfl
  have hnot : nothingFor c t := by
    refine nothingFor_congr (s := s) (by rw [htcell]) (by rw [htcell]) (fun m hm => htqueue ▸ hm) htroutes (fun m => ?_) hno
    by_cases hm : l = m
    · subst hm
      rw [ht, setLot_lot, hx]
      exact ⟨rfl, rfl⟩
    · rw [ht, setLot_lot_ne _ _ hm, hv, postNotice_lot, postNotice_lot, hw, setLot_lot_ne _ _ hm]
      exact ⟨rfl, rfl⟩
  have httimer : t.timer = s.timer := by
    rw [ht, setLot_timer, hv, postNotice_timer, postNotice_timer]
    rfl
  rw [closeRun, hcancel, hreport, vacate_to_idle (by rw [htrun, ← hc, htcell]; exact hcur)
    (by rw [htrun, ← hc, htcell]; exact .inl hcell) (by rw [htrun, ← hc, htcell]; exact hstack)
    (by rw [htrun, ← hc, htcell]; exact hprep) (by rw [htrun, ← hc, htcell]; exact hchanged) (by rw [htrun]; exact hnot),
    htrun, ← hc, htcell, httimer, ht, hv, hw, hs1, postNotice_setLot, postNotice_setLot, postNotice_setCell,
    postNotice_setCell]
  simp only [setRun_work, setCell_work, setLot_work, work_work, work_lots, work_runs, work_cells, work_queue,
    work_seqCounter, vset_vset, postNotice_lots, postNotice_runs, postNotice_cells, postNotice_queue, postNotice_seqCounter]
  rfl

/-- The counts of a report are judged under the limits of the floor. -/
theorem countsHeard_limitsOf (e : Envelope) (fed : BitVec 24) (trays : Vector (BitVec 24) 8) (c : CellIx) (r : RunIx)
    (s : State) (x : Lot) : limitsOf (countsHeard e fed trays c r s) x = limitsOf s x := by
  have hlimits : (countsHeard e fed trays c r s).limits = s.limits := metBy_limits (.runCounts e fed trays) e c .handler s
  rw [limitsOf, limitsOf, countsHeard_stepOf, State.limit, hlimits]
  rfl

/-- Settles the clause of O51 on RUN_COUNTS. -/
theorem countsFinishTheLot (e : Envelope) (fed : BitVec 24) (trays : Vector (BitVec 24) 8) (c : CellIx) (l : LotSlot)
    (p : RunPlace) (r : RunIx) (s : State) :
    let i : Instr := .runCounts e fed trays
    fromStation i e c .handler s →
    let u := metBy i e c .handler s
    let k := u.cell c
    let x := s.lot l
    let run := { s.run r with handlerFed := some fed.toNat }
    let lim := limitsOf s x
    let f := x.figures.withRun (stepOf s x) run
    let near : Nat → Nat → Nat → Prop := fun tol a b => a ≤ b + tol ∧ b ≤ a + tol
    near lim.inputTol fed.toNat run.tested → (∀ t : Fin 8, near lim.trayTol trays[t].toNat run.ledger[t]) →
    run.shortfall ≤ lim.trayTol → run.surplus ≤ lim.trayTol →
    onlyRun l p r s → (s.run r).state = .ending → (s.run r).cell = c → x.state = .running → x.holds = [] →
    x.closedRuns + 1 = x.runsPerStep → (s.route x.route).steps.length ≤ x.step + 1 →
    near lim.inputTol f.fedSum x.q → lim.yfinal = 0 → k.state = .running → k.current = some r → k.stack = [] →
    k.prep = none → (∀ d ∈ k.deadline, d.kind = .counts) → k.changed = false → nothingFor c s →
    let grades := if f.goodFinal = 0 then Vector.replicate 4 0 else f.gradeSums
    exec i s = .next
      { postNotice (.lotFinished x.tag grades) (postNotice (.stepDone x.tag x.step f.tested f.goodFinal) u) with
        lots := vset s.lots l { x with
          figures := f, runs := vset x.runs p .closed, closedRuns := x.closedRuns + 1, gradeQty := grades
          marks := Vector.replicate 4 .free, routeComplete := true, stepClosed := true, state := .finished }
        runs := vset s.runs r .free
        cells := vset u.cells c { k with
          state := .idle, cause := none, since := s.timer, acc := k.accNow s.timer, current := none, deadline := none
          reserved := if k.reserved = some r then none else k.reserved } } := by
  intro i h u k x run lim f near hfed htrays hshort hsurplus honly hending hcell hstate hholds hlast hroute hnear hyield
    hrunning hcur hstack hprep hdeadline hchanged hno grades
  have hexec := (exec_runCounts_judged h hcur hending honly.2.1 hprep hdeadline).1 ⟨hfed, htrays, hshort, hsurplus⟩
  set w := countsHeard e fed trays c r s with hw
  have hwrun : w.run r = run := countsHeard_run ..
  have hwlot : w.lot l = x := countsHeard_lot ..
  have hwcell : w.cell c = { k with deadline := none } := countsHeard_cell ..
  have hwstep : stepOf w x = stepOf s x := countsHeard_stepOf ..
  have hwroutes : w.routes = s.routes := countsHeard_routes ..
  have hwlimits : limitsOf w x = lim := countsHeard_limitsOf ..
  have hwno : nothingFor c w := countsHeard_nothingFor _ _ _ _ _ _ hno
  have hrcell : run.cell = c := hcell
  have htimer : u.timer = s.timer := metBy_timer i e c .handler s
  have hwtimer : w.timer = s.timer := htimer
  have hlots : u.lots = s.lots := metBy_lots i e c .handler s
  have hruns : u.runs = s.runs := metBy_runs i e c .handler s
  have hwform : w = u.work u.lots (vset u.runs r run) (vset u.cells c { k with deadline := none }) u.queue u.seqCounter := by
    rw [hw, countsHeard, countsTaken, setRun_work, setCell_work, work_work,
      show (metBy (.runCounts e fed trays) e c .handler s).run r = s.run r from metBy_run i e c .handler s r]
    rfl
  set y := x.withClosed (stepOf s x) run with hy
  have hyrecord : y.marked.routeEnd = { x with
      figures := f, runs := vset x.runs p .closed, closedRuns := x.closedRuns + 1, gradeQty := grades
      marks := Vector.replicate 4 .free, routeComplete := true, stepClosed := true, state := .finished } := by
    rw [routeEnd_eq, if_pos (by exact hholds), hy, Lot.withClosed, show run.pos = p from honly.2.2]
    rfl
  have hfinish := closeRun_finishes (s := w) (x := y) (countsHeard_onlyRun _ _ _ _ _ _ honly)
    (by rw [hwlot, hwstep, hwrun]) (by rw [hwlot]; exact hstate) (by rw [hwlot]; exact hholds) (by rw [hwlot]; exact hlast)
    (by rw [hwlot, State.route, hwroutes]; exact hroute) (by rw [hwlot, hwlimits]; exact hnear)
    (by rw [hwlot, hwlimits]; exact hyield) (by rw [hwrun, hrcell, hwcell]; exact hcur)
    (by rw [hwrun, hrcell, hwcell]; exact hrunning) (by rw [hwrun, hrcell, hwcell]; exact hstack)
    (by rw [hwrun, hrcell, hwcell]; simp [runDeadline]) (by rw [hwrun, hrcell, hwcell]; exact hprep)
    (by rw [hwrun, hrcell, hwcell]; exact hchanged) (by rw [hwrun, hrcell]; exact hwno)
  rw [hwrun, hrcell, hwcell, hwtimer, hyrecord] at hfinish
  set o := postNotice (.lotFinished x.tag grades) (postNotice (.stepDone x.tag x.step f.tested f.goodFinal) u) with ho
  have hports : postNotice (.lotFinished y.tag y.figures.finalGrades)
      (postNotice (.stepDone y.tag y.step y.figures.tested y.figures.goodFinal) w) =
      o.work u.lots (vset u.runs r run) (vset u.cells c { k with deadline := none }) u.queue u.seqCounter := by
    rw [hwform, postNotice_work, postNotice_work]
    rfl
  have hoseq : o.seqCounter = u.seqCounter := by rw [ho, postNotice_seqCounter, postNotice_seqCounter]
  have hoqueue : o.queue = u.queue := by rw [ho, postNotice_queue, postNotice_queue]
  rw [hexec, hfinish, hports, hwform]
  simp only [work_work, work_lots, work_runs, work_cells, work_queue, work_seqCounter, vset_vset, hlots, hruns]
  rw [← hoseq, ← hoqueue]
  rfl

/-- Settles O51. -/
theorem stepsCloseByTheirChecks : Obligations.StepsCloseByTheirChecks := by
  refine ⟨fun l s => ?_, fun e fed trays c l p r s => countsFinishTheLot e fed trays c l p r s⟩
  · intro x f lim steps yf low near final recon heldWith v hstate
    have hself (h : Hold) : { x with holds := x.holds ++ [h], stepClosed := true, state := .held } = heldWith [h] := rfl
    refine ⟨fun hlow hnear hblocked => ?_, fun hidle hout => ⟨fun hlow hnear hnew => ?_, fun hlow hnear hnew => ?_,
      fun hlow hnear hfinal hrecon => ?_⟩, fun hlow hnear hmarks => ?_⟩
    · rw [closeChecks_passes hlow hnear,
        stepOutcome_holds (by rw [setLot_lot]; exact hstate) (by rw [setLot_lot]; exact (anyBlocked_iff x).2 hblocked),
        setLot_lot, setLot_setLot]
      show s.setLot l _ = s.setLot l { x with holds := x.holds ++ [], stepClosed := true, state := .held }
      rw [List.append_nil]
      rfl
    · rw [closeChecks_final hlow hnear, raiseOnLot_closed (.inl rfl) hstate hidle hout hnew, stepOutcome_heldBy rfl]
      rfl
    · rw [closeChecks_recon hlow hnear, raiseOnLot_closed (.inr rfl) hstate hidle hout hnew, stepOutcome_heldBy rfl]
    · rw [closeChecks_both hlow hnear, raiseOnLot_twice hstate hidle hout hfinal hrecon, stepOutcome_heldBy rfl]
      show State.setLot _ l { x with holds := (x.holds ++ [final]) ++ [recon], stepClosed := true, state := .held } = _
      rw [List.append_assoc]
      rfl
    · have hfree : x.anyBlocked = false := anyBlocked_of_marks hmarks
      refine ⟨fun st hgood hst hout hseq hruns hsplit hage hcell hhot => ?_, fun hend => ?_⟩
      · intro t
        rw [closeChecks_advances hlow hnear hstate hfree,
          advance_marked_next hgood hst hout hseq hruns hsplit (lotBlocked_of_anyBlocked hfree) hage hcell hhot]
        show State.work v _ _ _ _ _ = State.work v _ v.runs v.cells _ _
        rw [show v.runs = s.runs from postNotice_runs .., show v.cells = s.cells from postNotice_cells ..]
        rfl
      · intro y
        rw [closeChecks_advances hlow hnear hstate hfree, advance_marked_ends hend, routeEnd_eq]
        rfl

end Sys2Proof.Machine
end

section
/-! SUPPORT. The rules of LOT_RELEASE (R25), and what a release frees of a lot with one open run, at a step's close, or past
its route (R13, R15, R17, R133). -/

set_option Elab.async false

namespace Sys2Proof.Machine

/-! ## LOT_RELEASE's own rule (R25) -/

theorem holdKindOf_eq {b : Byte} {k : HoldKind} (h : k.code = b.toNat) : holdKindOf b = some k := by
  rw [holdKindOf, ← h]
  cases k <;> rfl

theorem holdKindOf_none {b : Byte} (h : 10 < b.toNat) : holdKindOf b = none := by
  rw [holdKindOf]
  split <;> first | omega | rfl

theorem exists_code {n : Nat} (h : n ≤ 10) : ∃ k : HoldKind, k.code = n := by
  interval_cases n
  exacts [⟨.yield, rfl⟩, ⟨.bin, rfl⟩, ⟨.final, rfl⟩, ⟨.recon, rfl⟩, ⟨.engineer, rfl⟩, ⟨.window, rfl⟩, ⟨.site, rfl⟩,
    ⟨.consec, rfl⟩, ⟨.golden, rfl⟩, ⟨.data, rfl⟩, ⟨.lost, rfl⟩]

theorem isLot_iff (k : HoldKind) : k.isLot = true ↔ k.code ≤ 4 := by
  cases k <;> simp [HoldKind.isLot, HoldKind.code]

/-- A kind and a position byte that go together name a place (R25). -/
def places? (k : HoldKind) (pos : Byte) (place : Option RunPlace) : Prop :=
  k.isLot = true ∧ place = none ∧ pos = 0xFF ∨ k.isLot = false ∧ place.map (·.val) = some pos.toNat

theorem releasePlaceOf_eq {k : HoldKind} {pos : Byte} {place : Option RunPlace} (h : places? k pos place) :
    releasePlaceOf k pos = some place := by
  rw [releasePlaceOf]
  rcases h with ⟨hlot, rfl, hpos⟩ | ⟨hrun, hplace⟩
  · rw [if_pos hlot, if_pos hpos]
  · rw [if_neg (by rw [hrun]; simp)]
    cases place with
    | none => exact absurd hplace (by simp)
    | some p => rw [runPlaceOf_eq (Option.some.inj hplace), Option.map_some]

theorem releasePlaceOf_lot {k : HoldKind} {pos : Byte} (hlot : k.isLot = true) (hpos : pos ≠ 0xFF) :
    releasePlaceOf k pos = none := by
  rw [releasePlaceOf, if_pos hlot, if_neg hpos]

theorem releasePlaceOf_far {k : HoldKind} {pos : Byte} (hrun : ¬ k.isLot = true) (hpos : 3 < pos.toNat) :
    releasePlaceOf k pos = none := by
  rw [releasePlaceOf, if_neg hrun, runPlaceOf, dif_neg (by omega)]
  rfl

section
variable {tag : Tag} {kind pos : Byte} {k : HoldKind} {place : Option RunPlace} {s : State}

theorem ownLotRelease_of_held {l : LotSlot} (hkind : k.code = kind.toNat) (hplace : places? k pos place)
    (hl : findLot s tag = some l) (hheld : (s.lot l).holdsKind k place = true) :
    ownLotRelease tag kind pos s = ok (freeing l (removeHold l k place s)) := by
  simp only [ownLotRelease, holdKindOf_eq hkind, releasePlaceOf_eq hplace, hl, hheld, if_true]

theorem ownLotRelease_missing (hkind : k.code = kind.toNat) (hplace : places? k pos place)
    (hmissing : findLot s tag = none ∨ ∃ l, findLot s tag = some l ∧ (s.lot l).holdsKind k place = false) :
    ownLotRelease tag kind pos s = refuse .notFound s := by
  rcases hmissing with hl | ⟨l, hl, hnone⟩
  · simp only [ownLotRelease, holdKindOf_eq hkind, releasePlaceOf_eq hplace, hl]
  · simp only [ownLotRelease, holdKindOf_eq hkind, releasePlaceOf_eq hplace, hl, hnone, Bool.false_eq_true, if_false]

theorem ownLotRelease_range (hkind : k.code = kind.toNat) (hplace : releasePlaceOf k pos = none) :
    ownLotRelease tag kind pos s = refuse .range s := by
  simp only [ownLotRelease, holdKindOf_eq hkind, hplace]

end

/-! ## The removal of a hold (R15) -/

theorem freed_eq (x : Lot) (k : HoldKind) (place : Option RunPlace) :
    x.freed k place = { x with
      holds := x.holds.filter fun e => !e.is k place
      yieldWaived := x.yieldWaived || k == .yield, binWaived := x.binWaived || k == .bin } := by
  cases k <;> simp [Lot.freed, Lot.released]

/-- The one open run of a lot after a release, which empties its ring or its site figures at its position (R15). -/
def Run.emptied (x : Run) (k : HoldKind) (place : Option RunPlace) (p : RunPlace) : Run :=
  { x with
    ring := if k = .window ∧ place = some p then [] else x.ring
    sites := if (k = .site ∨ k = .consec) ∧ place = some p then Vector.replicate 16 ⟨0, 0, 0⟩ else x.sites }

theorem emptied_same (x : Run) (k : HoldKind) (p : RunPlace) : x.emptied k (some p) p = x.released k := by
  cases k <;> simp [Run.emptied, Run.released, SiteFigures.zero]

theorem emptied_other (x : Run) (k : HoldKind) {place : Option RunPlace} {p : RunPlace} (h : place ≠ some p) :
    x.emptied k place p = x := by
  simp [Run.emptied, h]

section
variable {l : LotSlot} {k : HoldKind} {place : Option RunPlace} {s : State}

/-- The state after the notice of a release, the lot without the record. -/
def afterRelease (l : LotSlot) (k : HoldKind) (place : Option RunPlace) (s : State) : State :=
  (postNotice (.holdReleased (s.lot l).tag k place) s).setLot l ((s.lot l).freed k place)

theorem removeHold_idle (hidle : (s.lot l).idle) : removeHold l k place s = afterRelease l k place s := by
  cases place with
  | none => exact removeHold_lotScope l k s
  | some p => exact removeHold_closed (hidle p)

theorem removeHold_onlyRun {p : RunPlace} {r : RunIx} (honly : onlyRun l p r s) :
    removeHold l k place s = (afterRelease l k place s).setRun r ((s.run r).emptied k place p) := by
  have hrun : (afterRelease l k place s).run r = s.run r := by rw [afterRelease, setLot_run, postNotice_run]
  have hsame (h : place ≠ some p) : afterRelease l k place s =
      (afterRelease l k place s).setRun r ((s.run r).emptied k place p) := by
    rw [emptied_other _ _ h, ← hrun, setRun_self]
  cases place with
  | none => exact (removeHold_lotScope l k s).trans (hsame (by simp))
  | some q =>
    have hopen := honly.1 q
    by_cases hq : q = p
    · subst hq
      rw [if_pos rfl] at hopen
      rw [removeHold_open hopen, emptied_same]
      rfl
    · rw [if_neg hq] at hopen
      exact (removeHold_closed hopen).trans (hsame (by simpa using hq))

/-! ## What a release frees (R17) -/

theorem lotBlocked_eq_false_of {x : Lot} (h : ∀ e ∈ x.holds, e.policy = .mark ∨ e.pos ≠ none) : x.lotBlocked = false := by
  rw [Lot.lotBlocked, List.any_eq_false]
  intro e he
  rcases h e he with h | h
  · simp [h, Policy.restrains]
  · simp [h]

theorem blockedAt_eq_false_of {x : Lot} {p : RunPlace}
    (h : ∀ e ∈ x.holds, e.policy = .mark ∨ (e.pos ≠ none ∧ e.pos ≠ some p)) : x.blockedAt p = false := by
  rw [Lot.blockedAt, List.any_eq_false]
  intro e he
  rcases h e he with h | ⟨h, h'⟩
  · simp [h, Policy.restrains]
  · simp [h, h']

/-- A lot with no run left to assign, out of the queue: once its open runs are freed, it returns to work (R17 case 3). -/
theorem freeing_of_assigned {t : State} (hopen : eachOpen l none freeOpen s = t)
    (hclosed : (t.lot l).stepClosed = false) (hroute : (t.lot l).routeComplete = false)
    (hfree : (t.lot l).state = .held → (t.lot l).lotBlocked = false) (hassign : (t.lot l).toAssign = 0) (hout : l ∉ t.queue) :
    freeing l s = t.setLot l { t.lot l with
      state := if (t.lot l).state = .held then (if (t.lot l).stepStarted then .running else .waiting)
        else (t.lot l).state } := by
  set y : Lot := { t.lot l with
      state := if (t.lot l).state = .held then (if (t.lot l).stepStarted then .running else .waiting)
        else (t.lot l).state } with hy
  set w := t.setLot l y with hw
  have hleave : leaveHeld l t = w := by
    by_cases hheld : (t.lot l).state = .held
    · rw [leaveHeld_frees hheld hclosed hroute (hfree hheld), hw, hy, if_pos hheld]
    · rw [leaveHeld_keeps (.inl hheld), hw, hy, if_neg hheld]
      exact setLot_self.symm
  have hwlot : w.lot l = y := setLot_lot ..
  have hnot : (w.lot l).state ≠ .held := by
    rw [hwlot, hy]
    show (if (t.lot l).state = .held then (if (t.lot l).stepStarted then LotState.running else .waiting)
      else (t.lot l).state) ≠ .held
    split
    · split <;> simp
    · next h => exact h
  have hqueue : queueTest l w = w := by
    refine queueTest_inPlace ?_
    have hno : belongsInQueue (w.lot l) = false := Bool.eq_false_iff.2 fun hb => by
      have := ((belongsInQueue_iff _).1 hb).2.1
      rw [hwlot] at this
      exact absurd this (by show ¬ 0 < (t.lot l).toAssign; omega)
    rw [hno]
    simpa [hw] using hout
  rw [freeing, hopen, hleave, hqueue, leaveStepClose_keeps (.inl hnot), leaveRouteEnd_of_working hnot]

/-- A lot HELD past its route, with no open run and no hold left, is FINISHED (R17 case 5). -/
theorem freeing_of_routeEnd (hidle : (s.lot l).idle) (hheld : (s.lot l).state = .held)
    (hroute : (s.lot l).routeComplete = true) (hholds : (s.lot l).holds = []) (hout : l ∉ s.queue) :
    freeing l s = postNotice (.lotFinished (s.lot l).tag (s.lot l).gradeQty)
      (s.setLot l { s.lot l with state := .finished }) := by
  have hqueue : queueTest l s = s :=
    queueTest_inPlace (by rw [belongsInQueue_of_state (by simp [hheld])]; simpa using hout)
  rw [freeing, eachOpen_of_idle hidle, leaveHeld_keeps (.inr (.inr (.inl hroute))), hqueue,
    leaveStepClose_keeps (.inr (.inr (.inl hroute))), leaveRouteEnd_finishes hheld hroute (by simp [hholds])]

/-- A lot HELD at its step's close with no STOP or FINISH hold left advances (R17 case 4). -/
theorem freeing_of_stepClosed (hidle : (s.lot l).idle) (hheld : (s.lot l).state = .held)
    (hclosed : (s.lot l).stepClosed = true) (hroute : (s.lot l).routeComplete = false)
    (hfree : (s.lot l).anyBlocked = false) (hout : l ∉ s.queue) :
    freeing l s = leaveRouteEnd l (advance l s) := by
  have hqueue : queueTest l s = s :=
    queueTest_inPlace (by rw [belongsInQueue_of_state (by simp [hheld])]; simpa using hout)
  rw [freeing, eachOpen_of_idle hidle, leaveHeld_keeps (.inr (.inl hclosed)), hqueue,
    leaveStepClose_advances hheld hclosed hroute hfree]

end

end Sys2Proof.Machine
end

section
/-! PROOF. O23: LOT_RELEASE (R25), and what it frees (R13, R15 to R17, R133). -/

set_option Elab.async false

namespace Sys2Proof.Machine

/-! ## A run that goes back to work (R13, R137) -/

/-- The CLOSING deadline that a run returning to CLOSING is given anew (R137). -/
def rearmed (was : Option ActiveState) (s : State) : Option Deadline :=
  if was = some .closing then some ⟨.closing, s.timer + 1000 * s.profile.closing⟩ else none

/-- The state a parked run returns to (R137). -/
def Run.backInto (was : Option ActiveState) : RunState := if was = some .closing then .closing else .testing

section
variable {c : CellIx} {r : RunIx} {s : State}

/-- A RESUME for a run that returns to CLOSING on a cell with no deadline: CLOSING is armed anew (R137). -/
theorem resumeRun_rearms (hinto : (s.run r).resumesInto = .closing) (hcell : (s.run r).cell = c)
    (htarget : (s.run r).targetReached = false) (hdeadline : (s.cell c).deadline = none) (hstate : (s.cell c).state ≠ .running) :
    resumeRun c r s =
      ((sendBoth c (.resume (lotOfRun s r).tag (s.run r).pos (s.run r).pass
          (usableSites (s.cell c) (stepOfRun s r))) s).setCell c
        { s.cell c with
          state := .running, cause := none, since := s.timer, acc := (s.cell c).accNow s.timer
          deadline := some ⟨.closing, s.timer + 1000 * s.profile.closing⟩ }).setRun r ((s.run r).goingOn .closing) := by
  set o : Order := .resume (lotOfRun s r).tag (s.run r).pos (s.run r).pass (usableSites (s.cell c) (stepOfRun s r))
  set k := (s.cell c).entered s.timer .running none with hk
  set u := ((sendBoth c o s).setCell c k).setRun r ((s.run r).goingOn .closing) with hu
  have hresume : resumeRun c r s = resumeClosing r u := by
    rw [resumeRun, enterCell, State.modCell, State.modRun]
    simp only [sendBoth_cell, sendBoth_timer, sendBoth_run, setCell_run]
    rw [hu, ← hinto]
    rfl
  have hrun : u.run r = (s.run r).goingOn .closing := setRun_run ..
  have hucell : u.cell c = k := by rw [hu, setRun_cell, setCell_cell]
  have hkdeadline : k.deadline = none := by
    rw [hk, Cell.entered_of_ne hstate]
    exact hdeadline
  have hutimer : u.timer = s.timer := by rw [hu, setRun_timer, setCell_timer, sendBoth_timer]
  have huprofile : u.profile = s.profile := by rw [hu, setRun_profile, setCell_profile, sendBoth_profile]
  have harm : resumeClosing r u = armRunDeadline c .closing u.profile.closing u := by
    rw [resumeClosing, hrun]
    rw [if_neg (by simp [Run.goingOn]), if_neg (by simp [Run.goingOn, htarget]),
      show ((s.run r).goingOn .closing).cell = c from hcell, hucell, hkdeadline]
    exact if_neg (by simp)
  rw [hresume, harm, armRunDeadline, State.modCell, hucell, hutimer, huprofile,
    Cell.armRun_of_run (fun d hd => absurd hd (by simp [hkdeadline])), hu, seconds, Nat.mul_comm, setRun_work, setCell_work,
    setCell_work, setRun_work, setCell_work]
  simp only [work_work, work_lots, work_runs, work_cells, work_queue, work_seqCounter, vset_vset]
  rw [hk, Cell.entered_of_ne hstate]

/-- A preparation that has nothing to do, for a run parked from TESTING or CLOSING on its cell: the run is resumed at
once, CLOSING armed anew (R98, R109, R137). -/
theorem prepBegin_goesBack {origin : Origin} {was : Option ActiveState}
    (hsetup : setupCost (s.cell c) (stepOfRun s r) = 0)
    (hplanned : goldenPlanned s.profile (s.cell c) (stepOfRun s r) origin = false)
    (hrun : (s.run r).state = .stopped ∧ (s.run r).stoppedFrom = was
      ∨ (s.run r).state = .suspended ∧ (s.run r).suspendedFrom = was)
    (hfree : runBlocked s r = false) (hcell : (s.run r).cell = c) (hdeadline : (s.cell c).deadline = none)
    (hwas : was = some .testing ∨ was = some .closing ∧ (s.run r).targetReached = false)
    (hstate : (s.cell c).state ≠ .running) :
    prepBegin c r origin s =
      ((sendBoth c (.resume (lotOfRun s r).tag (s.run r).pos (s.run r).pass
          (usableSites (s.cell c) (stepOfRun s r))) s).setCell c
        { backAtWork (s.cell c) s with deadline := rearmed was s }).setRun r ((s.run r).goingOn (Run.backInto was)) := by
  have hinto : (s.run r).resumesInto = Run.backInto was := by
    rcases hrun with ⟨hrun, hfrom⟩ | ⟨hrun, hfrom⟩ <;> rcases hwas with h | ⟨h, -⟩ <;> subst h <;>
      rw [Run.resumesInto, hrun, hfrom] <;> rfl
  have hparked : ((s.run r).state = .stopped ∧ runBlocked s r = false) ∨ ((s.run r).state = .suspended ∧ runBlocked s r = false) :=
    hrun.imp (fun h => ⟨h.1, hfree⟩) fun h => ⟨h.1, hfree⟩
  rcases hwas with rfl | ⟨rfl, htarget⟩
  · rw [prepBegin_resumes hsetup hplanned (.inr (.inr hparked)) (.inl (by rw [hinto]; simp [Run.backInto])), hinto,
      Cell.entered_of_ne (by exact hstate)]
    refine congrArg (fun k => ((sendBoth c _ s).setCell c k).setRun r _) ?_
    rw [rearmed, if_neg (by simp), ← hdeadline]
    rfl
  · set k : Cell := { s.cell c with prep := none } with hk
    have hkcell : (s.setCell c k).cell c = k := setCell_cell ..
    rw [prepBegin_nothing hsetup hplanned, endForTarget_resumes (by exact .inr (.inr hparked)), setCell_cell, setCell_timer,
      setCell_setCell, dropPrep_of_fresh, ← hk,
      resumeRun_rearms (s := s.setCell c k) (by exact hinto) (by exact hcell) (by exact htarget) (by rw [hkcell]; exact hdeadline)
        (by rw [hkcell]; exact hstate), hkcell, sendBoth_setCell _ _ _ _ fun role => by cases role <;> rfl, setCell_setCell]
    rfl

end

/-! ## What a release frees on a STOPPED cell (R13, R133) -/

section
variable {r : RunIx} {s : State} (hstopped : (s.cell (s.run r).cell).state = .stopped) (hfree : runBlocked s r = false)
include hstopped hfree

theorem freeOpen_prepares (hcur : (s.cell (s.run r).cell).current = some r) (hrun : (s.run r).state = .stopped) :
    freeOpen r s = prepBegin (s.run r).cell r .stopped s := by
  rw [freeOpen]
  rw [if_neg (by simp [hstopped]), if_pos ⟨hcur, by simp [resumable, hrun, hfree]⟩]

theorem freeOpen_pops {below : List RunIx} (hcur : (s.cell (s.run r).cell).current = none)
    (hstack : (s.cell (s.run r).cell).stack = r :: below) :
    freeOpen r s = prepBegin (s.run r).cell r .pop
      (s.setCell (s.run r).cell { s.cell (s.run r).cell with stack := below, current := some r }) := by
  rw [freeOpen]
  rw [if_neg (by simp [hstopped]), if_neg (by simp [hcur]), if_pos ⟨hcur, by rw [hstack]; rfl, by simp [hfree]⟩, popOrIdle, hstack]
  exact if_neg (by simp [hfree])

end

/-! ## The release on a lot with one open run (R13, R15, R17) -/

/-- The state of a lot with one open run after the removal of a record (R15). -/
def removed (l : LotSlot) (k : HoldKind) (place : Option RunPlace) (p : RunPlace) (r : RunIx) (s : State) : State :=
  (afterRelease l k place s).setRun r ((s.run r).emptied k place p)

/-- A lot back at work where nothing holds it any more (R17 case 3). -/
def Lot.backAtWork (x : Lot) : Lot :=
  { x with state := if x.state = .held then (if x.stepStarted then .running else .waiting) else x.state }

section
variable {l : LotSlot} {k : HoldKind} {place : Option RunPlace} {p : RunPlace} {r : RunIx} {s : State}

theorem removed_lot : (removed l k place p r s).lot l = (s.lot l).freed k place := by
  rw [removed, setRun_lot, afterRelease, setLot_lot]

theorem removed_run : (removed l k place p r s).run r = (s.run r).emptied k place p := setRun_run ..

theorem removed_cell (c : CellIx) : (removed l k place p r s).cell c = s.cell c := by
  rw [removed, setRun_cell, afterRelease, setLot_cell, postNotice_cell]

theorem removed_timer : (removed l k place p r s).timer = s.timer := by
  rw [removed, setRun_timer, afterRelease, setLot_timer, postNotice_timer]

theorem removed_profile : (removed l k place p r s).profile = s.profile := by
  rw [removed, setRun_profile, afterRelease, setLot_profile, postNotice_profile]

theorem removed_queue : (removed l k place p r s).queue = s.queue := by
  rw [removed, setRun_queue, afterRelease, setLot_queue, postNotice_queue]

theorem freed_identity (x : Lot) : (x.freed k place).tag = x.tag ∧ (x.freed k place).route = x.route
    ∧ (x.freed k place).step = x.step := by
  rw [freed_eq]
  exact ⟨rfl, rfl, rfl⟩

theorem removed_stepOf : stepOf (removed l k place p r s) ((s.lot l).freed k place) = stepOf s (s.lot l) := by
  obtain ⟨-, hroute, hstep⟩ := freed_identity (k := k) (place := place) (s.lot l)
  exact stepOf_congr (by rw [removed, setRun_routes, afterRelease, setLot_routes, postNotice_routes]) hroute hstep

section
variable (honly : onlyRun l p r s)
include honly

theorem removed_onlyRun : onlyRun l p r (removed l k place p r s) := by
  refine ⟨fun q => ?_, ?_⟩
  · rw [removed_lot, freed_openAt]
    exact honly.1 q
  · rw [removed_run]
    exact honly.2

theorem removed_lotOfRun : lotOfRun (removed l k place p r s) r = (s.lot l).freed k place := by
  rw [lotOfRun, (removed_onlyRun honly).2.1, removed_lot]

theorem removed_stepOfRun : stepOfRun (removed l k place p r s) r = stepOf s (s.lot l) := by
  rw [stepOfRun, removed_lotOfRun honly, removed_stepOf]

theorem removed_runBlocked
    (h : ∀ e ∈ (s.lot l).holds.filter fun e => !e.is k place, e.policy = .mark ∨ (e.pos ≠ none ∧ e.pos ≠ some p)) :
    runBlocked (removed l k place p r s) r = false := by
  rw [runBlocked, removed_lotOfRun honly, (removed_onlyRun honly).2.2]
  exact blockedAt_eq_false_of (by rw [freed_eq]; exact h)

/-- What the release frees, once it is known what becomes of the run. -/
theorem freeing_removed (hlots : (freeOpen r (removed l k place p r s)).lots = (removed l k place p r s).lots)
    (hqueue : (freeOpen r (removed l k place p r s)).queue = (removed l k place p r s).queue)
    (hclosed : (s.lot l).stepClosed = false) (hroute : (s.lot l).routeComplete = false)
    (hfree : (s.lot l).state = .held → ((s.lot l).freed k place).lotBlocked = false) (hassign : (s.lot l).toAssign = 0)
    (hout : l ∉ s.queue) :
    freeing l (removed l k place p r s) =
      (freeOpen r (removed l k place p r s)).setLot l ((s.lot l).freed k place).backAtWork := by
  set v := removed l k place p r s with hv
  have hlot (m : LotSlot) : (freeOpen r v).lot m = v.lot m := by rw [State.lot, hlots, State.lot]
  have hvlot : v.lot l = (s.lot l).freed k place := removed_lot
  have hopen : eachOpen l none freeOpen v = freeOpen r v := eachOpen_of_onlyRun (removed_onlyRun honly) fun q hq => by
    rw [hlot, (removed_onlyRun honly).1 q, if_neg hq]
  have hsame : (freeOpen r v).lot l = (s.lot l).freed k place := (hlot l).trans hvlot
  rw [freeing_of_assigned hopen (by rw [hsame, freed_eq]; exact hclosed) (by rw [hsame, freed_eq]; exact hroute)
    (by rw [hsame]; exact fun hh => hfree (by rw [freed_eq] at hh; exact hh)) (by rw [hsame, freed_eq]; exact hassign)
    (by rw [hqueue, hv, removed_queue]; exact hout), hsame]
  rfl

/-- The run goes back to work at once (R13, R137). -/
theorem freeing_resumes {c : CellIx} {y : Cell} {was : Option ActiveState}
    (hopened : freeOpen r (removed l k place p r s) =
      ((sendBoth c (.resume ((s.lot l).freed k place).tag (s.run r).pos (s.run r).pass
          (usableSites (s.cell c) (stepOf s (s.lot l)))) (removed l k place p r s)).setCell c y).setRun r
        (((s.run r).emptied k place p).goingOn (Run.backInto was)))
    (hclosed : (s.lot l).stepClosed = false) (hroute : (s.lot l).routeComplete = false)
    (hfree : ((s.lot l).freed k place).lotBlocked = false) (hassign : (s.lot l).toAssign = 0) (hout : l ∉ s.queue) :
    freeing l (removed l k place p r s) =
      { sendBoth c (.resume (s.lot l).tag p (s.run r).pass (usableSites (s.cell c) (stepOf s (s.lot l))))
          (postNotice (.holdReleased (s.lot l).tag k place) s) with
        lots := vset s.lots l ((s.lot l).freed k place).backAtWork
        runs := vset s.runs r (((s.run r).emptied k place p).goingOn (Run.backInto was))
        cells := vset s.cells c y } := by
  rw [freeing_removed honly (by rw [hopened, setRun_lots, setCell_lots, sendBoth_lots])
    (by rw [hopened, setRun_queue, setCell_queue, sendBoth_queue]) hclosed hroute (fun _ => hfree) hassign hout, hopened,
    (freed_identity (s.lot l)).1, honly.2.2, removed, afterRelease, sendBoth_setRun, sendBoth_setLot]
  simp only [setRun_work, setCell_work, setLot_work, work_work, work_lots, work_runs, work_cells, work_queue,
    work_seqCounter, vset_vset, sendBoth_lots, sendBoth_runs, sendBoth_cells, postNotice_lots, postNotice_runs,
    postNotice_cells]
  rfl

end

end

/-- The clause of O23 on a lot with one open run (R13, R15, R17, R83, R132, R133, R137). -/
theorem releaseFreesTheRun (h : ReqHead) (tag : Tag) (kind pos : Byte) (k : HoldKind) (place : Option RunPlace) (l : LotSlot)
    (p : RunPlace) (r : RunIx) (s : State) (ho : inOperate (.lotRelease h tag kind pos) h s) (hkind : k.code = kind.toNat)
    (hplace : places? k pos place) (hl : findLot s tag = some l) :
    let x := s.lot l
    let run := s.run r
    let c := run.cell
    let kc := s.cell c
    let st := stepOf s x
    let rest := x.holds.filter fun e => !(e.is k place)
    let y : Lot := { x with
      holds := rest, yieldWaived := x.yieldWaived || k == .yield, binWaived := x.binWaived || k == .bin
      state := if x.state = .held then (if x.stepStarted then .running else .waiting) else x.state }
    let emptied : Run := { run with
      ring := if k = .window ∧ place = some p then [] else run.ring
      sites := if (k = .site ∨ k = .consec) ∧ place = some p then Vector.replicate 16 ⟨0, 0, 0⟩ else run.sites }
    let resumed : Option ActiveState → Run := fun was => { emptied with
      state := if was = some .closing then .closing else .testing, stoppedFrom := none, suspendedFrom := none }
    let rearmed : Option ActiveState → Option Deadline := fun was =>
      if was = some .closing then some ⟨.closing, s.timer + 1000 * s.profile.closing⟩ else none
    let u := postNotice (.holdReleased x.tag k place) s
    let resume := sendBoth c (.resume x.tag p run.pass (usableSites kc st)) u
    x.holdsKind k place = true → onlyRun l p r s → x.stepClosed = false → x.routeComplete = false →
    (x.state = .waiting ∨ x.state = .running ∨ x.state = .held) → x.toAssign = 0 → l ∉ s.queue →
    (kc.state ≠ .stopped → x.state ≠ .held →
      exec (.lotRelease h tag kind pos) s = .next (respond h 0x0313 (ok
        { u with lots := vset s.lots l y, runs := vset s.runs r emptied })))
    ∧ ((∀ e ∈ rest, e.policy = .mark ∨ (e.pos ≠ none ∧ e.pos ≠ some p)) → kc.state = .stopped → kc.prep = none →
      setUpFor kc st →
      (kc.current = some r → run.state = .stopped → kc.goldenValid = true → kc.deadline = none →
        (run.stoppedFrom = some .testing ∨ (run.stoppedFrom = some .closing ∧ run.targetReached = false)) →
        exec (.lotRelease h tag kind pos) s = .next (respond h 0x0313 (ok
          { resume with
            lots := vset s.lots l y, runs := vset s.runs r (resumed run.stoppedFrom)
            cells := vset s.cells c { backAtWork kc s with deadline := rearmed run.stoppedFrom } })))
      ∧ (kc.current = some r → run.state = .stopped → kc.goldenValid = false → runDeadline kc →
        exec (.lotRelease h tag kind pos) s = .next (respond h 0x0313 (ok
          { sendBoth c (.golden st.siteCount) u with
            lots := vset s.lots l y, runs := vset s.runs r emptied
            cells := vset s.cells c (checking kc r .return .stopped st s) })))
      ∧ ∀ below, kc.current = none → kc.stack = r :: below → run.state = .suspended → kc.goldenValid = true →
        kc.deadline = none →
        (run.suspendedFrom = some .testing ∨ (run.suspendedFrom = some .closing ∧ run.targetReached = false)) →
        exec (.lotRelease h tag kind pos) s = .next (respond h 0x0313 (ok
          { resume with
            lots := vset s.lots l y, runs := vset s.runs r (resumed run.suspendedFrom)
            cells := vset s.cells c { backAtWork kc s with
              stack := below, current := some r, deadline := rearmed run.suspendedFrom } }))) := by
  intro x run c kc st rest y emptied resumed rearmedTo u resume hheld honly hclosed hroute hstate hassign hout
  set v := removed l k place p r s with hv
  have hexec : exec (.lotRelease h tag kind pos) s = .next (respond h 0x0313 (ok (freeing l v))) := by
    rw [exec_inOperate (kind := 0x0313) (own := ownLotRelease tag kind pos) ho rfl rfl,
      ownLotRelease_of_held hkind hplace hl hheld, removeHold_onlyRun honly, hv, removed]
  have hy : (x.freed k place).backAtWork = y := by
    rw [freed_eq]
    rfl
  have hvrun : v.run r = emptied := removed_run
  have hvcell : v.cell c = kc := removed_cell c
  have hvtimer : v.timer = s.timer := removed_timer
  have hvprofile : v.profile = s.profile := removed_profile
  have hrcell : (v.run r).cell = c := by rw [hvrun]
  have hvlotOf : lotOfRun v r = x.freed k place := removed_lotOfRun honly
  have hvstep : stepOfRun v r = st := removed_stepOfRun honly
  have hvonly : onlyRun l p r v := removed_onlyRun honly
  rw [hexec]
  refine ⟨fun hbusy hnot => ?_, fun hmarks hstopped hprep hsetup => ?_⟩
  · have hopened : freeOpen r v = v := freeOpen_of_busy (by rw [hrcell, hvcell]; exact hbusy)
    rw [freeing_removed honly (by rw [← hv, hopened]) (by rw [← hv, hopened]) hclosed hroute (fun hh => absurd hh hnot) hassign
      hout, ← hv, hopened, hy, hv, removed, afterRelease]
    refine congrArg (fun t => Host.Outcome.next (respond h 0x0313 (ok t))) ?_
    simp only [setRun_work, setLot_work, work_work, work_lots, work_runs, work_cells, work_queue, work_seqCounter, vset_vset,
      postNotice_lots, postNotice_runs]
    rfl
  · obtain ⟨hcost, hsites⟩ := hsetup
    have hvfree : runBlocked v r = false := removed_runBlocked honly hmarks
    have hlotfree : (x.freed k place).lotBlocked = false :=
      lotBlocked_eq_false_of (by rw [freed_eq]; exact fun e he => (hmarks e he).imp_right And.left)
    have hfew : tooFewSites kc st = false := decide_eq_false (by omega)
    have hback (was : Option ActiveState) :
        ({ backAtWork kc v with deadline := rearmed was v } : Cell) = { backAtWork kc s with deadline := rearmedTo was } := by
      rw [backAtWork, rearmed, hvtimer, hvprofile]
      rfl
    refine ⟨fun hcur hrun hvalid hdeadline hwas => ?_, fun hcur hrun hvalid hdeadline => ?_,
      fun below hcur hstack hrun hvalid hdeadline hwas => ?_⟩
    · have hopened : freeOpen r v = ((sendBoth c (.resume (x.freed k place).tag run.pos run.pass (usableSites kc st))
          v).setCell c { backAtWork kc s with deadline := rearmedTo run.stoppedFrom }).setRun r
          (emptied.goingOn (Run.backInto run.stoppedFrom)) := by
        rw [freeOpen_prepares (by rw [hrcell, hvcell]; exact hstopped) hvfree (by rw [hrcell, hvcell]; exact hcur)
          (by rw [hvrun]; exact hrun), hrcell,
          prepBegin_goesBack (was := run.stoppedFrom) (by rw [hvcell, hvstep]; exact hcost)
            (by rw [hvcell, hvstep]; simp [goldenPlanned, hvalid, hfew]) (by rw [hvrun]; exact .inl ⟨hrun, rfl⟩) hvfree hrcell
            (by rw [hvcell]; exact hdeadline) (by rw [hvrun]; exact hwas)
            (by rw [hvcell, hstopped]; simp), hvlotOf, hvrun, hvcell, hvstep, hback]
      rw [freeing_resumes honly hopened hclosed hroute hlotfree hassign hout, hy]
      rfl
    · have hopened : freeOpen r v = (sendBoth c (.golden st.siteCount) v).setCell c (checking kc r .return .stopped st s) := by
        rw [freeOpen_prepares (by rw [hrcell, hvcell]; exact hstopped) hvfree (by rw [hrcell, hvcell]; exact hcur)
          (by rw [hvrun]; exact hrun), hrcell,
          prepBegin_golden (by rw [hvcell, hvstep]; exact .inr hcost) (by rw [hvcell, hvstep]; simp [goldenPlanned, hvalid])
            (by rw [hvcell]; exact hdeadline) (by rw [hvcell, hstopped]; simp), hvcell, hvstep,
          checking_congr hvtimer hvprofile]
        rfl
      rw [freeing_removed honly (by rw [← hv, hopened, setCell_lots, sendBoth_lots])
        (by rw [← hv, hopened, setCell_queue, sendBoth_queue]) hclosed hroute (fun _ => hlotfree) hassign hout, ← hv, hopened,
        hy, hv, removed, afterRelease, sendBoth_setRun, sendBoth_setLot]
      refine congrArg (fun t => Host.Outcome.next (respond h 0x0313 (ok t))) ?_
      simp only [setRun_work, setCell_work, setLot_work, work_work, work_lots, work_runs, work_cells, work_queue,
        work_seqCounter, vset_vset, sendBoth_lots, sendBoth_runs, sendBoth_cells, postNotice_lots, postNotice_runs,
        postNotice_cells]
      rfl
    · set w := v.setCell c { kc with stack := below, current := some r } with hw
      have hwcell : w.cell c = { kc with stack := below, current := some r } := setCell_cell ..
      have hwstep : stepOfRun w r = st := hvstep
      have hwrun : w.run r = emptied := hvrun
      have hwlotOf : lotOfRun w r = x.freed k place := hvlotOf
      have hplanned : (!kc.goldenValid || tooFewSites kc st) = false := by
        rw [hvalid, hfew]
        rfl
      have hbackw : ({ backAtWork { kc with stack := below, current := some r } w with
          deadline := rearmed run.suspendedFrom w } : Cell) =
          { backAtWork kc s with stack := below, current := some r, deadline := rearmedTo run.suspendedFrom } := by
        rw [backAtWork, rearmed, show w.timer = s.timer from hvtimer, show w.profile = s.profile from hvprofile]
        rfl
      have hopened : freeOpen r v = ((sendBoth c (.resume (x.freed k place).tag run.pos run.pass (usableSites kc st))
          v).setCell c { backAtWork kc s with
            stack := below, current := some r, deadline := rearmedTo run.suspendedFrom }).setRun r
          (emptied.goingOn (Run.backInto run.suspendedFrom)) := by
        rw [freeOpen_pops (by rw [hrcell, hvcell]; exact hstopped) hvfree (by rw [hrcell, hvcell]; exact hcur)
          (by rw [hrcell, hvcell]; exact hstack), hrcell, hvcell, ← hw,
          prepBegin_goesBack (s := w) (was := run.suspendedFrom) (by rw [hwcell, hwstep]; exact hcost)
            (by rw [hwcell, hwstep]; exact hplanned) (by rw [hwrun]; exact .inr ⟨hrun, rfl⟩) (by exact hvfree)
            (by exact hrcell) (by rw [hwcell]; exact hdeadline) (by rw [hwrun]; exact hwas)
            (by rw [hwcell]; show kc.state ≠ _; rw [hstopped]; simp), hwlotOf, hwrun, hwcell, hwstep, hbackw, hw,
          sendBoth_setCell _ _ _ _ (fun role => by rw [hvcell]; cases role <;> rfl), setCell_setCell]
        rfl
      rw [freeing_resumes honly hopened hclosed hroute hlotfree hassign hout, hy]
      rfl

/-! ## The release on a lot with no open run (R17) -/

theorem exec_lotRelease {h : ReqHead} {tag : Tag} {kind pos : Byte} {k : HoldKind} {place : Option RunPlace} {l : LotSlot}
    {s : State} (ho : inOperate (.lotRelease h tag kind pos) h s) (hkind : k.code = kind.toNat) (hplace : places? k pos place)
    (hl : findLot s tag = some l) (hheld : (s.lot l).holdsKind k place = true) (hidle : (s.lot l).idle) :
    exec (.lotRelease h tag kind pos) s =
      .next (respond h 0x0313 (ok (freeing l (afterRelease l k place s)))) := by
  rw [exec_inOperate (kind := 0x0313) (own := ownLotRelease tag kind pos) ho rfl rfl,
    ownLotRelease_of_held hkind hplace hl hheld, removeHold_idle hidle]

section
variable {l : LotSlot} {k : HoldKind} {place : Option RunPlace} {s : State}

theorem afterRelease_lot : (afterRelease l k place s).lot l = (s.lot l).freed k place := setLot_lot ..

theorem afterRelease_queue : (afterRelease l k place s).queue = s.queue := by rw [afterRelease, setLot_queue, postNotice_queue]

theorem afterRelease_seqCounter : (afterRelease l k place s).seqCounter = s.seqCounter := by
  rw [afterRelease, setLot_seqCounter, postNotice_seqCounter]

theorem afterRelease_cells : (afterRelease l k place s).cells = s.cells := by rw [afterRelease, setLot_cells, postNotice_cells]

theorem afterRelease_runs : (afterRelease l k place s).runs = s.runs := by rw [afterRelease, setLot_runs, postNotice_runs]

theorem afterRelease_routes : (afterRelease l k place s).routes = s.routes := by rw [afterRelease, setLot_routes, postNotice_routes]

theorem afterRelease_timer : (afterRelease l k place s).timer = s.timer := by rw [afterRelease, setLot_timer, postNotice_timer]

theorem afterRelease_profile : (afterRelease l k place s).profile = s.profile := by
  rw [afterRelease, setLot_profile, postNotice_profile]

theorem afterRelease_cls (m : LotSlot) : ((afterRelease l k place s).lot m).cls = (s.lot m).cls := by
  by_cases hm : l = m
  · subst hm
    rw [afterRelease_lot, freed_eq]
  · rw [afterRelease, setLot_lot_ne _ _ hm, postNotice_lot]

theorem freed_idle (hidle : (s.lot l).idle) : ((s.lot l).freed k place).idle := fun p => by
  rw [freed_openAt]
  exact hidle p

theorem afterRelease_notAging (hage : notAging (s.lot l) s) : notAging ((s.lot l).freed k place) (afterRelease l k place s) := by
  rw [notAging, afterRelease_timer, afterRelease_profile, freed_eq]
  exact hage

theorem afterRelease_noCandidateFor {cls : Nat} {preempt : Bool} {st : Step} (h : noCandidateFor cls preempt st s) :
    noCandidateFor cls preempt st (afterRelease l k place s) :=
  noCandidateFor_congr afterRelease_cells afterRelease_runs afterRelease_cls h

/-- Two floors with the same lots order a queue alike (R114). -/
theorem placeIn_lots {s t : State} (l : LotSlot) (q : List LotSlot) (h : t.lots = s.lots) : placeIn t l q = placeIn s l q :=
  placeIn_congr l q (fun m => by rw [State.lot, h]; rfl) (fun m => by rw [State.lot, h]; rfl)

end

/-- The clause of O23 on a lot HELD within a step (R6, R15, R17). -/
theorem releaseReturnsTheLot (h : ReqHead) (tag : Tag) (kind : Byte) (k : HoldKind) (l : LotSlot) (s : State)
    (ho : inOperate (.lotRelease h tag kind 0xFF) h s) (hkind : k.code = kind.toNat) (hklot : k.isLot = true)
    (hl : findLot s tag = some l) :
    let x := s.lot l
    let rest := x.holds.filter fun e => !(e.is k none)
    x.holdsKind k none = true → x.state = .held → x.stepClosed = false → x.routeComplete = false → x.idle →
    1 ≤ x.toAssign → (∀ e ∈ rest, e.policy = .mark ∨ e.pos ≠ none) → l ∉ s.queue →
    notAging x s →
    noCellFor (stepOf s x) s → noCandidateFor x.cls x.preempt (stepOf s x) s →
    let t := s.setLot l
      { x with
        holds := rest
        yieldWaived := x.yieldWaived || k == .yield
        binWaived := x.binWaived || k == .bin
        state := if x.stepStarted then .running else .waiting }
    exec (.lotRelease h tag kind 0xFF) s = .next (respond h 0x0313 (ok
      (postNotice (.holdReleased x.tag k none) { t with queue := placeIn t l s.queue }))) := by
  intro x rest hheld hstate hclosed hroute hidle hassign hmarks hout hage hcell hhot t
  set v := afterRelease l k none s with hv
  have hvlot : v.lot l = x.freed k none := afterRelease_lot
  have hfreed := freed_eq x k none
  have hstep : stepOf v (x.freed k none) = stepOf s x :=
    stepOf_congr afterRelease_routes (freed_identity x).2.1 (freed_identity x).2.2
  have hfree : (x.freed k none).lotBlocked = false := lotBlocked_eq_false_of (by rw [hfreed]; exact hmarks)
  have hfreeing := freeing_of_held (l := l) (s := v) (by rw [hvlot, hfreed]; exact hstate)
    (by rw [hvlot, hfreed]; exact hclosed) (by rw [hvlot, hfreed]; exact hroute) (by rw [hvlot]; exact freed_idle hidle)
    (by rw [hvlot]; exact hfree) (by rw [hvlot, hfreed]; exact hassign) (by rw [hv, afterRelease_queue]; exact hout)
    (by rw [hvlot]; exact afterRelease_notAging hage) (by rw [hvlot, hstep]; exact noCellFor_congr afterRelease_cells hcell)
    (by rw [hvlot, hstep, hfreed]; exact afterRelease_noCandidateFor hhot)
  have hstarted : (x.freed k none).stepStarted = x.stepStarted := by rw [hfreed]
  set y : Lot := { x.freed k none with state := if x.stepStarted then .running else .waiting } with hy
  have hty : t = s.setLot l y := by
    rw [hy, hfreed]
  have hsame : v.setLot l y = (postNotice (.holdReleased x.tag k none) s).setLot l y := by
    rw [hv, afterRelease, setLot_setLot]
  have hlots : (v.setLot l y).lots = (s.setLot l y).lots := by
    rw [hsame]
    exact congrArg (fun m => vset m l y) (postNotice_lots ..)
  rw [exec_lotRelease ho hkind (.inl ⟨hklot, rfl, rfl⟩) hl hheld hidle, hfreeing, hvlot, hstarted, ← hy, placeIn_lots l _ hlots,
    hv, afterRelease_queue, ← hv, hsame, hty]
  refine congrArg (fun t => Host.Outcome.next (respond h 0x0313 (ok t))) ?_
  show _ = postNotice _ ((s.setLot l y).work (s.setLot l y).lots s.runs s.cells (placeIn (s.setLot l y) l s.queue) s.seqCounter)
  rw [postNotice_work, postNotice_setLot, setLot_work, setLot_work]
  simp only [work_work, work_lots, work_runs, work_cells, work_seqCounter, postNotice_lots, postNotice_runs, postNotice_cells,
    postNotice_queue, postNotice_seqCounter]
  rfl

/-- The clause of O23 on a lot HELD past its route (R17, R21). -/
theorem releaseFinishesTheLot (h : ReqHead) (tag : Tag) (kind : Byte) (k : HoldKind) (l : LotSlot) (s : State)
    (ho : inOperate (.lotRelease h tag kind 0xFF) h s) (hkind : k.code = kind.toNat) (hklot : k.isLot = true)
    (hl : findLot s tag = some l) :
    let x := s.lot l
    x.holdsKind k none = true → x.holds.filter (fun e => !(e.is k none)) = [] → x.state = .held →
    x.routeComplete = true → x.idle → l ∉ s.queue →
    exec (.lotRelease h tag kind 0xFF) s = .next (respond h 0x0313 (ok
      ((postNotice (.lotFinished x.tag x.gradeQty) (postNotice (.holdReleased x.tag k none) s)).setLot l
        { x with
          holds := [], state := .finished, yieldWaived := x.yieldWaived || k == .yield
          binWaived := x.binWaived || k == .bin }))) := by
  intro x hheld hempty hstate hroute hidle hout
  have hfreed := freed_eq x k none
  rw [hempty] at hfreed
  have hvlot : (afterRelease l k none s).lot l = x.freed k none := afterRelease_lot
  rw [exec_lotRelease ho hkind (.inl ⟨hklot, rfl, rfl⟩) hl hheld hidle,
    freeing_of_routeEnd (by rw [hvlot]; exact freed_idle hidle) (by rw [hvlot, hfreed]; exact hstate)
      (by rw [hvlot, hfreed]; exact hroute) (by rw [hvlot, hfreed]) (by rw [afterRelease_queue]; exact hout), hvlot, hfreed,
    afterRelease, setLot_setLot, postNotice_setLot]

/-- The clause of O23 on a lot HELD at its step's close (R17, R20, R21). -/
theorem releaseAdvancesTheLot (h : ReqHead) (tag : Tag) (kind pos : Byte) (k : HoldKind) (place : Option RunPlace) (l : LotSlot)
    (s : State) (ho : inOperate (.lotRelease h tag kind pos) h s) (hkind : k.code = kind.toNat)
    (hplace : places? k pos place) (hl : findLot s tag = some l) :
    let x := s.lot l
    let f := x.figures
    let steps := (s.route x.route).steps
    let rest := x.holds.filter fun e => !(e.is k place)
    let v := postNotice (.stepDone x.tag x.step f.tested f.goodFinal) (postNotice (.holdReleased x.tag k place) s)
    x.holdsKind k place = true → (∀ e ∈ rest, e.policy = .mark) → x.state = .held → x.stepClosed = true →
    x.routeComplete = false → x.idle → l ∉ s.queue →
    (∀ st, 0 < f.goodFinal → steps[x.step + 1]? = some st → s.seqCounter < 4294967295 → 1 ≤ st.maxRuns → 1 ≤ x.split →
      notAging x s → noCellFor st s → noCandidateFor x.cls x.preempt st s →
      let t := s.setLot l
        { x with
          holds := rest, q := f.goodFinal, step := x.step + 1, runsPerStep := min x.split st.maxRuns
          toAssign := min x.split st.maxRuns, runs := Vector.replicate 4 .absent, closedRuns := 0
          figures := ⟨0, 0, Vector.replicate 15 0, 0, 0, Vector.replicate 4 0⟩, yieldWaived := false
          binWaived := false, stepStarted := false, stepClosed := false, state := .waiting, queueSeq := s.seqCounter }
      exec (.lotRelease h tag kind pos) s = .next (respond h 0x0313 (ok
        { v with lots := t.lots, seqCounter := s.seqCounter + 1, queue := placeIn t l s.queue })))
    ∧ ((f.goodFinal = 0 ∨ steps.length ≤ x.step + 1) →
      let y : Lot := { x with
        holds := rest, yieldWaived := x.yieldWaived || k == .yield, binWaived := x.binWaived || k == .bin
        gradeQty := if f.goodFinal = 0 then Vector.replicate 4 0 else f.gradeSums
        marks := Vector.replicate 4 .free, routeComplete := true, state := if rest = [] then .finished else .held }
      exec (.lotRelease h tag kind pos) s = .next (respond h 0x0313 (ok
        ((if rest = [] then postNotice (.lotFinished x.tag y.gradeQty) v else v).setLot l y)))) := by
  intro x f steps rest v hheld hmarks hstate hclosed hroute hidle hout
  set w := afterRelease l k place s with hw
  have hwlot : w.lot l = x.freed k place := afterRelease_lot
  have hfreed := freed_eq x k place
  have hfree : (x.freed k place).anyBlocked = false := anyBlocked_of_marks (by rw [hfreed]; exact hmarks)
  have hroutew : (w.route (x.freed k place).route).steps = steps := by
    rw [(freed_identity x).2.1, State.route, hw, afterRelease_routes]
    rfl
  have hfigures : (x.freed k place).figures = f := by rw [hfreed]
  have hports (n : Notice) : postNotice n w = (postNotice n (postNotice (.holdReleased x.tag k place) s)).setLot l
      (x.freed k place) := by
    rw [hw, afterRelease, postNotice_setLot]
  have hdone : Notice.stepDone (x.freed k place).tag (x.freed k place).step (x.freed k place).figures.tested
      (x.freed k place).figures.goodFinal = .stepDone x.tag x.step f.tested f.goodFinal := by rw [hfreed]
  rw [exec_lotRelease ho hkind hplace hl hheld hidle,
    freeing_of_stepClosed (by rw [hwlot]; exact freed_idle hidle) (by rw [hwlot, hfreed]; exact hstate)
      (by rw [hwlot, hfreed]; exact hclosed) (by rw [hwlot, hfreed]; exact hroute) (by rw [hwlot]; exact hfree)
      (by rw [afterRelease_queue]; exact hout)]
  refine ⟨fun st hgood hst hseq hruns hsplit hage hcell hhot => ?_, fun hend => ?_⟩
  · intro t
    set y := (x.freed k place).advanced st s.seqCounter with hy
    have hty : t = s.setLot l y := by
      rw [hy, hfreed]
      rfl
    have hadvance := advance_next (l := l) (s := w) (st := st) (by rw [hwlot, hfigures]; exact hgood)
      (by rw [hwlot, hroutew, (freed_identity x).2.2]; exact hst) (by rw [hw, afterRelease_queue]; exact hout)
      (by rw [hw, afterRelease_seqCounter]; exact hseq) hruns (by rw [hwlot, hfreed]; exact hsplit)
      (by rw [hwlot]; exact lotBlocked_of_anyBlocked hfree) (by rw [hwlot]; exact afterRelease_notAging hage)
      (noCellFor_congr afterRelease_cells hcell) (by rw [hwlot, hfreed]; exact afterRelease_noCandidateFor hhot)
    have hlots : (w.setLot l y).lots = (s.setLot l y).lots := by
      rw [hw, afterRelease, setLot_setLot]
      exact congrArg (fun m => vset m l y) (postNotice_lots ..)
    rw [hwlot, hw, afterRelease_seqCounter, afterRelease_queue, ← hw, ← hy, hdone, placeIn_lots l _ hlots, hports, setLot_work,
      work_work] at hadvance
    have hstays : leaveRouteEnd l (advance l w) = advance l w := by
      refine leaveRouteEnd_of_working ?_
      rw [hadvance, work_lot, vset_get_same]
      rw [hy, Lot.advanced, Lot.nextStep]
      simp
    rw [hstays, hadvance, show vset w.lots l y = (s.setLot l y).lots from hlots, hty, hw, afterRelease_runs,
      afterRelease_cells]
    refine congrArg (fun t => Host.Outcome.next (respond h 0x0313 (ok t))) ?_
    show State.work v _ _ _ _ _ = State.work v (s.setLot l y).lots v.runs v.cells _ _
    rw [show v.runs = s.runs by simp [v], show v.cells = s.cells by simp [v]]
  · intro y
    have hempty : (x.freed k place).holds = [] ↔ rest = [] := by rw [hfreed]
    have hy : (x.freed k place).routeEnd = y := by
      rw [routeEnd_eq, hfreed]
    have hadvance := advance_ends (l := l) (s := w)
      (by rw [hwlot, hfigures, hroutew, (freed_identity x).2.2]; exact hend)
    dsimp only at hadvance
    rw [hwlot, hdone, hfigures, hy, (freed_identity x).1] at hadvance
    by_cases hrest : rest = []
    · rw [if_pos (hempty.2 hrest), hports, postNotice_setLot, setLot_setLot] at hadvance
      have hstays : leaveRouteEnd l (advance l w) = advance l w := by
        refine leaveRouteEnd_of_working ?_
        rw [hadvance, setLot_lot]
        show (if rest = [] then LotState.finished else .held) ≠ .held
        rw [if_pos hrest]
        simp
      rw [hstays, hadvance, if_pos hrest]
      rfl
    · rw [if_neg fun hh => hrest (hempty.1 hh), hports, setLot_setLot] at hadvance
      have hstays : leaveRouteEnd l (advance l w) = advance l w := by
        refine leaveRouteEnd_keeps (.inr (.inr ?_))
        rw [hadvance, setLot_lot]
        exact Bool.eq_false_iff.2 fun hh => hrest (List.isEmpty_iff.1 hh)
      rw [hstays, hadvance, if_neg hrest]

/-- Settles O23. -/
theorem lotReleaseFreesTheLot : Obligations.LotReleaseFreesTheLot := by
  refine ⟨fun h tag kind pos s ho => ?_,
    fun h tag kind k l s ho hkind hklot hl => releaseReturnsTheLot h tag kind k l s ho hkind hklot hl,
    fun h tag kind k l s ho hkind hklot hl => releaseFinishesTheLot h tag kind k l s ho hkind hklot hl,
    fun h tag kind pos k place l p r s ho hkind hplace hl =>
      releaseFreesTheRun h tag kind pos k place l p r s ho hkind hplace hl,
    fun h tag kind pos k place l s ho hkind hplace hl => releaseAdvancesTheLot h tag kind pos k place l s ho hkind hplace hl⟩
  rw [exec_inOperate (kind := 0x0313) (own := ownLotRelease tag kind pos) ho rfl rfl]
  refine ⟨fun hkind => ?_, fun hkind hpos => ?_, fun hlow hhigh hpos => ?_, fun k place hkind hplace hmissing => ?_⟩
  · rw [ownLotRelease, holdKindOf_none hkind]
  · obtain ⟨k, hk⟩ := exists_code (n := kind.toNat) (by omega)
    rw [ownLotRelease_range hk (releasePlaceOf_lot ((isLot_iff k).2 (by omega)) hpos)]
  · obtain ⟨k, hk⟩ := exists_code hhigh
    have hnot : ¬ k.isLot = true := fun hh => absurd ((isLot_iff k).1 hh) (by omega)
    rw [ownLotRelease_range hk (releasePlaceOf_far hnot hpos)]
  · rw [ownLotRelease_missing hkind hplace hmissing]

end Sys2Proof.Machine
end
